-- ==== Sys2Proof/Word.lean ====
section
/-! DEFINITION. The word types of the Merzilis M2 and their plainest arithmetic (R16, R71, R230). -/

namespace Sys2Proof

/-- One byte. -/
abbrev Byte := BitVec 8
/-- A general register's value, 32 bits (R16). -/
abbrev Word := BitVec 32
/-- A 64-bit value: a register pair, a clause or instruction word, a system register (R71, R107, R169). -/
abbrev DWord := BitVec 64
/-- A code address or virtual address, 57 bits (R16, R229). -/
abbrev Addr := BitVec 57
/-- A buffer record image, 128 bits (R230). -/
abbrev Rec := BitVec 128

/-- The type bit of a register, a predicate or a line: precise or approximate (R16, R236, R319). -/
inductive TBit where
  | P
  | A
  deriving DecidableEq, Repr

/-- A general register with its type bit (R16). -/
structure Reg where
  val : Word
  ty  : TBit
  deriving DecidableEq, Repr

/-- A predicate with its type bit (R16). -/
structure PReg where
  val : Bool
  ty  : TBit
  deriving DecidableEq, Repr

/-- The pair of 32-bit halves as one 64-bit value, low half first (R107). -/
def joinPair (lo hi : Word) : DWord := hi ++ lo

/-- The low half of a 64-bit value (R107). -/
def lowWord (v : DWord) : Word := v.setWidth 32

/-- The high half of a 64-bit value (R107). -/
def highWord (v : DWord) : Word := (v >>> 32).setWidth 32

end Sys2Proof
end

