-- ==== Sys2Proof/Syntax.lean ====
section
/-! DEFINITION. The syntax of Gelivo and of the machine's whole steps: one constructor of Instr per row of the opcode table
(R88, and the step table). Instruction rows carry their decoded operands; step rows carry what the outside world or
the choosing unit supplies. -/

namespace Sys2Proof

/-- A general-register field: 0x00 to 0xFE name g0 to g254, 0xFF names gz (R77). -/
abbrev G := BitVec 8
/-- A predicate field (R77). -/
abbrev PF := BitVec 3
/-- A buffer-record field (R77). -/
abbrev BF := BitVec 4
/-- A future-handle field (R77). -/
abbrev HF := BitVec 3

/-- The parts every guarded instruction word has: guard predicate, guard negate, stop bit (R76). -/
structure Ctl where
  pg : PF
  pn : Bool
  sp : Bool
  deriving DecidableEq, Repr

/-- The 32- and 64-bit integer types (R79). -/
inductive IntTy where
  | n32
  | s32
  | n64
  | s64
  deriving DecidableEq, Repr

/-- Every type suffix with a code in R79, none (0x1F) excepted. -/
inductive Ty where
  | n8
  | n16
  | n32
  | n64
  | s8
  | s16
  | s32
  | s64
  | f32
  | f16
  | bf16
  | e5m2
  | e4m3
  | e3m2
  | e2m3
  | e2m1
  | lq2
  deriving DecidableEq, Repr

/-- Rounding modifiers (R133). -/
inductive Rm where
  | rne
  | rz
  | rdn
  | rup
  | rna
  | rs
  deriving DecidableEq, Repr

/-- Integer compare conditions (R112). -/
inductive Cond where
  | eq
  | ne
  | lt
  | le
  | gt
  | ge
  deriving DecidableEq, Repr

/-- Floating compare conditions (R138). -/
inductive FCond where
  | eq
  | ne
  | lt
  | le
  | gt
  | ge
  | num
  | nan
  deriving DecidableEq, Repr

/-- The four forms of LEA (R121). -/
inductive LeaForm where
  | n32
  | n64n32
  | n64s32
  | n64
  deriving DecidableEq, Repr

/-- Scopes (R80). -/
inductive Scope where
  | thread
  | blk
  | cl
  | die
  | dev
  | sys
  deriving DecidableEq, Repr

/-- Ordering qualifiers (R80). -/
inductive Ord where
  | rlx
  | acq
  | rel
  | acqrel
  deriving DecidableEq, Repr

/-- Fold operations of the collective layout (R82). -/
inductive FoldOp where
  | add
  | min
  | max
  | and
  | or
  | xor
  deriving DecidableEq, Repr

/-- A collective's participant mask: a register, or a run of 2^lsz lanes from first (R82). -/
inductive MaskSpec where
  | reg (c : G)
  | run (lsz : BitVec 3) (first : BitVec 5)
  deriving DecidableEq, Repr

/-- Operations of ATOM and RED (R297). -/
inductive AOp where
  | add
  | min
  | max
  | and
  | or
  | xor
  | exch
  | cas
  | inc
  | dec
  | fadd
  | fmin
  | fmax
  deriving DecidableEq, Repr

/-- The cache field of LD and ST (R84). -/
inductive Cache where
  | normal
  | ev
  | nl1
  deriving DecidableEq, Repr

/-- Element counts of LD, ST and BCHK: 1, 2 or 4 (R84). -/
inductive VCnt where
  | v1
  | v2
  | v4
  deriving DecidableEq, Repr

/-- The common part of every engine command: optional handle, acquire, release, scope (R86). -/
structure Eng where
  hw  : Bool
  h   : HF
  acq : Bool
  rel : Bool
  sc  : Scope
  deriving DecidableEq, Repr

/-- The matrix commands' memory operand: record, offset register, displacement in units of 64 bytes (R221). -/
structure MOpnd where
  rec_ : BF
  off  : G
  disp : BitVec 12
  deriving DecidableEq, Repr

/-- The kinds of CCOL (R408). -/
inductive CKind where
  | ar
  | rs
  | ag
  | topk
  deriving DecidableEq, Repr

/-- A Damask message as R406 lays out its header, with its payload's bytes, their line's tag bit, and whether the line is poisoned
(R339). -/
structure Msg where
  dst   : BitVec 12
  src   : BitVec 12
  resp  : Bool
  op    : BitVec 7
  vf    : BitVec 8
  tag   : BitVec 16
  addr  : DWord
  ndata : BitVec 8
  stat  : BitVec 8
  peer  : BitVec 12
  data  : List Byte
  aTag  : Bool
  bad   : Bool
  deriving DecidableEq, Repr

/-- The registers that a host, the debug agent or the management software can name in a register write
(R404, R414, R416): a page and an offset within it. -/
inductive RegPage where
  | vf (f : Nat)
  | bar2
  | m1
  | bar4
  deriving DecidableEq, Repr

/-- Why a block is to be pre-empted (R349). -/
inductive PreReq where
  | priority (launch : Nat)
  | slice
  | reclaim
  | quiesce
  deriving DecidableEq, Repr

/-- One row of spec/opcode_table.json each: first the instruction forms in the table's order, then the whole
steps of the other agents. Field names follow the spec: d a b cc are the register fields of R81 (cc is field
c), imm the immediate of R83, k a record number, c the guard and stop bit, ap the approximate bit. -/
inductive Instr where
  -- moves, special registers, predicates (R118-R121)
  | rpt (n : BitVec 6) (sd sa sb sc : BitVec 2)
  | mov (c : Ctl) (d a : G) (wide : Bool)
  | movi (c : Ctl) (d : G) (imm : Word)
  | sel (c : Ctl) (d : G) (k : PF) (a b : G) (wide : Bool)
  | selI (c : Ctl) (d : G) (k : PF) (imm : Word)
  | srd (c : Ctl) (d : G) (idx : BitVec 8) (wide : Bool)
  | swr (c : Ctl) (a : G)
  | plop (c : Ctl) (d a b cc : PF) (lut : BitVec 8)
  | lea (c : Ctl) (d a b : G) (form : LeaForm) (sh : BitVec 4)
  | leaI (c : Ctl) (d a : G) (imm : Word) (t : IntTy)
  -- integer arithmetic (R108-R112)
  | add (c : Ctl) (d a b : G) (t : IntTy) (sat : Bool)
  | addI (c : Ctl) (d a : G) (imm : Word) (t : IntTy)
  | addc (c : Ctl) (d : G) (j : PF) (a b : G) (k : Option PF)
  | sub (c : Ctl) (d a b : G) (t : IntTy) (sat : Bool)
  | subI (c : Ctl) (d a : G) (imm : Word) (t : IntTy)
  | subb (c : Ctl) (d : G) (j : PF) (a b : G) (k : Option PF)
  | mul (c : Ctl) (d a b : G) (t : IntTy)
  | mulI (c : Ctl) (d a : G) (imm : Word) (t : IntTy)
  | mulh (c : Ctl) (d a b : G) (t : IntTy)
  | mad (c : Ctl) (d a b cc : G) (t : IntTy)
  | madI (c : Ctl) (d a : G) (imm : Word) (t : IntTy)
  | min (c : Ctl) (d a b : G) (t : IntTy)
  | minI (c : Ctl) (d a : G) (imm : Word) (t : IntTy)
  | max (c : Ctl) (d a b : G) (t : IntTy)
  | maxI (c : Ctl) (d a : G) (imm : Word) (t : IntTy)
  | abs (c : Ctl) (d a : G) (t : IntTy) (sat : Bool)
  | cmp (c : Ctl) (p : PF) (cond : Cond) (a b : G) (t : IntTy)
  | cmpI (c : Ctl) (p : PF) (cond : Cond) (a : G) (imm : Word) (t : IntTy)
  -- logic, shifts, bit fields (R113-R116)
  | and (c : Ctl) (d a b : G) (t : IntTy)
  | andI (c : Ctl) (d a : G) (imm : Word) (t : IntTy)
  | or (c : Ctl) (d a b : G) (t : IntTy)
  | orI (c : Ctl) (d a : G) (imm : Word) (t : IntTy)
  | xor (c : Ctl) (d a b : G) (t : IntTy)
  | xorI (c : Ctl) (d a : G) (imm : Word) (t : IntTy)
  | not (c : Ctl) (d a : G) (t : IntTy)
  | shl (c : Ctl) (d a b : G) (t : IntTy)
  | shlI (c : Ctl) (d a : G) (n : BitVec 8) (t : IntTy)
  | shr (c : Ctl) (d a b : G) (t : IntTy)
  | shrI (c : Ctl) (d a : G) (n : BitVec 8) (t : IntTy)
  | rol (c : Ctl) (d a b : G) (wide : Bool)
  | rolI (c : Ctl) (d a : G) (n : BitVec 8) (wide : Bool)
  | ror (c : Ctl) (d a b : G) (wide : Bool)
  | rorI (c : Ctl) (d a : G) (n : BitVec 8) (wide : Bool)
  | bfx (c : Ctl) (d a b cc : G) (sgn : Bool)
  | bfxI (c : Ctl) (d a : G) (pos : BitVec 5) (width : BitVec 6) (sgn : Bool)
  | bfi (c : Ctl) (d a b cc : G)
  | bfiI (c : Ctl) (d a : G) (pos : BitVec 5) (width : BitVec 6)
  | popc (c : Ctl) (d a : G) (wide : Bool)
  | clz (c : Ctl) (d a : G) (wide : Bool)
  | brev (c : Ctl) (d a : G) (wide : Bool)
  -- the generator and keys (R122-R128)
  | rngs (c : Ctl) (a : G)
  | rng (c : Ctl) (d : G)
  | rngj (c : Ctl) (a : G)
  | kmax (c : Ctl) (d a b : G) (t : Ty)
  | kmin (c : Ctl) (d a b : G) (t : Ty)
  | kcmp (c : Ctl) (p : PF) (lt : Bool) (a b : G) (t : Ty)
  -- scalar floating point (R136-R139, R143)
  | fadd (c : Ctl) (ap : Bool) (d a b : G) (t : Ty) (rm : Rm)
  | faddI (c : Ctl) (ap : Bool) (d a : G) (imm : Word) (t : Ty)
  | fsub (c : Ctl) (ap : Bool) (d a b : G) (t : Ty) (rm : Rm)
  | fmul (c : Ctl) (ap : Bool) (d a b : G) (t : Ty) (rm : Rm)
  | fmulI (c : Ctl) (ap : Bool) (d a : G) (imm : Word) (t : Ty)
  | ffma (c : Ctl) (ap : Bool) (d a b cc : G) (t : Ty) (rm : Rm) (neg : Bool)
  | ffmaI (c : Ctl) (ap : Bool) (d a : G) (imm : Word) (t : Ty)
  | fmin (c : Ctl) (ap : Bool) (d a b : G) (t : Ty)
  | fmax (c : Ctl) (ap : Bool) (d a b : G) (t : Ty)
  | fcmp (c : Ctl) (ap : Bool) (p : PF) (cond : FCond) (u : Bool) (a b : G) (t : Ty)
  | fcmpI (c : Ctl) (ap : Bool) (p : PF) (cond : FCond) (u : Bool) (a : G) (imm : Word) (t : Ty)
  | fcls (c : Ctl) (d a : G) (t : Ty)
  | frnd (c : Ctl) (d a : G) (t : Ty) (rm : Rm)
  | fscl (c : Ctl) (d a b : G) (t : Ty) (rm : Rm)
  | frcp (c : Ctl) (d a : G) (t : Ty) (rm : Rm)
  | fsqrt (c : Ctl) (d a : G) (t : Ty) (rm : Rm)
  | frsq (c : Ctl) (d a : G) (t : Ty)
  | fex2 (c : Ctl) (d a : G) (t : Ty)
  | flg2 (c : Ctl) (d a : G) (t : Ty)
  | fsin (c : Ctl) (d a : G) (t : Ty)
  | fcos (c : Ctl) (d a : G) (t : Ty)
  | ftnh (c : Ctl) (d a : G) (t : Ty)
  -- packed pairs (R140-R142)
  | hadd2 (c : Ctl) (ap : Bool) (d a b : G) (t : Ty) (rm : Rm)
  | hsub2 (c : Ctl) (ap : Bool) (d a b : G) (t : Ty) (rm : Rm)
  | hmul2 (c : Ctl) (ap : Bool) (d a b : G) (t : Ty) (rm : Rm)
  | hfma2 (c : Ctl) (ap : Bool) (d a b cc : G) (t : Ty) (rm : Rm) (neg : Bool)
  | hfma2I (c : Ctl) (ap : Bool) (d a : G) (imm : Word) (t : Ty)
  | hmin2 (c : Ctl) (ap : Bool) (d a b : G) (t : Ty)
  | hmax2 (c : Ctl) (ap : Bool) (d a b : G) (t : Ty)
  | hcmp2 (c : Ctl) (ap : Bool) (d a b : G) (t : Ty) (cond : FCond) (u : Bool)
  | hdot2 (c : Ctl) (ap : Bool) (d a b cc : G) (dt st : Ty) (rm : Rm)
  -- conversions and narrow formats (R144-R150)
  | cvt (c : Ctl) (ap : Bool) (d a : G) (dt st : Ty) (rm : Rm) (sat : Bool)
  | cvtn (c : Ctl) (ap : Bool) (d a b : G) (dt : Ty) (rm : Rm) (sat : Bool) (k : BitVec 2)
  | cvtw (c : Ctl) (ap : Bool) (d a : G) (dt st : Ty) (k : BitVec 3)
  | sdot (c : Ctl) (d a b cc : G) (ta tb : Ty) (q : BitVec 2)
  | cbx (c : Ctl) (d a b : G) (dt : Ty)
  -- branches, calls, exit (R153-R156)
  | bra (c : Ctl) (imm : Word)
  | brx (c : Ctl) (a : G) (imm : Word) (stride : BitVec 2)
  | call (c : Ctl) (imm : Word)
  | callr (c : Ctl) (a : G)
  | ret (c : Ctl)
  | exit (c : Ctl)
  -- rejoin, yield, sleep (R157, R158)
  | rjp (c : Ctl) (id : BitVec 4) (mask : Word)
  | rjpReg (c : Ctl) (id : BitVec 4) (r : G)
  | rjw (c : Ctl) (id : BitVec 4)
  | brk (c : Ctl) (n : BitVec 4)
  | yld (c : Ctl)
  | sleep (c : Ctl) (n : BitVec 26)
  -- collectives (R160)
  | rdv (c : Ctl) (m : G)
  | rdvI (c : Ctl) (mask : Word)
  | gshf (c : Ctl) (d a b m : G) (wide : Bool) (ps : PF)
  | gshx (c : Ctl) (d a b m : G) (wide : Bool) (ps : PF)
  | gshu (c : Ctl) (d a b m : G) (wide : Bool) (ps : PF)
  | gshd (c : Ctl) (d a b m : G) (wide : Bool) (ps : PF)
  | gbal (c : Ctl) (d : G) (pa : PF) (m : G)
  | gbalI (c : Ctl) (d : G) (pa : PF) (mask : Word)
  | gany (c : Ctl) (pd pa : PF) (m : G)
  | ganyI (c : Ctl) (pd pa : PF) (mask : Word)
  | gall (c : Ctl) (pd pa : PF) (m : G)
  | gallI (c : Ctl) (pd pa : PF) (mask : Word)
  | gred (c : Ctl) (ap : Bool) (d a : G) (t : Ty) (op : FoldOp) (m : MaskSpec)
  | gscn (c : Ctl) (ap : Bool) (d a : G) (t : Ty) (op : FoldOp) (excl : Bool) (m : MaskSpec)
  | gmat (c : Ctl) (d a : G) (wide : Bool) (m : MaskSpec)
  -- memory (R249-R255)
  | ld (c : Ctl) (d : G) (k : BF) (b : G) (t : Ty) (n : VCnt) (cache : Cache) (disp : BitVec 16)
  | st (c : Ctl) (ap : Bool) (d : G) (k : BF) (b : G) (t : Ty) (n : VCnt) (cache : Cache) (disp : BitVec 16)
  | bset (c : Ctl) (d : G) (k : BF)
  | bget (c : Ctl) (kd k : BF) (b : G) (disp : BitVec 16)
  | bchk (c : Ctl) (p : PF) (k : BF) (b : G) (t : Ty) (n : VCnt) (disp : BitVec 16)
  | ltag (c : Ctl) (k : BF) (b : G) (appr : Bool) (disp : BitVec 16)
  | pref (c : Ctl) (k : BF) (b : G) (l2 : Bool) (disp : BitVec 16)
  -- engine commands (R272-R277)
  | xcp (c : Ctl) (e : Eng) (drec srec : BF) (ddisp sdisp : BitVec 8) (ncode : BitVec 7) (aw : BitVec 6) (pw : BitVec 3)
  | xcpDesc (c : Ctl) (e : Eng) (drec srec : BF) (desc : BitVec 12) (aw : BitVec 6) (pw : BitVec 3)
  | xln (c : Ctl) (e : Eng) (drec : BF) (gx : G) (srec : BF) (gy : G) (sz : BitVec 2) (aw : BitVec 6)
  | xrot (c : Ctl) (e : Eng) (gx : G) (disp : BitVec 12) (n : BitVec 8) (mask : BitVec 4) (aw : BitVec 6) (tag : BitVec 3)
  -- arrival words (R265)
  | ainit (c : Ctl) (k : BF) (disp : BitVec 4) (off : G) (tgt : BitVec 24) (force : Bool)
  | aarv (c : Ctl) (k : BF) (disp : BitVec 4) (off : G) (bytes : BitVec 24)
  | awt (c : Ctl) (pd : PF) (k : BF) (b e : G) (disp : BitVec 16)
  -- ordering (R296-R305)
  | atom (c : Ctl) (d : G) (k : BF) (b v : G) (op : AOp) (ord : Ord) (sc : Scope) (t : Ty)
  | red (c : Ctl) (k : BF) (b v : G) (op : AOp) (t : Ty)
  | acq (c : Ctl) (d : G) (k : BF) (b : G) (sc : Scope) (disp : BitVec 16)
  | rel (c : Ctl) (v : G) (k : BF) (b : G) (sc : Scope) (addv : Bool) (disp : BitVec 16)
  | bind (c : Ctl) (v : G) (k : BF) (b : G) (disp : BitVec 16)
  | fence (c : Ctl) (ord : Ord) (sc : Scope)
  | bar (c : Ctl)
  | cmt (c : Ctl) (sc : Scope)
  -- matrix engine (R221), CKPT (R332), CCOL (R408)
  | mop (c : Ctl) (e : Eng) (m : MOpnd)
  | ald (c : Ctl) (e : Eng) (m : MOpnd) (r : G) (t : Ty)
  | ast (c : Ctl) (e : Eng) (m : MOpnd) (ai : Bool) (rm : Rm) (r : G) (t : Ty)
  | azr (c : Ctl) (e : Eng) (r : G)
  | ckpt (c : Ctl)
  | ccol (c : Ctl) (e : Eng) (kind : CKind) (op : FoldOp) (t : Ty) (desc : BitVec 12)
  -- futures (R167)
  | ftst (c : Ctl) (pd : PF) (h : HF) (e : G)
  | fwt (c : Ctl) (d : G) (h : HF)
  | fwtToken (c : Ctl) (d t : G)
  | fcan (c : Ctl) (h : HF)
  | fcanToken (c : Ctl) (t : G)
  -- traps, system registers, counters (R170-R175)
  | trap (c : Ctl) (n : BitVec 26)
  | tret (c : Ctl)
  | bkpt (c : Ctl) (n : BitVec 26)
  | sysr (c : Ctl) (d : G) (num : BitVec 26)
  | sysw (c : Ctl) (a : G) (num : BitVec 26)
  | lnch (c : Ctl) (d a : G)
  | cncl (c : Ctl) (a : G)
  | csig (c : Ctl) (a b : G) (rel : Bool) (sc : Scope)
  | cwtVal (c : Ctl) (pd : PF) (a b : G) (acq : Bool) (sc : Scope)
  | cwtDone (c : Ctl) (pd : PF) (a : G) (acq : Bool) (sc : Scope)
  -- approximate data (R322-R324)
  | avset (c : Ctl) (a : G)
  | avsetI (c : Ctl) (v : Word)
  | endr (c : Ctl) (d a : G) (wide : Bool)
  | endrPred (c : Ctl) (d a : PF)
  | endrc (c : Ctl) (d a b cc : G) (t : Ty)
  -- whole steps: jobs, levels, blocks (R29-R39)
  | submit (vf : Nat) (v : DWord)
  | jobStart (vf : Nat)
  | levelStart (due : Nat)
  | blockDispatch (die core : Nat)
  | blockComplete (bid : Nat)
  | packetIssue (core quarter : Nat)
  | demotionTimeout (bid tid : Nat)
  | rejoinTimeout (bid tid : Nat)
  | sleepExpire (bid tid : Nat)
  | loadComplete (op : Nat)
  | rendezvousComplete (bid gang : Nat) (seq : BitVec 16)
  | replayReexecute (core quarter : Nat) (bad : Bool)
  -- translation and commits (R238-R247, R288, R387)
  | fqrspRetry (vf : Nat) (seq : Word)
  | fqrspFail (vf : Nat) (seq : Word)
  | operandReplay (op : Nat)
  | tlbinvVa (vf : Nat) (va : Addr)
  | tlbinvAll (vf : Nat)
  | tlbinvDone (vf : Nat)
  | commitPerformed (bid entry : Nat)
  | ticketTurn (launch : Nat)
  -- engines (R262-R282, R208-R226, R410)
  | xferAccept (cmd : Nat)
  | copyLineLand (cmd line : Nat)
  | xferComplete (cmd : Nat)
  | xrotRound (cluster : Nat) (mask : BitVec 4) (tag : BitVec 3)
  | matrixAccept (cmd : Nat)
  | matrixComplete (cmd : Nat)
  | ccolComplete (cmd : Nat) (ranks : List (List Byte)) (agree : Bool)
  | tokenRefill (die : Nat)
  | arbiterAgeTick
  | dispatchAgeTick (die : Nat)
  | railReached (core : Nat) (mv : Nat)
  -- errors, pre-emption, moves between cores (R338-R352)
  | ueConsumed (bid : Nat) (code : Byte) (island : Nat)
  | scratchUe (bid : Nat) (island : Nat)
  | preempt (bid : Nat) (why : PreReq)
  | blockSave (bid : Nat)
  | blockRestore (bid core : Nat)
  | sliceEnd (vf core : Nat)
  | clusterReclaim (cluster : Nat)
  | watchdogExpire (launch : Nat)
  -- debug (R358-R373) and the time series (R374)
  | watchpointMatch (cluster : Nat)
  | stopRecordDone (cluster : Nat)
  | haltWaitTimeout (bid tid : Nat)
  | debugStep (cluster : Nat) (v : DWord)
  | debugResume (cluster : Nat)
  | stopRequest (cluster : Nat)
  | debugKill (cluster : Nat) (v : DWord)
  | shadowRead (cluster : Nat)
  | shadowWrite (cluster : Nat) (v : DWord)
  | tsLatch (die : Nat)
  | sensorReport (island : Nat) (throttle trip : Bool)
  -- migration, links (R393-R412)
  | migrateSend (vf : Nat) (peer : BitVec 12) (sweep : Bool)
  | migrateReceive (vf : Nat) (peer : BitVec 12) (sweep : Bool)
  | endForwarding (vf : Nat)
  | pagePull (vf : Nat) (va : Addr)
  | pullRequest (vf : Nat) (va : Addr) (level : Nat) (from_ : BitVec 12) (tag : BitVec 16)
  | pullReply (vf : Nat) (va : Addr) (ok : Bool) (data : List Byte) (aLines : List Bool) (poison : List Nat)
  | damaskAccess (m : Msg)
  | damaskResponse (m : Msg)
  | hostMemAccess (pa : Nat) (write : Option (List Byte)) (len : Nat)
  | cxlLinkDown (port : Nat)
  -- management (R413-R425)
  | setdie (m1 : Bool)
  | setvf (m1 : Bool)
  | setfw (m1 : Bool)
  | inj (m1 : Bool)
  | measure (m1 : Bool)
  | bank (m1 : Bool)
  | preset (m1 : Bool)
  | setqos
  | setown
  | evread
  | evcount
  | moduleReset
  | registerWrite (page : RegPage) (off : Nat) (v : DWord)
  | clauseFetch (bid tid : Nat)
  | executionStateArrival (vf : Nat) (which : Nat)
  | damaskPartition (peer : BitVec 12) (up : Bool)
  deriving DecidableEq, Repr

/-- Whether the row is a whole step of another agent (an event), not an instruction word a thread fetches. -/
def Instr.isEvent : Instr → Bool
  | .submit .. | .jobStart .. | .levelStart .. | .blockDispatch .. | .blockComplete .. | .packetIssue .. => true
  | .demotionTimeout .. | .rejoinTimeout .. | .sleepExpire .. | .loadComplete .. | .rendezvousComplete .. => true
  | .replayReexecute .. | .fqrspRetry .. | .fqrspFail .. | .operandReplay .. | .tlbinvVa .. | .tlbinvAll .. => true
  | .tlbinvDone .. | .commitPerformed .. | .ticketTurn .. | .xferAccept .. | .copyLineLand .. | .xferComplete .. => true
  | .xrotRound .. | .matrixAccept .. | .matrixComplete .. | .ccolComplete .. | .tokenRefill .. | .arbiterAgeTick => true
  | .dispatchAgeTick .. | .railReached .. | .ueConsumed .. | .scratchUe .. | .preempt .. | .blockSave .. => true
  | .blockRestore .. | .sliceEnd .. | .clusterReclaim .. | .watchdogExpire .. | .watchpointMatch .. => true
  | .stopRecordDone .. | .haltWaitTimeout .. | .debugStep .. | .debugResume .. | .stopRequest .. | .debugKill .. => true
  | .shadowRead .. | .shadowWrite .. | .tsLatch .. | .sensorReport .. | .migrateSend .. | .migrateReceive .. => true
  | .endForwarding .. | .pagePull .. | .pullRequest .. | .pullReply .. | .damaskAccess .. | .damaskResponse .. => true
  | .hostMemAccess .. | .cxlLinkDown .. | .setdie .. | .setvf .. | .setfw .. | .inj .. | .measure .. | .bank .. => true
  | .preset .. | .setqos | .setown | .evread | .evcount | .moduleReset | .registerWrite .. => true
  | .clauseFetch .. | .executionStateArrival .. | .damaskPartition .. => true
  | _ => false

end Sys2Proof
end

