-- ==== Sys2Proof/WellFormed.lean ====
section
/-! DEFINITION. Which instructions the encodings of the spec can hold: the operand combinations each description accepts.
The limits that need the thread's `.regs` or the next slot (R78) are checked at issue. -/

namespace Sys2Proof

/-! ### Type sets of the descriptions -/

/-- Scalar floating types (R129). -/
def tysF : List Ty := [.f32, .f16, .bf16]
/-- Packed-pair types (R129). -/
def tysH : List Ty := [.f16, .bf16]
/-- Types of FRCP to FTNH (R129). -/
def tysT : List Ty := [.f32, .f16]
/-- Key types of KMAX, KMIN and KCMP (R106). -/
def tysK : List Ty := [.f32, .f16, .bf16, .n32, .s32]
/-- Types of LD and ST (R250). -/
def tysM : List Ty := [.n8, .n16, .n32, .n64, .s8, .s16, .s32, .s64, .f32, .f16, .bf16, .e5m2, .e4m3]
/-- Types of ALD and AST (R224). -/
def tysA : List Ty :=
  [.f32, .f16, .bf16, .e5m2, .e4m3, .e3m2, .e2m3, .e2m1, .n8, .s8, .n16, .s16, .n32, .s32]
/-- Narrow floats, the destinations of CVTN (R147). -/
def tysN : List Ty := [.f16, .bf16, .e5m2, .e4m3, .e3m2, .e2m3, .e2m1]
/-- Result types an approximate form may have (R90). -/
def tysAp : List Ty := [.f16, .bf16, .e4m3]
/-- Types of CCOL (R408). -/
def tysC : List Ty := [.n32, .s32, .f32, .f16, .bf16]

/-- Whether a type is an integer type. -/
def Ty.isInt : Ty → Bool
  | .n8 | .n16 | .n32 | .n64 | .s8 | .s16 | .s32 | .s64 => true
  | _ => false

/-- Whether a type is signed. -/
def Ty.isSigned : Ty → Bool
  | .s8 | .s16 | .s32 | .s64 => true
  | _ => false

/-- The width of a type in bits. -/
def Ty.bits : Ty → Nat
  | .n8 | .s8 | .e5m2 | .e4m3 => 8
  | .n16 | .s16 | .f16 | .bf16 | .lq2 => 16
  | .n32 | .s32 | .f32 => 32
  | .n64 | .s64 => 64
  | .e3m2 | .e2m3 => 6
  | .e2m1 => 4

/-- An approximate form's result type and rounding (R90, R134); a precise form is not limited here. -/
def apOk (ap : Bool) (t : Ty) (rm : Rm) : Bool := !ap || (tysAp.contains t && rm == .rne)

/-- Rounding codes 0 to 3 (R133). -/
def rm3 (rm : Rm) : Bool := rm != .rna && rm != .rs

/-- The rounding codes CVT accepts for its types (R144). -/
def cvtRm (dt st : Ty) (rm : Rm) : Bool :=
  match st.isInt, dt.isInt with
  | true, true => rm == .rne
  | true, false => rm != .rna
  | false, true => rm != .rs
  | false, false => true

/-- The largest K of CVTN for a destination type (R147). -/
def cvtnMax : Ty → Nat
  | .f16 | .bf16 => 0
  | .e2m1 => 3
  | _ => 1

/-- The largest element number of CVTW for a source type (R148). -/
def cvtwMax : Ty → Nat
  | .f16 | .bf16 => 1
  | .e2m1 => 7
  | _ => 3

/-- Sources of CVTW for a destination type (R148). -/
def cvtwOk (dt st : Ty) : Bool :=
  [Ty.e5m2, .e4m3, .e3m2, .e2m3, .e2m1].contains st || (dt == .f32 && (st == .f16 || st == .bf16))

/-- Operand types of SDOT (R149). -/
def sdotOk (ta tb : Ty) : Bool :=
  ([Ty.e5m2, .e4m3, .e3m2, .e2m3].contains ta && [Ty.e5m2, .e4m3, .e3m2, .e2m3].contains tb)
    || (ta == .e2m1 && tb == .e2m1)

/-- Types and operations of GRED and GSCN (R163): add, min and max everywhere; logic for integers only. -/
def foldOk (ap : Bool) (t : Ty) (op : FoldOp) : Bool :=
  let logic := op == .and || op == .or || op == .xor
  if ap then tysAp.contains t && !logic
  else [Ty.n32, .s32, .n64, .s64].contains t || (tysF.contains t && !logic)

/-- Operations and types of ATOM and RED (R297). -/
def aopOk (red : Bool) (op : AOp) (t : Ty) : Bool :=
  let ints := [Ty.n32, .s32, .n64, .s64]
  match op with
  | .add | .min | .max | .and | .or | .xor => ints.contains t
  | .exch | .cas => !red && (ints.contains t || t == .f32)
  | .inc | .dec => t == .n32 || t == .n64
  | .fadd | .fmin | .fmax => t == .f32

/-- Operations and types of CCOL (R408): for `.topk` code 0 is max order and 1 min order. -/
def ccolOk (kind : CKind) (op : FoldOp) (t : Ty) : Bool :=
  tysC.contains t &&
  match kind with
  | .ag => op == .add
  | .topk => op == .add || op == .min
  | _ => t.isInt || op == .add || op == .min || op == .max

/-- The floating immediate fits its type: a 16-bit value leaves imm[31:16] 0 (R83). -/
def fimmOk (t : Ty) (imm : Word) : Bool := t == .f32 || imm.extractLsb' 16 16 == 0

/-- An ordering with its scope (R80): `.rlx` takes scope 0, the others 1 to 5. -/
def ordOk (o : Ord) (s : Scope) : Bool := (o == .rlx) == (s == .thread)

/-- The common engine part (R86). -/
def engOk (e : Eng) : Bool := (e.hw || e.h == 0) && ((e.acq || e.rel) == (e.sc != .thread))

/-- The special-register indices R94 lists. -/
def srdOk (i : BitVec 8) : Bool :=
  let n := i.toNat
  n <= 0x0C || (0x10 <= n && n <= 0x14) || n == 0x18 || n == 0x1A || (0x20 <= n && n <= 0x2B)

/-- The system-register numbers a thread can name: THR.XPC, XCAUSE and XINFO, CORE.AVCAL, AVRAIL and LQT0 to LQT127
(R169, R171, R183, R313). -/
def sysOk (n : BitVec 26) : Bool :=
  let u := n.toNat / 0x10000
  let r := n.toNat % 0x10000
  (u == 1 && r <= 2) || (u == 2 && (r == 0x20 || r == 0x21 || (0x100 <= r && r <= 0x17F)))

/-- A mask run is aligned to its size and lsz is 0 to 5 (R82). -/
def MaskSpec.wf : MaskSpec → Bool
  | .reg _ => true
  | .run lsz first => decide (lsz.toNat <= 5) && first.toNat % 2 ^ lsz.toNat == 0

/-- Whether an instruction is one the encodings can hold (R78): every condition its description states on the word
alone. A step row is always well formed. -/
def Instr.wf : Instr → Bool
  | .rpt .. => true
  | .mov .. | .movi .. | .sel .. | .selI .. | .swr .. | .plop .. | .lea .. | .leaI .. => true
  | .srd _ _ idx w => srdOk idx && (!w || idx == 0x18#8 || idx == 0x1A#8)
  | .add .. | .addI .. | .addc .. | .sub .. | .subI .. | .subb .. | .mul .. | .mulI .. | .mulh .. | .mad .. => true
  | .madI .. | .min .. | .minI .. | .max .. | .maxI .. => true
  | .abs _ _ _ t _ => t == .s32 || t == .s64
  | .cmp .. | .cmpI .. | .and .. | .andI .. | .or .. | .orI .. | .xor .. | .xorI .. | .not .. => true
  | .shl .. | .shlI .. | .shr .. | .shrI .. | .rol .. | .rolI .. | .ror .. | .rorI .. => true
  | .bfx .. | .bfxI .. | .bfi .. | .bfiI .. | .popc .. | .clz .. | .brev .. => true
  | .rngs .. | .rng .. | .rngj .. => true
  | .kmax _ _ _ _ t | .kmin _ _ _ _ t | .kcmp _ _ _ _ _ t => tysK.contains t
  | .fadd _ ap _ _ _ t rm | .fsub _ ap _ _ _ t rm | .fmul _ ap _ _ _ t rm | .ffma _ ap _ _ _ _ t rm _ =>
    tysF.contains t && rm3 rm && apOk ap t rm
  | .faddI _ ap _ _ imm t | .fmulI _ ap _ _ imm t | .ffmaI _ ap _ _ imm t =>
    tysF.contains t && fimmOk t imm && apOk ap t .rne
  | .fmin _ ap _ _ _ t | .fmax _ ap _ _ _ t => tysF.contains t && apOk ap t .rne
  | .fcmp _ ap _ cond u _ _ t => tysF.contains t && apOk ap t .rne && (!u || (cond != .num && cond != .nan))
  | .fcmpI _ ap _ cond u _ imm t =>
    tysF.contains t && fimmOk t imm && apOk ap t .rne && (!u || (cond != .num && cond != .nan))
  | .fcls _ _ _ t => tysF.contains t
  | .frnd _ _ _ t rm => tysF.contains t && rm != .rs
  | .fscl _ _ _ _ t rm => tysF.contains t && rm3 rm
  | .frcp _ _ _ t rm | .fsqrt _ _ _ t rm => tysT.contains t && rm3 rm
  | .frsq _ _ _ t | .fex2 _ _ _ t | .flg2 _ _ _ t | .fsin _ _ _ t | .fcos _ _ _ t | .ftnh _ _ _ t => tysT.contains t
  | .hadd2 _ ap _ _ _ t rm | .hsub2 _ ap _ _ _ t rm | .hmul2 _ ap _ _ _ t rm | .hfma2 _ ap _ _ _ _ t rm _ =>
    tysH.contains t && rm3 rm && apOk ap t rm
  | .hfma2I _ _ _ _ _ t => tysH.contains t
  | .hmin2 _ _ _ _ _ t | .hmax2 _ _ _ _ _ t => tysH.contains t
  | .hcmp2 _ _ _ _ _ t cond u => tysH.contains t && (!u || (cond != .num && cond != .nan))
  | .hdot2 _ ap _ _ _ _ dt sy rm => tysF.contains dt && tysH.contains sy && rm3 rm && apOk ap dt rm
  | .cvt _ ap _ _ dt sy rm _ => dt != .lq2 && sy != .lq2 && cvtRm dt sy rm && apOk ap dt rm
  | .cvtn _ ap _ _ _ dt rm _ k => tysN.contains dt && decide (k.toNat <= cvtnMax dt) && apOk ap dt rm
  | .cvtw _ ap _ _ dt sy k =>
    tysF.contains dt && cvtwOk dt sy && decide (k.toNat <= cvtwMax sy) && apOk ap dt .rne
  | .sdot _ _ _ _ _ ta tb _ => sdotOk ta tb
  | .cbx _ _ _ b dt =>
    [Ty.n32, .s8, .f16, .bf16].contains dt && ((dt == .f16 || dt == .bf16) || b == 0xFF#8)
  | .bra .. | .brx .. | .call .. | .callr .. | .ret .. | .exit .. | .rjp .. | .rjw .. | .yld .. | .sleep .. => true
  | .rjpReg _ _ r => r != 0xFF#8
  | .brk _ n => decide (1 <= n.toNat && n.toNat <= 8)
  | .rdv .. | .rdvI .. | .gshf .. | .gshx .. | .gshu .. | .gshd .. | .gbal .. | .gbalI .. => true
  | .gany .. | .ganyI .. | .gall .. | .gallI .. => true
  | .gred _ ap _ _ t op m => foldOk ap t op && m.wf
  | .gscn _ ap _ _ t op _ m => foldOk ap t op && m.wf
  | .gmat _ _ _ _ m => m.wf
  | .ld _ _ _ _ t .. => tysM.contains t
  | .st _ ap _ _ _ t .. => tysM.contains t && apOk ap t .rne
  | .bset .. | .bget .. | .ltag .. | .pref .. => true
  | .bchk _ _ _ _ t _ _ => tysM.contains t
  | .xcp _ e _ _ _ _ _ _ pw | .xcpDesc _ e _ _ _ _ pw => engOk e && decide (pw.toNat <= 4)
  | .xln _ e _ _ _ _ sz _ => engOk e && sz != 3
  | .xrot _ e _ _ n _ _ _ => engOk e && n != 0
  | .ainit _ _ _ _ tgt _ => tgt != 0
  | .aarv .. | .awt .. => true
  | .atom _ _ _ _ _ op o sc t => aopOk false op t && ordOk o sc
  | .red _ _ _ _ op t => aopOk true op t
  | .acq _ _ _ _ sc _ | .rel _ _ _ _ sc _ _ => sc != .thread
  | .bind .. => true
  | .fence _ o sc => o != .rlx && sc != .thread
  | .bar .. => true
  | .cmt _ sc => sc != .thread
  | .mop _ e _ => engOk e && !e.rel
  | .ald _ e _ _ t => engOk e && !e.rel && tysA.contains t
  | .ast _ e _ ai rm _ t =>
    engOk e && !e.acq && tysA.contains t && cvtRm t (if ai then .s32 else .f32) rm
  | .azr _ e _ => engOk e && !e.acq && !e.rel
  | .ckpt .. => true
  | .ccol _ e kind op t _ => engOk e && ccolOk kind op t
  | .ftst .. | .fwt .. | .fwtToken .. | .fcan .. | .fcanToken .. => true
  | .trap .. | .tret .. => true
  | .bkpt c _ => c.sp
  | .sysr _ _ n | .sysw _ _ n => sysOk n
  | .lnch .. | .cncl .. => true
  | .csig _ _ _ r sc => r == (sc != .thread)
  | .cwtVal _ _ _ _ q sc | .cwtDone _ _ _ q sc => q == (sc != .thread)
  | .avset .. => true
  | .avsetI _ v => decide (450 <= v.toNat && v.toNat <= 750) && v.toNat % 5 == 0
  | .endr .. | .endrPred .. => true
  | .endrc _ _ _ _ _ t => tysAp.contains t
  | _ => true

end Sys2Proof
end

