-- ==== Sys2Proof/Decode.lean ====
section
/-! DEFINITION. The decoder and the encoder of clause headers and instruction words (R71-R92 and the field rules of every
instruction's description). Checks that need the thread's `.regs` or the next slot are made at issue
(Machine/Operands.lean), since R78 states them on the thread. -/

namespace Sys2Proof

/-! ### Codes -/

/-- The code no type has (R79). -/
def noTy : BitVec 5 := 0x1F#5

/-- The code of a type (R79). -/
def Ty.code : Ty → BitVec 5
  | .n8 => 0 | .n16 => 1 | .n32 => 2 | .n64 => 3 | .s8 => 4 | .s16 => 5 | .s32 => 6 | .s64 => 7 | .f32 => 8
  | .f16 => 9 | .bf16 => 10 | .e5m2 => 11 | .e4m3 => 12 | .e3m2 => 13 | .e2m3 => 14 | .e2m1 => 15 | .lq2 => 16

/-- The type of a code (R79); 0x11 to 0x1F name none. -/
def Ty.ofCode (c : BitVec 5) : Option Ty :=
  match c.toNat with
  | 0 => some .n8 | 1 => some .n16 | 2 => some .n32 | 3 => some .n64 | 4 => some .s8 | 5 => some .s16
  | 6 => some .s32 | 7 => some .s64 | 8 => some .f32 | 9 => some .f16 | 10 => some .bf16 | 11 => some .e5m2
  | 12 => some .e4m3 | 13 => some .e3m2 | 14 => some .e2m3 | 15 => some .e2m1 | 16 => some .lq2 | _ => none

/-- A type of a list by its code. -/
def Ty.ofCodeIn (l : List Ty) (c : BitVec 5) : Option Ty :=
  match Ty.ofCode c with
  | some t => if l.contains t then some t else none
  | none => none

/-- The integer type as a type. -/
def IntTy.ty : IntTy → Ty
  | .n32 => .n32 | .s32 => .s32 | .n64 => .n64 | .s64 => .s64

/-- The integer type of a code of dt (R106). -/
def IntTy.ofCode (c : BitVec 5) : Option IntTy :=
  match c.toNat with
  | 2 => some .n32 | 6 => some .s32 | 3 => some .n64 | 7 => some .s64 | _ => none

/-- The integer type of m in an immediate form (R83). -/
def IntTy.ofM (m : BitVec 2) : IntTy :=
  match m.toNat with
  | 0 => .n32 | 1 => .s32 | 2 => .n64 | _ => .s64

/-- m of an integer type (R83). -/
def IntTy.m : IntTy → BitVec 2
  | .n32 => 0 | .s32 => 1 | .n64 => 2 | .s64 => 3

/-- The rounding code (R133). -/
def Rm.code : Rm → BitVec 5
  | .rne => 0 | .rz => 1 | .rdn => 2 | .rup => 3 | .rna => 4 | .rs => 5

/-- The rounding mode of a code (R133). -/
def Rm.ofCode (c : BitVec 5) : Option Rm :=
  match c.toNat with
  | 0 => some .rne | 1 => some .rz | 2 => some .rdn | 3 => some .rup | 4 => some .rna | 5 => some .rs | _ => none

/-- The condition code of CMP (R112). -/
def Cond.code : Cond → BitVec 3
  | .eq => 0 | .ne => 1 | .lt => 2 | .le => 3 | .gt => 4 | .ge => 5

/-- The condition of a code (R112). -/
def Cond.ofCode (c : BitVec 3) : Option Cond :=
  match c.toNat with
  | 0 => some .eq | 1 => some .ne | 2 => some .lt | 3 => some .le | 4 => some .gt | 5 => some .ge | _ => none

/-- The condition code of FCMP (R138). -/
def FCond.code : FCond → BitVec 3
  | .eq => 0 | .ne => 1 | .lt => 2 | .le => 3 | .gt => 4 | .ge => 5 | .num => 6 | .nan => 7

/-- The condition of a code (R138). -/
def FCond.ofCode (c : BitVec 3) : FCond :=
  match c.toNat with
  | 0 => .eq | 1 => .ne | 2 => .lt | 3 => .le | 4 => .gt | 5 => .ge | 6 => .num | _ => .nan

/-- The scope code (R80). -/
def Scope.code : Scope → BitVec 3
  | .thread => 0 | .blk => 1 | .cl => 2 | .die => 3 | .dev => 4 | .sys => 5

/-- The scope of a code (R80). -/
def Scope.ofCode (c : BitVec 3) : Option Scope :=
  match c.toNat with
  | 0 => some .thread | 1 => some .blk | 2 => some .cl | 3 => some .die | 4 => some .dev | 5 => some .sys | _ => none

/-- The ordering code (R80). -/
def Ord.code : Ord → BitVec 2
  | .rlx => 0 | .acq => 1 | .rel => 2 | .acqrel => 3

/-- The ordering of a code (R80). -/
def Ord.ofCode (c : BitVec 2) : Ord :=
  match c.toNat with
  | 0 => .rlx | 1 => .acq | 2 => .rel | _ => .acqrel

/-- The code of a fold operation (R82). -/
def FoldOp.code : FoldOp → BitVec 3
  | .add => 0 | .min => 1 | .max => 2 | .and => 3 | .or => 4 | .xor => 5

/-- The fold operation of a code (R82). -/
def FoldOp.ofCode (c : BitVec 3) : Option FoldOp :=
  match c.toNat with
  | 0 => some .add | 1 => some .min | 2 => some .max | 3 => some .and | 4 => some .or | 5 => some .xor | _ => none

/-- The code of an atomic operation (R297). -/
def AOp.code : AOp → BitVec 4
  | .add => 0 | .min => 1 | .max => 2 | .and => 3 | .or => 4 | .xor => 5 | .exch => 6 | .cas => 7 | .inc => 8
  | .dec => 9 | .fadd => 10 | .fmin => 11 | .fmax => 12

/-- The atomic operation of a code (R297). -/
def AOp.ofCode (c : BitVec 4) : Option AOp :=
  match c.toNat with
  | 0 => some .add | 1 => some .min | 2 => some .max | 3 => some .and | 4 => some .or | 5 => some .xor
  | 6 => some .exch | 7 => some .cas | 8 => some .inc | 9 => some .dec | 10 => some .fadd | 11 => some .fmin
  | 12 => some .fmax | _ => none

/-- The cache code (R84). -/
def Cache.code : Cache → BitVec 2
  | .normal => 0 | .ev => 1 | .nl1 => 2

/-- The cache modifier of a code (R84). -/
def Cache.ofCode (c : BitVec 2) : Option Cache :=
  match c.toNat with
  | 0 => some .normal | 1 => some .ev | 2 => some .nl1 | _ => none

/-- The count code (R84). -/
def VCnt.code : VCnt → BitVec 2
  | .v1 => 0 | .v2 => 1 | .v4 => 2

/-- The element count of a code (R84). -/
def VCnt.ofCode (c : BitVec 2) : Option VCnt :=
  match c.toNat with
  | 0 => some .v1 | 1 => some .v2 | 2 => some .v4 | _ => none

/-- The kind code of CCOL (R408). -/
def CKind.code : CKind → BitVec 2
  | .ar => 0 | .rs => 1 | .ag => 2 | .topk => 3

/-- The kind of a code (R408). -/
def CKind.ofCode (c : BitVec 2) : CKind :=
  match c.toNat with
  | 0 => .ar | 1 => .rs | 2 => .ag | _ => .topk

/-- dt of LEA's forms and st (R121). -/
def LeaForm.codes : LeaForm → BitVec 5 × BitVec 5
  | .n32 => (2, noTy) | .n64n32 => (3, 2) | .n64s32 => (3, 6) | .n64 => (3, 3)

/-- The form of LEA's dt and st (R121). -/
def LeaForm.ofCodes (dt st : BitVec 5) : Option LeaForm :=
  match dt.toNat, st.toNat with
  | 2, 31 => some .n32 | 3, 2 => some .n64n32 | 3, 6 => some .n64s32 | 3, 3 => some .n64 | _, _ => none

/-- m of a floating immediate form (R83). -/
def Ty.fm : Ty → BitVec 2
  | .f16 => 1 | .bf16 => 2 | _ => 0

/-- The type of m of a floating immediate form (R83). -/
def Ty.ofFm (m : BitVec 2) : Option Ty :=
  match m.toNat with
  | 0 => some .f32 | 1 => some .f16 | 2 => some .bf16 | _ => none

/-! ### The fields of an instruction word (R76, R81) -/

/-- An instruction word cut into the fields of the register class; the other classes fuse some of them (R83-R87). -/
structure Fields where
  op : BitVec 8
  ty : Bool
  sp : Bool
  pg : BitVec 3
  pn : Bool
  d  : BitVec 8
  a  : BitVec 8
  b  : BitVec 8
  c  : BitVec 8
  x  : BitVec 18
  deriving DecidableEq, Repr

/-- The word of the fields (R76, R81). -/
def Fields.pack (f : Fields) : DWord :=
  f.op ++ (BitVec.ofBool f.ty ++ (BitVec.ofBool f.sp ++ (f.pg ++ (BitVec.ofBool f.pn
    ++ (f.d ++ (f.a ++ (f.b ++ (f.c ++ f.x))))))))

/-- The fields of a word (R76, R81). -/
def Fields.unpack (w : DWord) : Fields :=
  { op := w.extractLsb' 56 8, ty := w.getLsbD 55, sp := w.getLsbD 54, pg := w.extractLsb' 51 3, pn := w.getLsbD 50,
    d := w.extractLsb' 42 8, a := w.extractLsb' 34 8, b := w.extractLsb' 26 8, c := w.extractLsb' 18 8,
    x := w.extractLsb' 0 18 }

namespace Fields

/-- dt, st, sub and mod of the register class (R81). -/
def dt (f : Fields) : BitVec 5 := f.x.extractLsb' 13 5
def st (f : Fields) : BitVec 5 := f.x.extractLsb' 8 5
def sub (f : Fields) : BitVec 5 := f.x.extractLsb' 3 5
def md (f : Fields) : BitVec 3 := f.x.extractLsb' 0 3
/-- The 32-bit immediate and m of the immediate class (R83). -/
def imm (f : Fields) : Word := f.b ++ (f.c ++ f.x.extractLsb' 2 16)
def m (f : Fields) : BitVec 2 := f.x.extractLsb' 0 2
/-- The cache field and displacement of the plain memory layout (R84). -/
def cache (f : Fields) : BitVec 2 := f.x.extractLsb' 16 2
def disp (f : Fields) : BitVec 16 := f.x.extractLsb' 0 16
/-- The system immediate (R87). -/
def simm (f : Fields) : BitVec 26 := f.c ++ f.x
/-- Bits [49:0] whole (R86). -/
def e50 (f : Fields) : BitVec 50 := f.d ++ (f.a ++ (f.b ++ (f.c ++ f.x)))
/-- The guard and the stop bit (R76). -/
def ctl (f : Fields) : Ctl := { pg := f.pg, pn := f.pn, sp := f.sp }

end Fields

/-- x of the register class from dt, st, sub and mod (R81). -/
def xOf (dt st sub : BitVec 5) (md : BitVec 3) : BitVec 18 := dt ++ (st ++ (sub ++ md))

/-- Fields of a register-class word. -/
def fR (op : BitVec 8) (ty : Bool) (k : Ctl) (d a b c : BitVec 8) (x : BitVec 18) : Fields :=
  { op := op, ty := ty, sp := k.sp, pg := k.pg, pn := k.pn, d := d, a := a, b := b, c := c, x := x }

/-- Fields of an immediate- or branch-class word (R83, R85). -/
def fI (op : BitVec 8) (ty : Bool) (k : Ctl) (d a : BitVec 8) (imm : Word) (m : BitVec 2) : Fields :=
  fR op ty k d a (imm.extractLsb' 24 8) (imm.extractLsb' 16 8) (imm.extractLsb' 0 16 ++ m)

/-- Fields of a plain memory word (R84). -/
def fM (op : BitVec 8) (ty : Bool) (k : Ctl) (d : BitVec 8) (rec_ : BitVec 4) (b c : BitVec 8) (cache : BitVec 2)
    (disp : BitVec 16) : Fields :=
  fR op ty k d (0#4 ++ rec_) b c (cache ++ disp)

/-- Fields of a system word (R87). -/
def fS (op : BitVec 8) (k : Ctl) (d a b : BitVec 8) (s : BitVec 26) : Fields :=
  fR op false k d a b (s.extractLsb' 18 8) (s.extractLsb' 0 18)

/-- Fields of an engine word (R86): hw, h, acq, rel, sc and the 41-bit command. -/
def fE (op : BitVec 8) (k : Ctl) (e : Eng) (cmd : BitVec 41) : Fields :=
  let w : BitVec 50 := BitVec.ofBool e.hw ++ (e.h ++ (BitVec.ofBool e.acq ++ (BitVec.ofBool e.rel ++ (e.sc.code ++ cmd))))
  fR op false k (w.extractLsb' 42 8) (w.extractLsb' 34 8) (w.extractLsb' 26 8) (w.extractLsb' 18 8) (w.extractLsb' 0 18)

/-- The field of an unused register (R77). -/
def U : BitVec 8 := 0xFF#8

/-- A predicate number in a register field: bits [7:3] are 0 (R77). -/
def pfield (f : BitVec 8) : Option PF := if f.extractLsb' 3 5 == 0 then some (f.extractLsb' 0 3) else none
/-- A handle number in a register field. -/
def hfield (f : BitVec 8) : Option HF := pfield f
/-- A record number in a register field: bits [7:4] are 0 (R84). -/
def bfield (f : BitVec 8) : Option BF := if f.extractLsb' 4 4 == 0 then some (f.extractLsb' 0 4) else none
/-- none unless the condition holds. -/
def need (b : Bool) : Option Unit := if b then some () else none
/-- `.n64` or no type (R106, R323). -/
def wideNone (c : BitVec 5) : Option Bool := if c == noTy then some false else if c == 3 then some true else none
/-- The code of `.n64` or no type. -/
def wideNoneCode (w : Bool) : BitVec 5 := if w then 3 else noTy
/-- `.n32` or `.n64` (R106, R160). -/
def wide32 (c : BitVec 5) : Option Bool := if c == 2 then some false else if c == 3 then some true else none
/-- The code of `.n32` or `.n64`. -/
def wide32Code (w : Bool) : BitVec 5 := if w then 3 else 2


/-! ### Decoding -/

/-- Why a word is no instruction (R78). -/
inductive Reject where
  /-- op is unassigned in the opcode map (R88). -/
  | unassigned
  /-- ty = 1 on an opcode that does not accept `.a` (R90). -/
  | notApproximate
  /-- A reserved code or bit, or an unused field that does not hold 0xFF (R78). -/
  | reserved
  /-- A field outside the range its description gives (R78). -/
  | outOfRange
  deriving DecidableEq, Repr

/-- The opcodes that accept ty = 1, marked with a star in R88. -/
def starred : List Nat :=
  [0x60, 0x61, 0x62, 0x63, 0x64, 0x65, 0x66, 0x70, 0x72, 0x73, 0x76, 0x88, 0x89, 0x8A, 0x8B, 0x8C, 0x8D, 0x8E, 0x8F,
   0x90, 0x91, 0x92, 0x9B, 0xBC, 0xBD, 0xC1]

/-- The assigned opcodes of R88. -/
def assigned (o : Nat) : Bool :=
  (1 <= o && o <= 0x0A) || (0x10 <= o && o <= 0x1A) || [0x20, 0x22, 0x24, 0x26, 0x27, 0x28, 0x2A].contains o
  || (0x30 <= o && o <= 0x3C) || [0x40, 0x41, 0x42, 0x44, 0x45, 0x46, 0x47, 0x48, 0x49].contains o
  || [0x50, 0x51, 0x52, 0x54, 0x55, 0x56].contains o || (0x60 <= o && o <= 0x69)
  || [0x70, 0x72, 0x73, 0x76].contains o || (0x80 <= o && o <= 0x94) || o == 0x9B || (0xA0 <= o && o <= 0xAA)
  || (0xB0 <= o && o <= 0xBE) || (0xC0 <= o && o <= 0xC6) || (0xC8 <= o && o <= 0xCD) || (0xD0 <= o && o <= 0xDD)
  || [0xE0, 0xE1, 0xE2].contains o || (0xE4 <= o && o <= 0xEC) || (0xF0 <= o && o <= 0xF3)

/-- Types of a three-register integer form; sub and mod hold 0 (R106). -/
def Fields.int3 (f : Fields) : Option IntTy := do
  need (f.st == noTy && f.sub == 0 && f.md == 0)
  IntTy.ofCode f.dt

/-- A `.n32` or `.n64` form without further fields (R106). -/
def Fields.w32 (f : Fields) : Option Bool := do
  need (f.st == noTy && f.sub == 0 && f.md == 0)
  wide32 f.dt

/-- Type and rounding of a floating form with mod 0 (R129, R133). -/
def Fields.flt (f : Fields) : Option (Ty × Rm) := do
  need (f.st == noTy && f.md == 0)
  let t ← Ty.ofCode f.dt
  let r ← Rm.ofCode f.sub
  pure (t, r)

/-- Type of a floating form with sub and mod 0. -/
def Fields.flt0 (f : Fields) : Option Ty := do
  need (f.st == noTy && f.sub == 0 && f.md == 0)
  Ty.ofCode f.dt

/-- Destination predicate and condition of CMP's d field (R112). -/
def cmpField (d : BitVec 8) : Option (PF × Cond) := do
  need (d.extractLsb' 6 2 == 0)
  let k ← Cond.ofCode (d.extractLsb' 3 3)
  pure (d.extractLsb' 0 3, k)

/-- Destination predicate, condition and u of FCMP's d field (R138). -/
def fcmpField (d : BitVec 8) : Option (PF × FCond × Bool) := do
  need (d.getLsbD 7 == false)
  pure (d.extractLsb' 0 3, FCond.ofCode (d.extractLsb' 3 3), d.getLsbD 6)

/-- The mask of the collective layout (R82). -/
def Fields.mask (f : Fields) : Option MaskSpec :=
  if f.x.getLsbD 8 then do
    need (f.c == U)
    pure (.run (f.x.extractLsb' 5 3) (f.x.extractLsb' 0 5))
  else do
    need (f.x.extractLsb' 0 8 == 0)
    pure (.reg f.c)

/-- Width and status predicate of a shuffle (R160). -/
def Fields.shuf (f : Fields) : Option (Bool × PF) := do
  need (f.st == noTy && f.sub == 0)
  let w ← wide32 f.dt
  pure (w, f.md)

/-- Type, count of the modifier byte of LD and ST (R84). -/
def ldByte (c : BitVec 8) : Option (Ty × VCnt) := do
  need (c.getLsbD 0 == false)
  let t ← Ty.ofCode (c.extractLsb' 3 5)
  let n ← VCnt.ofCode (c.extractLsb' 1 2)
  pure (t, n)

/-- The engine part (R86). -/
def Fields.eng (f : Fields) : Option Eng := do
  let w := f.e50
  let sc ← Scope.ofCode (w.extractLsb' 41 3)
  pure { hw := w.getLsbD 49, h := w.extractLsb' 46 3, acq := w.getLsbD 45, rel := w.getLsbD 44, sc := sc }

/-- The command field (R86). -/
def Fields.cmd (f : Fields) : BitVec 41 := f.e50.extractLsb' 0 41

/-- The matrix command's memory operand (R221). -/
def mopnd (w : BitVec 41) : MOpnd :=
  { rec_ := w.extractLsb' 37 4, off := w.extractLsb' 29 8, disp := w.extractLsb' 17 12 }

/-- CWT's and CSIG's order bit and scope (R175). -/
def Fields.ordBit (f : Fields) (form : BitVec 2) : Option (Bool × Scope) := do
  let s := f.simm
  need (s.extractLsb' 6 20 == 0 && s.extractLsb' 4 2 == form)
  let sc ← Scope.ofCode (s.extractLsb' 0 3)
  pure (s.getLsbD 3, sc)

/-- The instruction that assigned fields spell, before the range checks of Instr.wf. -/
def Fields.body (f : Fields) : Option Instr :=
  let k := f.ctl
  match f.op.toNat with
  | 0x01 => do
    need (f.sp == false && f.pg == 7 && f.pn == false && f.d == U && f.a == U && f.b == U && f.c == U
      && f.x.extractLsb' 0 4 == 0)
    pure (.rpt (f.x.extractLsb' 12 6) (f.x.extractLsb' 10 2) (f.x.extractLsb' 8 2) (f.x.extractLsb' 6 2)
      (f.x.extractLsb' 4 2))
  | 0x02 => do
    need (f.b == U && f.c == U && f.st == noTy && f.sub == 0 && f.md == 0)
    let w ← wideNone f.dt
    pure (.mov k f.d f.a w)
  | 0x03 => do
    need (f.a == U && f.m == 0)
    pure (.movi k f.d f.imm)
  | 0x04 => do
    need (f.st == noTy && f.sub == 0 && f.md == 0)
    let w ← wideNone f.dt
    let p ← pfield f.c
    pure (.sel k f.d p f.a f.b w)
  | 0x05 => do
    need (f.m == 0)
    let p ← pfield f.a
    pure (.selI k f.d p f.imm)
  | 0x06 => do
    need (f.b == U && f.c == U && f.st == noTy && f.sub == 0 && f.md == 0)
    let w ← wideNone f.dt
    pure (.srd k f.d f.a w)
  | 0x07 => do
    need (f.d == 0x27#8 && f.b == U && f.c == U && f.dt == noTy && f.st == noTy && f.sub == 0 && f.md == 0)
    pure (.swr k f.a)
  | 0x08 => do
    need (f.dt == noTy && f.st == noTy)
    let d ← pfield f.d
    let a ← pfield f.a
    let b ← pfield f.b
    let c ← pfield f.c
    pure (.plop k d a b c (f.x.extractLsb' 0 8))
  | 0x09 => do
    need (f.c == U && f.md == 0 && f.sub.getLsbD 4 == false)
    let l ← LeaForm.ofCodes f.dt f.st
    pure (.lea k f.d f.a f.b l (f.sub.extractLsb' 0 4))
  | 0x0A => pure (.leaI k f.d f.a f.imm (IntTy.ofM f.m))
  | 0x10 => do
    need (f.c == U && f.st == noTy && f.sub == 0 && f.md.extractLsb' 1 2 == 0)
    let t ← IntTy.ofCode f.dt
    pure (.add k f.d f.a f.b t (f.md.getLsbD 0))
  | 0x11 => do
    need (f.dt == 2 && f.st == noTy && f.sub == 0 && f.md == 0 && f.c.getLsbD 7 == false)
    need (f.c.getLsbD 6 == false || f.c.extractLsb' 0 3 == 7)
    pure (.addc k f.d (f.c.extractLsb' 3 3) f.a f.b (if f.c.getLsbD 6 then none else some (f.c.extractLsb' 0 3)))
  | 0x12 => do
    need (f.c == U && f.st == noTy && f.sub == 0 && f.md.extractLsb' 1 2 == 0)
    let t ← IntTy.ofCode f.dt
    pure (.sub k f.d f.a f.b t (f.md.getLsbD 0))
  | 0x13 => do
    need (f.dt == 2 && f.st == noTy && f.sub == 0 && f.md == 0 && f.c.getLsbD 7 == false)
    need (f.c.getLsbD 6 == false || f.c.extractLsb' 0 3 == 7)
    pure (.subb k f.d (f.c.extractLsb' 3 3) f.a f.b (if f.c.getLsbD 6 then none else some (f.c.extractLsb' 0 3)))
  | 0x14 => do need (f.c == U); let t ← f.int3; pure (.mul k f.d f.a f.b t)
  | 0x15 => do need (f.c == U); let t ← f.int3; pure (.mulh k f.d f.a f.b t)
  | 0x16 => do let t ← f.int3; pure (.mad k f.d f.a f.b f.c t)
  | 0x17 => do need (f.c == U); let t ← f.int3; pure (.min k f.d f.a f.b t)
  | 0x18 => do need (f.c == U); let t ← f.int3; pure (.max k f.d f.a f.b t)
  | 0x19 => do
    need (f.b == U && f.c == U && f.st == noTy && f.sub == 0 && f.md.extractLsb' 1 2 == 0)
    let t ← IntTy.ofCode f.dt
    pure (.abs k f.d f.a t (f.md.getLsbD 0))
  | 0x1A => do
    need (f.c == U)
    let t ← f.int3
    let (p, cd) ← cmpField f.d
    pure (.cmp k p cd f.a f.b t)
  | 0x20 => pure (.addI k f.d f.a f.imm (IntTy.ofM f.m))
  | 0x22 => pure (.subI k f.d f.a f.imm (IntTy.ofM f.m))
  | 0x24 => pure (.mulI k f.d f.a f.imm (IntTy.ofM f.m))
  | 0x26 => pure (.madI k f.d f.a f.imm (IntTy.ofM f.m))
  | 0x27 => pure (.minI k f.d f.a f.imm (IntTy.ofM f.m))
  | 0x28 => pure (.maxI k f.d f.a f.imm (IntTy.ofM f.m))
  | 0x2A => do
    let (p, cd) ← cmpField f.d
    pure (.cmpI k p cd f.a f.imm (IntTy.ofM f.m))
  | 0x30 => do need (f.c == U); let t ← f.int3; pure (.and k f.d f.a f.b t)
  | 0x31 => do need (f.c == U); let t ← f.int3; pure (.or k f.d f.a f.b t)
  | 0x32 => do need (f.c == U); let t ← f.int3; pure (.xor k f.d f.a f.b t)
  | 0x33 => do need (f.b == U && f.c == U); let t ← f.int3; pure (.not k f.d f.a t)
  | 0x34 => do need (f.c == U); let t ← f.int3; pure (.shl k f.d f.a f.b t)
  | 0x35 => do need (f.c == U); let t ← f.int3; pure (.shr k f.d f.a f.b t)
  | 0x36 => do need (f.c == U); let w ← f.w32; pure (.rol k f.d f.a f.b w)
  | 0x37 => do need (f.c == U); let w ← f.w32; pure (.ror k f.d f.a f.b w)
  | 0x38 => do
    let t ← f.int3
    need (t == .n32 || t == .s32)
    pure (.bfx k f.d f.a f.b f.c (t == .s32))
  | 0x39 => do
    let t ← f.int3
    need (t == .n32)
    pure (.bfi k f.d f.a f.b f.c)
  | 0x3A => do need (f.b == U && f.c == U); let w ← f.w32; pure (.popc k f.d f.a w)
  | 0x3B => do need (f.b == U && f.c == U); let w ← f.w32; pure (.clz k f.d f.a w)
  | 0x3C => do need (f.b == U && f.c == U); let w ← f.w32; pure (.brev k f.d f.a w)
  | 0x40 => pure (.andI k f.d f.a f.imm (IntTy.ofM f.m))
  | 0x41 => pure (.orI k f.d f.a f.imm (IntTy.ofM f.m))
  | 0x42 => pure (.xorI k f.d f.a f.imm (IntTy.ofM f.m))
  | 0x44 => do
    need (f.imm.extractLsb' 8 24 == 0)
    pure (.shlI k f.d f.a (f.imm.extractLsb' 0 8) (IntTy.ofM f.m))
  | 0x45 => do
    need (f.imm.extractLsb' 8 24 == 0)
    pure (.shrI k f.d f.a (f.imm.extractLsb' 0 8) (IntTy.ofM f.m))
  | 0x46 => do
    need (f.imm.extractLsb' 8 24 == 0 && f.m.getLsbD 0 == false)
    pure (.rolI k f.d f.a (f.imm.extractLsb' 0 8) (f.m.getLsbD 1))
  | 0x47 => do
    need (f.imm.extractLsb' 8 24 == 0 && f.m.getLsbD 0 == false)
    pure (.rorI k f.d f.a (f.imm.extractLsb' 0 8) (f.m.getLsbD 1))
  | 0x48 => do
    need (f.imm.extractLsb' 5 3 == 0 && f.imm.extractLsb' 14 18 == 0 && f.m.getLsbD 1 == false)
    pure (.bfxI k f.d f.a (f.imm.extractLsb' 0 5) (f.imm.extractLsb' 8 6) (f.m.getLsbD 0))
  | 0x49 => do
    need (f.imm.extractLsb' 5 3 == 0 && f.imm.extractLsb' 14 18 == 0 && f.m == 0)
    pure (.bfiI k f.d f.a (f.imm.extractLsb' 0 5) (f.imm.extractLsb' 8 6))
  | 0x50 => do need (f.d == U && f.b == U && f.c == U && f.x == xOf noTy noTy 0 0); pure (.rngs k f.a)
  | 0x51 => do need (f.a == U && f.b == U && f.c == U && f.x == xOf noTy noTy 0 0); pure (.rng k f.d)
  | 0x52 => do need (f.d == U && f.b == U && f.c == U && f.x == xOf noTy noTy 0 0); pure (.rngj k f.a)
  | 0x54 => do need (f.c == U); let t ← f.flt0; pure (.kmax k f.d f.a f.b t)
  | 0x55 => do need (f.c == U); let t ← f.flt0; pure (.kmin k f.d f.a f.b t)
  | 0x56 => do
    need (f.c == U && f.st == noTy && f.sub.extractLsb' 1 4 == 0 && f.md == 0)
    let t ← Ty.ofCode f.dt
    let p ← pfield f.d
    pure (.kcmp k p (f.sub.getLsbD 0) f.a f.b t)
  | 0x60 => do need (f.c == U); let (t, r) ← f.flt; pure (.fadd k f.ty f.d f.a f.b t r)
  | 0x61 => do need (f.c == U); let (t, r) ← f.flt; pure (.fsub k f.ty f.d f.a f.b t r)
  | 0x62 => do need (f.c == U); let (t, r) ← f.flt; pure (.fmul k f.ty f.d f.a f.b t r)
  | 0x63 => do
    need (f.st == noTy && f.md.extractLsb' 1 2 == 0)
    let t ← Ty.ofCode f.dt
    let r ← Rm.ofCode f.sub
    pure (.ffma k f.ty f.d f.a f.b f.c t r (f.md.getLsbD 0))
  | 0x64 => do need (f.c == U); let t ← f.flt0; pure (.fmin k f.ty f.d f.a f.b t)
  | 0x65 => do need (f.c == U); let t ← f.flt0; pure (.fmax k f.ty f.d f.a f.b t)
  | 0x66 => do
    need (f.c == U)
    let t ← f.flt0
    let (p, cd, u) ← fcmpField f.d
    pure (.fcmp k f.ty p cd u f.a f.b t)
  | 0x67 => do need (f.b == U && f.c == U); let t ← f.flt0; pure (.fcls k f.d f.a t)
  | 0x68 => do need (f.b == U && f.c == U); let (t, r) ← f.flt; pure (.frnd k f.d f.a t r)
  | 0x69 => do need (f.c == U); let (t, r) ← f.flt; pure (.fscl k f.d f.a f.b t r)
  | 0x70 => do let t ← Ty.ofFm f.m; pure (.faddI k f.ty f.d f.a f.imm t)
  | 0x72 => do let t ← Ty.ofFm f.m; pure (.fmulI k f.ty f.d f.a f.imm t)
  | 0x73 => do let t ← Ty.ofFm f.m; pure (.ffmaI k f.ty f.d f.a f.imm t)
  | 0x76 => do
    let t ← Ty.ofFm f.m
    let (p, cd, u) ← fcmpField f.d
    pure (.fcmpI k f.ty p cd u f.a f.imm t)
  | 0x80 => do need (f.b == U && f.c == U); let (t, r) ← f.flt; pure (.frcp k f.d f.a t r)
  | 0x81 => do need (f.b == U && f.c == U); let (t, r) ← f.flt; pure (.fsqrt k f.d f.a t r)
  | 0x82 => do need (f.b == U && f.c == U); let t ← f.flt0; pure (.frsq k f.d f.a t)
  | 0x83 => do need (f.b == U && f.c == U); let t ← f.flt0; pure (.fex2 k f.d f.a t)
  | 0x84 => do need (f.b == U && f.c == U); let t ← f.flt0; pure (.flg2 k f.d f.a t)
  | 0x85 => do need (f.b == U && f.c == U); let t ← f.flt0; pure (.fsin k f.d f.a t)
  | 0x86 => do need (f.b == U && f.c == U); let t ← f.flt0; pure (.fcos k f.d f.a t)
  | 0x87 => do need (f.b == U && f.c == U); let t ← f.flt0; pure (.ftnh k f.d f.a t)
  | 0x88 => do need (f.c == U); let (t, r) ← f.flt; pure (.hadd2 k f.ty f.d f.a f.b t r)
  | 0x89 => do need (f.c == U); let (t, r) ← f.flt; pure (.hsub2 k f.ty f.d f.a f.b t r)
  | 0x8A => do need (f.c == U); let (t, r) ← f.flt; pure (.hmul2 k f.ty f.d f.a f.b t r)
  | 0x8B => do
    need (f.st == noTy && f.md.extractLsb' 1 2 == 0)
    let t ← Ty.ofCode f.dt
    let r ← Rm.ofCode f.sub
    pure (.hfma2 k f.ty f.d f.a f.b f.c t r (f.md.getLsbD 0))
  | 0x8C => do need (f.c == U); let t ← f.flt0; pure (.hmin2 k f.ty f.d f.a f.b t)
  | 0x8D => do need (f.c == U); let t ← f.flt0; pure (.hmax2 k f.ty f.d f.a f.b t)
  | 0x8E => do
    need (f.c == U && f.st == noTy && f.md == 0 && f.sub.getLsbD 4 == false)
    let t ← Ty.ofCode f.dt
    pure (.hcmp2 k f.ty f.d f.a f.b t (FCond.ofCode (f.sub.extractLsb' 0 3)) (f.sub.getLsbD 3))
  | 0x8F => do
    need (f.md == 0)
    let t ← Ty.ofCode f.dt
    let u ← Ty.ofCode f.st
    let r ← Rm.ofCode f.sub
    pure (.hdot2 k f.ty f.d f.a f.b f.c t u r)
  | 0x90 => do
    need (f.b == U && f.c == U && f.md.extractLsb' 1 2 == 0)
    let t ← Ty.ofCode f.dt
    let u ← Ty.ofCode f.st
    let r ← Rm.ofCode f.sub
    pure (.cvt k f.ty f.d f.a t u r (f.md.getLsbD 0))
  | 0x91 => do
    need (f.c == U && f.st == 8)
    let t ← Ty.ofCode f.dt
    let r ← Rm.ofCode f.sub
    pure (.cvtn k f.ty f.d f.a f.b t r (f.md.getLsbD 2) (f.md.extractLsb' 0 2))
  | 0x92 => do
    need (f.b == U && f.c == U && f.sub == 0)
    let t ← Ty.ofCode f.dt
    let u ← Ty.ofCode f.st
    pure (.cvtw k f.ty f.d f.a t u f.md)
  | 0x93 => do
    need (f.dt == 8 && f.md.getLsbD 2 == false)
    let ta ← Ty.ofCode f.st
    let tb ← Ty.ofCode f.sub
    pure (.sdot k f.d f.a f.b f.c ta tb (f.md.extractLsb' 0 2))
  | 0x94 => do
    need (f.c == U && f.st == 16 && f.sub == 0 && f.md == 0)
    let t ← Ty.ofCode f.dt
    pure (.cbx k f.d f.a f.b t)
  | 0x9B => do
    need (f.m != 0)
    let t ← Ty.ofFm f.m
    pure (.hfma2I k f.ty f.d f.a f.imm t)
  | 0xA0 => do need (f.d == U && f.a == U && f.m == 0); pure (.bra k f.imm)
  | 0xA1 => do need (f.d == U); pure (.brx k f.a f.imm f.m)
  | 0xA2 => do need (f.d == U && f.a == U && f.m == 0); pure (.call k f.imm)
  | 0xA3 => do need (f.d == U && f.imm == 0 && f.m == 0); pure (.callr k f.a)
  | 0xA4 => do need (f.d == U && f.a == U && f.imm == 0 && f.m == 0); pure (.ret k)
  | 0xA5 => do need (f.d == U && f.a == U && f.imm == 0 && f.m == 0); pure (.exit k)
  | 0xA6 => do
    need (f.d == U && f.m.getLsbD 1 == false)
    let id ← bfield f.a
    if f.m.getLsbD 0 then do
      need (f.imm.extractLsb' 8 24 == 0)
      pure (.rjpReg k id (f.imm.extractLsb' 0 8))
    else pure (.rjp k id f.imm)
  | 0xA7 => do
    need (f.d == U && f.imm == 0 && f.m == 0)
    let id ← bfield f.a
    pure (.rjw k id)
  | 0xA8 => do
    need (f.d == U && f.a == U && f.m == 0 && f.imm.extractLsb' 4 28 == 0)
    pure (.brk k (f.imm.extractLsb' 0 4))
  | 0xA9 => do need (f.d == U && f.a == U && f.b == U && f.simm == 0); pure (.yld k)
  | 0xAA => do need (f.d == U && f.a == U && f.b == U); pure (.sleep k f.simm)
  | 0xB0 => do need (f.d == U && f.a == U && f.b == U && f.x == xOf noTy noTy 0 0); pure (.rdv k f.c)
  | 0xB1 => do need (f.d == U && f.a == U && f.m == 0); pure (.rdvI k f.imm)
  | 0xB2 => do let (w, p) ← f.shuf; pure (.gshf k f.d f.a f.b f.c w p)
  | 0xB3 => do let (w, p) ← f.shuf; pure (.gshx k f.d f.a f.b f.c w p)
  | 0xB4 => do let (w, p) ← f.shuf; pure (.gshu k f.d f.a f.b f.c w p)
  | 0xB5 => do let (w, p) ← f.shuf; pure (.gshd k f.d f.a f.b f.c w p)
  | 0xB6 => do
    need (f.b == U && f.x == xOf noTy noTy 0 0)
    let p ← pfield f.a
    pure (.gbal k f.d p f.c)
  | 0xB7 => do
    need (f.m == 0)
    let p ← pfield f.a
    pure (.gbalI k f.d p f.imm)
  | 0xB8 => do
    need (f.b == U && f.x == xOf noTy noTy 0 0)
    let d ← pfield f.d
    let p ← pfield f.a
    pure (.gany k d p f.c)
  | 0xB9 => do
    need (f.m == 0)
    let d ← pfield f.d
    let p ← pfield f.a
    pure (.ganyI k d p f.imm)
  | 0xBA => do
    need (f.b == U && f.x == xOf noTy noTy 0 0)
    let d ← pfield f.d
    let p ← pfield f.a
    pure (.gall k d p f.c)
  | 0xBB => do
    need (f.m == 0)
    let d ← pfield f.d
    let p ← pfield f.a
    pure (.gallI k d p f.imm)
  | 0xBC => do
    need (f.b == U && f.x.getLsbD 9 == false)
    let t ← Ty.ofCode (f.x.extractLsb' 13 5)
    let o ← FoldOp.ofCode (f.x.extractLsb' 10 3)
    let m ← f.mask
    pure (.gred k f.ty f.d f.a t o m)
  | 0xBD => do
    need (f.b == U)
    let t ← Ty.ofCode (f.x.extractLsb' 13 5)
    let o ← FoldOp.ofCode (f.x.extractLsb' 10 3)
    let m ← f.mask
    pure (.gscn k f.ty f.d f.a t o (f.x.getLsbD 9) m)
  | 0xBE => do
    need (f.b == U && f.x.extractLsb' 9 4 == 0)
    let w ← wide32 (f.x.extractLsb' 13 5)
    let m ← f.mask
    pure (.gmat k f.d f.a w m)
  | 0xC0 => do
    let r ← bfield f.a
    let (t, n) ← ldByte f.c
    let ch ← Cache.ofCode f.cache
    pure (.ld k f.d r f.b t n ch f.disp)
  | 0xC1 => do
    let r ← bfield f.a
    let (t, n) ← ldByte f.c
    let ch ← Cache.ofCode f.cache
    pure (.st k f.ty f.d r f.b t n ch f.disp)
  | 0xC2 => do
    need (f.b == U && f.c == 0 && f.cache == 0 && f.disp == 0)
    let r ← bfield f.a
    pure (.bset k f.d r)
  | 0xC3 => do
    need (f.c == 0 && f.cache == 0)
    let d ← bfield f.d
    let r ← bfield f.a
    pure (.bget k d r f.b f.disp)
  | 0xC4 => do
    need (f.cache == 0)
    let d ← pfield f.d
    let r ← bfield f.a
    let (t, n) ← ldByte f.c
    pure (.bchk k d r f.b t n f.disp)
  | 0xC5 => do
    need (f.d == U && f.c.extractLsb' 1 7 == 0 && f.cache == 0)
    let r ← bfield f.a
    pure (.ltag k r f.b (f.c.getLsbD 0) f.disp)
  | 0xC6 => do
    need (f.d == U && f.c.extractLsb' 1 7 == 0 && f.cache == 0)
    let r ← bfield f.a
    pure (.pref k r f.b (f.c.getLsbD 0) f.disp)
  | 0xC8 => do
    let e ← f.eng
    let w := f.cmd
    if w.getLsbD 40 then do
      need (w.extractLsb' 0 11 == 0)
      pure (.xcpDesc k e (w.extractLsb' 36 4) (w.extractLsb' 32 4) (w.extractLsb' 20 12) (w.extractLsb' 14 6)
        (w.extractLsb' 11 3))
    else
      pure (.xcp k e (w.extractLsb' 36 4) (w.extractLsb' 32 4) (w.extractLsb' 24 8) (w.extractLsb' 16 8)
        (w.extractLsb' 9 7) (w.extractLsb' 3 6) (w.extractLsb' 0 3))
  | 0xC9 => do
    let e ← f.eng
    let w := f.cmd
    need (w.extractLsb' 0 9 == 0)
    pure (.xln k e (w.extractLsb' 37 4) (w.extractLsb' 29 8) (w.extractLsb' 25 4) (w.extractLsb' 17 8)
      (w.extractLsb' 15 2) (w.extractLsb' 9 6))
  | 0xCA => do
    let e ← f.eng
    let w := f.cmd
    pure (.xrot k e (w.extractLsb' 33 8) (w.extractLsb' 21 12) (w.extractLsb' 13 8) (w.extractLsb' 9 4)
      (w.extractLsb' 3 6) (w.extractLsb' 0 3))
  | 0xCB => do
    need (f.imm.extractLsb' 24 8 == 0 && f.m.getLsbD 1 == false)
    pure (.ainit k (f.a.extractLsb' 0 4) (f.a.extractLsb' 4 4) f.d (f.imm.extractLsb' 0 24) (f.m.getLsbD 0))
  | 0xCC => do
    need (f.imm.extractLsb' 24 8 == 0 && f.m == 0)
    pure (.aarv k (f.a.extractLsb' 0 4) (f.a.extractLsb' 4 4) f.d (f.imm.extractLsb' 0 24))
  | 0xCD => do
    need (f.cache == 0)
    let p ← pfield f.d
    let r ← bfield f.a
    pure (.awt k p r f.b f.c f.disp)
  | 0xD0 => do
    need (f.x.extractLsb' 0 4 == 0)
    let r ← bfield f.a
    let o ← AOp.ofCode (f.x.extractLsb' 14 4)
    let sc ← Scope.ofCode (f.x.extractLsb' 9 3)
    let t ← Ty.ofCode (f.x.extractLsb' 4 5)
    pure (.atom k f.d r f.b f.c o (Ord.ofCode (f.x.extractLsb' 12 2)) sc t)
  | 0xD1 => do
    need (f.d == U && f.x.extractLsb' 0 4 == 0 && f.x.extractLsb' 9 5 == 0)
    let r ← bfield f.a
    let o ← AOp.ofCode (f.x.extractLsb' 14 4)
    let t ← Ty.ofCode (f.x.extractLsb' 4 5)
    pure (.red k r f.b f.c o t)
  | 0xD2 => do
    need (f.c.extractLsb' 0 5 == 0 && f.cache == 0)
    let r ← bfield f.a
    let sc ← Scope.ofCode (f.c.extractLsb' 5 3)
    pure (.acq k f.d r f.b sc f.disp)
  | 0xD3 => do
    need (f.c.extractLsb' 0 4 == 0 && f.cache == 0)
    let r ← bfield f.a
    let sc ← Scope.ofCode (f.c.extractLsb' 5 3)
    pure (.rel k f.d r f.b sc (f.c.getLsbD 4) f.disp)
  | 0xD4 => do
    need (f.c == 0 && f.cache == 0)
    let r ← bfield f.a
    pure (.bind k f.d r f.b f.disp)
  | 0xD5 => do
    need (f.d == U && f.a == U && f.b == U && f.simm.extractLsb' 5 21 == 0)
    let sc ← Scope.ofCode (f.simm.extractLsb' 0 3)
    pure (.fence k (Ord.ofCode (f.simm.extractLsb' 3 2)) sc)
  | 0xD6 => do need (f.d == U && f.a == U && f.b == U && f.simm == 0); pure (.bar k)
  | 0xD7 => do
    need (f.d == U && f.a == U && f.b == U && f.simm.extractLsb' 3 23 == 0)
    let sc ← Scope.ofCode (f.simm.extractLsb' 0 3)
    pure (.cmt k sc)
  | 0xD8 => do
    let e ← f.eng
    let w := f.cmd
    need (w.extractLsb' 13 4 == 0 && w.extractLsb' 5 8 == U && w.extractLsb' 0 5 == noTy)
    pure (.mop k e (mopnd w))
  | 0xD9 => do
    let e ← f.eng
    let w := f.cmd
    need (w.extractLsb' 13 4 == 0)
    let t ← Ty.ofCode (w.extractLsb' 0 5)
    pure (.ald k e (mopnd w) (w.extractLsb' 5 8) t)
  | 0xDA => do
    let e ← f.eng
    let w := f.cmd
    let t ← Ty.ofCode (w.extractLsb' 0 5)
    let r ← Rm.ofCode (0#2 ++ w.extractLsb' 13 3)
    pure (.ast k e (mopnd w) (w.getLsbD 16) r (w.extractLsb' 5 8) t)
  | 0xDB => do
    let e ← f.eng
    let w := f.cmd
    need (w.extractLsb' 37 4 == 0 && w.extractLsb' 29 8 == U && w.extractLsb' 13 16 == 0
      && w.extractLsb' 0 5 == noTy)
    pure (.azr k e (w.extractLsb' 5 8))
  | 0xDC => do need (f.d == U && f.a == U && f.b == U && f.simm == 0); pure (.ckpt k)
  | 0xDD => do
    let e ← f.eng
    let w := f.cmd
    need (w.extractLsb' 0 19 == 0)
    let o ← FoldOp.ofCode (w.extractLsb' 36 3)
    let t ← Ty.ofCode (w.extractLsb' 31 5)
    pure (.ccol k e (CKind.ofCode (w.extractLsb' 39 2)) o t (w.extractLsb' 19 12))
  | 0xE0 => do
    need (f.simm == 0)
    let d ← pfield f.d
    let h ← hfield f.a
    pure (.ftst k d h f.b)
  | 0xE1 => do
    need (f.b == U && f.simm.extractLsb' 1 25 == 0)
    if f.simm.getLsbD 0 then pure (.fwtToken k f.d f.a)
    else do
      let h ← hfield f.a
      pure (.fwt k f.d h)
  | 0xE2 => do
    need (f.d == U && f.b == U && f.simm.extractLsb' 1 25 == 0)
    if f.simm.getLsbD 0 then pure (.fcanToken k f.a)
    else do
      let h ← hfield f.a
      pure (.fcan k h)
  | 0xE4 => do need (f.d == U && f.a == U && f.b == U); pure (.trap k f.simm)
  | 0xE5 => do need (f.d == U && f.a == U && f.b == U && f.simm == 0); pure (.tret k)
  | 0xE6 => do need (f.d == U && f.a == U && f.b == U); pure (.bkpt k f.simm)
  | 0xE7 => do need (f.a == U && f.b == U); pure (.sysr k f.d f.simm)
  | 0xE8 => do need (f.d == U && f.b == U); pure (.sysw k f.a f.simm)
  | 0xE9 => do need (f.b == U && f.simm == 0); pure (.lnch k f.d f.a)
  | 0xEA => do need (f.d == U && f.b == U && f.simm == 0); pure (.cncl k f.a)
  | 0xEB => do
    need (f.d == U)
    let (o, sc) ← f.ordBit 0
    pure (.csig k f.a f.b o sc)
  | 0xEC => do
    let d ← pfield f.d
    if f.simm.getLsbD 4 then do
      need (f.b == U)
      let (o, sc) ← f.ordBit 1
      pure (.cwtDone k d f.a o sc)
    else do
      let (o, sc) ← f.ordBit 0
      pure (.cwtVal k d f.a f.b o sc)
  | 0xF0 => do need (f.d == U && f.b == U && f.c == U && f.x == xOf noTy noTy 0 0); pure (.avset k f.a)
  | 0xF1 => do need (f.d == U && f.a == U && f.m == 0); pure (.avsetI k f.imm)
  | 0xF2 => do
    need (f.b == U && f.c == U && f.st == noTy && f.sub == 0 && f.md.extractLsb' 1 2 == 0)
    if f.md.getLsbD 0 then do
      need (f.dt == noTy)
      let d ← pfield f.d
      let a ← pfield f.a
      pure (.endrPred k d a)
    else do
      let w ← wideNone f.dt
      pure (.endr k f.d f.a w)
  | 0xF3 => do let t ← f.flt0; pure (.endrc k f.d f.a f.b f.c t)
  | _ => none

/-- The instruction of the fields, or why there is none (R78). -/
def Fields.decode (f : Fields) : Except Reject Instr :=
  if !assigned f.op.toNat then .error .unassigned
  else if f.ty && !starred.contains f.op.toNat then .error .notApproximate
  else
    match f.body with
    | none => .error .reserved
    | some i => if i.wf then .ok i else .error .outOfRange

/-- The instruction of a word (R76-R92). -/
def decode (w : DWord) : Except Reject Instr := (Fields.unpack w).decode

/-! ### Clause headers -/

/-- A clause header (R72). -/
structure Header where
  cnt  : BitVec 3
  wait : BitVec 12
  seta : BitVec 4
  setb : BitVec 4
  dist : BitVec 21
  spo  : BitVec 20
  deriving DecidableEq, Repr

/-- The header fields of a word (R72). -/
def Header.unpack (w : DWord) : Header :=
  { cnt := w.extractLsb' 61 3, wait := w.extractLsb' 49 12, seta := w.extractLsb' 45 4, setb := w.extractLsb' 41 4,
    dist := w.extractLsb' 20 21, spo := w.extractLsb' 0 20 }

/-- The word of a header (R72). -/
def Header.pack (h : Header) : DWord := h.cnt ++ (h.wait ++ (h.seta ++ (h.setb ++ (h.dist ++ h.spo))))

/-- Whether the front end accepts the header (R73). -/
def Header.ok (h : Header) : Bool :=
  let flag (s : BitVec 4) := s.toNat < 12 || s == 15#4
  h.cnt != 7#3 && flag h.seta && flag h.setb && !(h.setb != 15#4 && h.seta == 15#4)
    && !(h.seta == h.setb && h.seta != 15#4)

/-- The header of a word (R72, R73). -/
def decodeHeader (w : DWord) : Option Header :=
  if (Header.unpack w).ok then some (Header.unpack w) else none

/-! ### Encoding -/

/-- x of the collective layout (R82). -/
def xColl (t : BitVec 5) (o : BitVec 3) (excl : Bool) (m : MaskSpec) : BitVec 18 :=
  match m with
  | .reg _ => t ++ (o ++ (BitVec.ofBool excl ++ 0#9))
  | .run lsz first => t ++ (o ++ (BitVec.ofBool excl ++ (1#1 ++ (lsz ++ first))))

/-- c of the collective layout (R82). -/
def cColl : MaskSpec → BitVec 8
  | .reg c => c
  | .run .. => U

/-- The command field of a matrix command (R221). -/
def cmdM (m : MOpnd) (ai : Bool) (rm : BitVec 3) (r : BitVec 8) (t : BitVec 5) : BitVec 41 :=
  m.rec_ ++ (m.off ++ (m.disp ++ (BitVec.ofBool ai ++ (rm ++ (r ++ t)))))

/-- A one-bit modifier in mod. -/
def md1 (b : Bool) : BitVec 3 := if b then 1 else 0

/-- A predicate number in a register field (R77). -/
def pf (p : PF) : BitVec 8 := 0#5 ++ p

/-- A record number in a register field (R84). -/
def bf (r : BF) : BitVec 8 := 0#4 ++ r

/-- The carries of ADDC and SUBB (R109). -/
def carryField (j : PF) (k : Option PF) : BitVec 8 :=
  match k with
  | none => 0#1 ++ (1#1 ++ (j ++ 7#3))
  | some p => 0#1 ++ (0#1 ++ (j ++ p))

/-- The fields of an instruction; none for a step row, which has no word. -/
def encodeFields : Instr → Option Fields
  | .rpt n sd sa sb sc =>
    some (fR 0x01 false { pg := 7, pn := false, sp := false } U U U U (n ++ (sd ++ (sa ++ (sb ++ (sc ++ 0#4))))))
  | .mov k d a w => some (fR 0x02 false k d a U U (xOf (wideNoneCode w) noTy 0 0))
  | .movi k d i => some (fI 0x03 false k d U i 0)
  | .sel k d p a b w => some (fR 0x04 false k d a b (pf p) (xOf (wideNoneCode w) noTy 0 0))
  | .selI k d p i => some (fI 0x05 false k d (pf p) i 0)
  | .srd k d x w => some (fR 0x06 false k d x U U (xOf (wideNoneCode w) noTy 0 0))
  | .swr k a => some (fR 0x07 false k 0x27#8 a U U (xOf noTy noTy 0 0))
  | .plop k d a b c l => some (fR 0x08 false k (pf d) (pf a) (pf b) (pf c) (noTy ++ (noTy ++ l)))
  | .lea k d a b l sh => some (fR 0x09 false k d a b U (xOf l.codes.1 l.codes.2 (0#1 ++ sh) 0))
  | .leaI k d a i t => some (fI 0x0A false k d a i t.m)
  | .add k d a b t s => some (fR 0x10 false k d a b U (xOf t.ty.code noTy 0 (md1 s)))
  | .addI k d a i t => some (fI 0x20 false k d a i t.m)
  | .addc k d j a b c => some (fR 0x11 false k d a b (carryField j c) (xOf 2 noTy 0 0))
  | .sub k d a b t s => some (fR 0x12 false k d a b U (xOf t.ty.code noTy 0 (md1 s)))
  | .subI k d a i t => some (fI 0x22 false k d a i t.m)
  | .subb k d j a b c => some (fR 0x13 false k d a b (carryField j c) (xOf 2 noTy 0 0))
  | .mul k d a b t => some (fR 0x14 false k d a b U (xOf t.ty.code noTy 0 0))
  | .mulI k d a i t => some (fI 0x24 false k d a i t.m)
  | .mulh k d a b t => some (fR 0x15 false k d a b U (xOf t.ty.code noTy 0 0))
  | .mad k d a b c t => some (fR 0x16 false k d a b c (xOf t.ty.code noTy 0 0))
  | .madI k d a i t => some (fI 0x26 false k d a i t.m)
  | .min k d a b t => some (fR 0x17 false k d a b U (xOf t.ty.code noTy 0 0))
  | .minI k d a i t => some (fI 0x27 false k d a i t.m)
  | .max k d a b t => some (fR 0x18 false k d a b U (xOf t.ty.code noTy 0 0))
  | .maxI k d a i t => some (fI 0x28 false k d a i t.m)
  | .abs k d a t s => some (fR 0x19 false k d a U U (xOf t.ty.code noTy 0 (md1 s)))
  | .cmp k p c a b t => some (fR 0x1A false k (0#2 ++ (c.code ++ p)) a b U (xOf t.ty.code noTy 0 0))
  | .cmpI k p c a i t => some (fI 0x2A false k (0#2 ++ (c.code ++ p)) a i t.m)
  | .and k d a b t => some (fR 0x30 false k d a b U (xOf t.ty.code noTy 0 0))
  | .andI k d a i t => some (fI 0x40 false k d a i t.m)
  | .or k d a b t => some (fR 0x31 false k d a b U (xOf t.ty.code noTy 0 0))
  | .orI k d a i t => some (fI 0x41 false k d a i t.m)
  | .xor k d a b t => some (fR 0x32 false k d a b U (xOf t.ty.code noTy 0 0))
  | .xorI k d a i t => some (fI 0x42 false k d a i t.m)
  | .not k d a t => some (fR 0x33 false k d a U U (xOf t.ty.code noTy 0 0))
  | .shl k d a b t => some (fR 0x34 false k d a b U (xOf t.ty.code noTy 0 0))
  | .shlI k d a n t => some (fI 0x44 false k d a (0#24 ++ n) t.m)
  | .shr k d a b t => some (fR 0x35 false k d a b U (xOf t.ty.code noTy 0 0))
  | .shrI k d a n t => some (fI 0x45 false k d a (0#24 ++ n) t.m)
  | .rol k d a b w => some (fR 0x36 false k d a b U (xOf (wide32Code w) noTy 0 0))
  | .rolI k d a n w => some (fI 0x46 false k d a (0#24 ++ n) (BitVec.ofBool w ++ 0#1))
  | .ror k d a b w => some (fR 0x37 false k d a b U (xOf (wide32Code w) noTy 0 0))
  | .rorI k d a n w => some (fI 0x47 false k d a (0#24 ++ n) (BitVec.ofBool w ++ 0#1))
  | .bfx k d a b c s => some (fR 0x38 false k d a b c (xOf (if s then 6 else 2) noTy 0 0))
  | .bfxI k d a p w s => some (fI 0x48 false k d a (0#18 ++ (w ++ (0#3 ++ p))) (0#1 ++ BitVec.ofBool s))
  | .bfi k d a b c => some (fR 0x39 false k d a b c (xOf 2 noTy 0 0))
  | .bfiI k d a p w => some (fI 0x49 false k d a (0#18 ++ (w ++ (0#3 ++ p))) 0)
  | .popc k d a w => some (fR 0x3A false k d a U U (xOf (wide32Code w) noTy 0 0))
  | .clz k d a w => some (fR 0x3B false k d a U U (xOf (wide32Code w) noTy 0 0))
  | .brev k d a w => some (fR 0x3C false k d a U U (xOf (wide32Code w) noTy 0 0))
  | .rngs k a => some (fR 0x50 false k U a U U (xOf noTy noTy 0 0))
  | .rng k d => some (fR 0x51 false k d U U U (xOf noTy noTy 0 0))
  | .rngj k a => some (fR 0x52 false k U a U U (xOf noTy noTy 0 0))
  | .kmax k d a b t => some (fR 0x54 false k d a b U (xOf t.code noTy 0 0))
  | .kmin k d a b t => some (fR 0x55 false k d a b U (xOf t.code noTy 0 0))
  | .kcmp k p lt a b t => some (fR 0x56 false k (pf p) a b U (xOf t.code noTy (if lt then 1 else 0) 0))
  | .fadd k ap d a b t r => some (fR 0x60 ap k d a b U (xOf t.code noTy r.code 0))
  | .faddI k ap d a i t => some (fI 0x70 ap k d a i t.fm)
  | .fsub k ap d a b t r => some (fR 0x61 ap k d a b U (xOf t.code noTy r.code 0))
  | .fmul k ap d a b t r => some (fR 0x62 ap k d a b U (xOf t.code noTy r.code 0))
  | .fmulI k ap d a i t => some (fI 0x72 ap k d a i t.fm)
  | .ffma k ap d a b c t r n => some (fR 0x63 ap k d a b c (xOf t.code noTy r.code (md1 n)))
  | .ffmaI k ap d a i t => some (fI 0x73 ap k d a i t.fm)
  | .fmin k ap d a b t => some (fR 0x64 ap k d a b U (xOf t.code noTy 0 0))
  | .fmax k ap d a b t => some (fR 0x65 ap k d a b U (xOf t.code noTy 0 0))
  | .fcmp k ap p c u a b t =>
    some (fR 0x66 ap k (0#1 ++ (BitVec.ofBool u ++ (c.code ++ p))) a b U (xOf t.code noTy 0 0))
  | .fcmpI k ap p c u a i t => some (fI 0x76 ap k (0#1 ++ (BitVec.ofBool u ++ (c.code ++ p))) a i t.fm)
  | .fcls k d a t => some (fR 0x67 false k d a U U (xOf t.code noTy 0 0))
  | .frnd k d a t r => some (fR 0x68 false k d a U U (xOf t.code noTy r.code 0))
  | .fscl k d a b t r => some (fR 0x69 false k d a b U (xOf t.code noTy r.code 0))
  | .frcp k d a t r => some (fR 0x80 false k d a U U (xOf t.code noTy r.code 0))
  | .fsqrt k d a t r => some (fR 0x81 false k d a U U (xOf t.code noTy r.code 0))
  | .frsq k d a t => some (fR 0x82 false k d a U U (xOf t.code noTy 0 0))
  | .fex2 k d a t => some (fR 0x83 false k d a U U (xOf t.code noTy 0 0))
  | .flg2 k d a t => some (fR 0x84 false k d a U U (xOf t.code noTy 0 0))
  | .fsin k d a t => some (fR 0x85 false k d a U U (xOf t.code noTy 0 0))
  | .fcos k d a t => some (fR 0x86 false k d a U U (xOf t.code noTy 0 0))
  | .ftnh k d a t => some (fR 0x87 false k d a U U (xOf t.code noTy 0 0))
  | .hadd2 k ap d a b t r => some (fR 0x88 ap k d a b U (xOf t.code noTy r.code 0))
  | .hsub2 k ap d a b t r => some (fR 0x89 ap k d a b U (xOf t.code noTy r.code 0))
  | .hmul2 k ap d a b t r => some (fR 0x8A ap k d a b U (xOf t.code noTy r.code 0))
  | .hfma2 k ap d a b c t r n => some (fR 0x8B ap k d a b c (xOf t.code noTy r.code (md1 n)))
  | .hfma2I k ap d a i t => some (fI 0x9B ap k d a i t.fm)
  | .hmin2 k ap d a b t => some (fR 0x8C ap k d a b U (xOf t.code noTy 0 0))
  | .hmax2 k ap d a b t => some (fR 0x8D ap k d a b U (xOf t.code noTy 0 0))
  | .hcmp2 k ap d a b t c u =>
    some (fR 0x8E ap k d a b U (xOf t.code noTy (0#1 ++ (BitVec.ofBool u ++ c.code)) 0))
  | .hdot2 k ap d a b c dt st r => some (fR 0x8F ap k d a b c (xOf dt.code st.code r.code 0))
  | .cvt k ap d a dt st r s => some (fR 0x90 ap k d a U U (xOf dt.code st.code r.code (md1 s)))
  | .cvtn k ap d a b dt r s q => some (fR 0x91 ap k d a b U (xOf dt.code 8 r.code (BitVec.ofBool s ++ q)))
  | .cvtw k ap d a dt st q => some (fR 0x92 ap k d a U U (xOf dt.code st.code 0 q))
  | .sdot k d a b c ta tb q => some (fR 0x93 false k d a b c (xOf 8 ta.code tb.code (0#1 ++ q)))
  | .cbx k d a b dt => some (fR 0x94 false k d a b U (xOf dt.code 16 0 0))
  | .bra k i => some (fI 0xA0 false k U U i 0)
  | .brx k a i s => some (fI 0xA1 false k U a i s)
  | .call k i => some (fI 0xA2 false k U U i 0)
  | .callr k a => some (fI 0xA3 false k U a 0 0)
  | .ret k => some (fI 0xA4 false k U U 0 0)
  | .exit k => some (fI 0xA5 false k U U 0 0)
  | .rjp k id m => some (fI 0xA6 false k U (bf id) m 0)
  | .rjpReg k id r => some (fI 0xA6 false k U (bf id) (0#24 ++ r) 1)
  | .rjw k id => some (fI 0xA7 false k U (bf id) 0 0)
  | .brk k n => some (fI 0xA8 false k U U (0#28 ++ n) 0)
  | .yld k => some (fS 0xA9 k U U U 0)
  | .sleep k n => some (fS 0xAA k U U U n)
  | .rdv k m => some (fR 0xB0 false k U U U m (xOf noTy noTy 0 0))
  | .rdvI k m => some (fI 0xB1 false k U U m 0)
  | .gshf k d a b m w p => some (fR 0xB2 false k d a b m (xOf (wide32Code w) noTy 0 p))
  | .gshx k d a b m w p => some (fR 0xB3 false k d a b m (xOf (wide32Code w) noTy 0 p))
  | .gshu k d a b m w p => some (fR 0xB4 false k d a b m (xOf (wide32Code w) noTy 0 p))
  | .gshd k d a b m w p => some (fR 0xB5 false k d a b m (xOf (wide32Code w) noTy 0 p))
  | .gbal k d p m => some (fR 0xB6 false k d (pf p) U m (xOf noTy noTy 0 0))
  | .gbalI k d p m => some (fI 0xB7 false k d (pf p) m 0)
  | .gany k d p m => some (fR 0xB8 false k (pf d) (pf p) U m (xOf noTy noTy 0 0))
  | .ganyI k d p m => some (fI 0xB9 false k (pf d) (pf p) m 0)
  | .gall k d p m => some (fR 0xBA false k (pf d) (pf p) U m (xOf noTy noTy 0 0))
  | .gallI k d p m => some (fI 0xBB false k (pf d) (pf p) m 0)
  | .gred k ap d a t o m => some (fR 0xBC ap k d a U (cColl m) (xColl t.code o.code false m))
  | .gscn k ap d a t o e m => some (fR 0xBD ap k d a U (cColl m) (xColl t.code o.code e m))
  | .gmat k d a w m => some (fR 0xBE false k d a U (cColl m) (xColl (wide32Code w) 0 false m))
  | .ld k d r b t n ch disp =>
    some (fM 0xC0 false k d r b (t.code ++ (n.code ++ 0#1)) ch.code disp)
  | .st k ap d r b t n ch disp =>
    some (fM 0xC1 ap k d r b (t.code ++ (n.code ++ 0#1)) ch.code disp)
  | .bset k d r => some (fM 0xC2 false k d r U 0 0 0)
  | .bget k kd r b disp => some (fM 0xC3 false k (bf kd) r b 0 0 disp)
  | .bchk k p r b t n disp => some (fM 0xC4 false k (pf p) r b (t.code ++ (n.code ++ 0#1)) 0 disp)
  | .ltag k r b ap disp => some (fM 0xC5 false k U r b (0#7 ++ BitVec.ofBool ap) 0 disp)
  | .pref k r b l2 disp => some (fM 0xC6 false k U r b (0#7 ++ BitVec.ofBool l2) 0 disp)
  | .xcp k e dr sr dd sd n aw pw => some (fE 0xC8 k e (0#1 ++ (dr ++ (sr ++ (dd ++ (sd ++ (n ++ (aw ++ pw))))))))
  | .xcpDesc k e dr sr desc aw pw =>
    some (fE 0xC8 k e (1#1 ++ (dr ++ (sr ++ (desc ++ (aw ++ (pw ++ 0#11)))))))
  | .xln k e dr gx sr gy sz aw => some (fE 0xC9 k e (dr ++ (gx ++ (sr ++ (gy ++ (sz ++ (aw ++ 0#9)))))))
  | .xrot k e gx disp n m aw tag => some (fE 0xCA k e (gx ++ (disp ++ (n ++ (m ++ (aw ++ tag))))))
  | .ainit k r disp off tgt force =>
    some (fI 0xCB false k off (disp ++ r) (0#8 ++ tgt) (0#1 ++ BitVec.ofBool force))
  | .aarv k r disp off n => some (fI 0xCC false k off (disp ++ r) (0#8 ++ n) 0)
  | .awt k p r b e disp => some (fM 0xCD false k (pf p) r b e 0 disp)
  | .atom k d r b v op o sc t =>
    some (fR 0xD0 false k d (bf r) b v (op.code ++ (o.code ++ (sc.code ++ (t.code ++ 0#4)))))
  | .red k r b v op t => some (fR 0xD1 false k U (bf r) b v (op.code ++ (0#5 ++ (t.code ++ 0#4))))
  | .acq k d r b sc disp => some (fM 0xD2 false k d r b (sc.code ++ 0#5) 0 disp)
  | .rel k v r b sc ad disp => some (fM 0xD3 false k v r b (sc.code ++ (BitVec.ofBool ad ++ 0#4)) 0 disp)
  | .bind k v r b disp => some (fM 0xD4 false k v r b 0 0 disp)
  | .fence k o sc => some (fS 0xD5 k U U U (0#21 ++ (o.code ++ sc.code)))
  | .bar k => some (fS 0xD6 k U U U 0)
  | .cmt k sc => some (fS 0xD7 k U U U (0#23 ++ sc.code))
  | .mop k e m => some (fE 0xD8 k e (cmdM m false 0 U noTy))
  | .ald k e m r t => some (fE 0xD9 k e (cmdM m false 0 r t.code))
  | .ast k e m ai rm r t => some (fE 0xDA k e (cmdM m ai (rm.code.extractLsb' 0 3) r t.code))
  | .azr k e r => some (fE 0xDB k e (cmdM { rec_ := 0, off := U, disp := 0 } false 0 r noTy))
  | .ckpt k => some (fS 0xDC k U U U 0)
  | .ccol k e kd op t desc =>
    some (fE 0xDD k e (kd.code ++ (op.code ++ (t.code ++ (desc ++ 0#19)))))
  | .ftst k d h e => some (fS 0xE0 k (pf d) (pf h) e 0)
  | .fwt k d h => some (fS 0xE1 k d (pf h) U 0)
  | .fwtToken k d t => some (fS 0xE1 k d t U 1)
  | .fcan k h => some (fS 0xE2 k U (pf h) U 0)
  | .fcanToken k t => some (fS 0xE2 k U t U 1)
  | .trap k n => some (fS 0xE4 k U U U n)
  | .tret k => some (fS 0xE5 k U U U 0)
  | .bkpt k n => some (fS 0xE6 k U U U n)
  | .sysr k d n => some (fS 0xE7 k d U U n)
  | .sysw k a n => some (fS 0xE8 k U a U n)
  | .lnch k d a => some (fS 0xE9 k d a U 0)
  | .cncl k a => some (fS 0xEA k U a U 0)
  | .csig k a b r sc => some (fS 0xEB k U a b (0#20 ++ (0#2 ++ (BitVec.ofBool r ++ sc.code))))
  | .cwtVal k p a b q sc => some (fS 0xEC k (pf p) a b (0#20 ++ (0#2 ++ (BitVec.ofBool q ++ sc.code))))
  | .cwtDone k p a q sc => some (fS 0xEC k (pf p) a U (0#20 ++ (1#2 ++ (BitVec.ofBool q ++ sc.code))))
  | .avset k a => some (fR 0xF0 false k U a U U (xOf noTy noTy 0 0))
  | .avsetI k v => some (fI 0xF1 false k U U v 0)
  | .endr k d a w => some (fR 0xF2 false k d a U U (xOf (wideNoneCode w) noTy 0 0))
  | .endrPred k d a => some (fR 0xF2 false k (pf d) (pf a) U U (xOf noTy noTy 0 1))
  | .endrc k d a b c t => some (fR 0xF3 false k d a b c (xOf t.code noTy 0 0))
  | _ => none

/-- The word of an instruction; none for a step row. -/
def encode (i : Instr) : Option DWord := (encodeFields i).map Fields.pack

/-- The host's probe: the instruction my decoder reads from a word of the opcode table. Every instruction word has 64 bits
and is one little-endian word (R71), so bit 0 of the table's numbering is bit 0 of the word. -/
def decodeTableWord (nbits w : Nat) : Option Instr :=
  match decode (BitVec.ofNat 64 (w % 2 ^ nbits)) with
  | .ok i => some i
  | .error _ => none

end Sys2Proof
end

