-- ==== Sys2Proof/Config.lean ====
section
/-! DEFINITION. What an implementation fixes and the free values: opaque constants, so that nothing in Lean knows a value
of them. Log entries 1, 8, 15, 16. -/

namespace Sys2Proof.Config

/-- The free values: value n is the n-th one the machine uses (State.free counts them). Every choice the spec leaves
open (R4) is drawn from here. Log 8.
[log 8: DESIGN CHOICE, safe] -/
opaque freeWord : Nat → BitVec 64

/-- The `.f32` results of FRSQ, FEX2, FLG2, FSIN, FCOS and FTNH: one fixed choice per function and operand among the
values the bound admits (R143). The model takes the candidate this number selects. Log 15.
[log 15: DESIGN CHOICE, safe] -/
opaque transcendentalPick : Nat → BitVec 32 → Nat

/-- Whether KMAX (true) or KMIN (false) copies the second of two keys that rank alike but differ in register bits the rank leaves out
(R126, R127): one fixed choice per operand values. Log 27.
[log 27: DESIGN CHOICE, safe] -/
opaque keyTie : Bool → BitVec 32 → BitVec 32 → Bool

/-- What byte pos of a scratchpad allocation holds when it is handed to a block: the contents are not defined (R25); the
first number tells the allocations apart. Log 5.
[log 5: DESIGN CHOICE, safe] -/
opaque scratchByte : Nat → Nat → BitVec 8

/-- The 16-bit code of an event-log record that no fault code names (R419): 0 a firewall refusal, 1 a fencing, 2 a trip, 3 a bank
change, 4 a partition reset, 5 a CXL port that failed enumeration. Log 8.
[log 8: DESIGN CHOICE, safe] -/
opaque eventCode : Nat → BitVec 16

/-- The two words of an event-log record that hold its code, island and partition, in an order and at places left open (R419). Log 8.
[log 8: DESIGN CHOICE, safe] -/
opaque eventHead : BitVec 16 → Nat → Nat → BitVec 64 × BitVec 64

/-- Cycles of the reference count that pass at one step of the machine (timing is left open). Log 3. -/
opaque elapse : Nat → Nat

/-- What becomes uncorrectable at a step in a store that ECC protects, if anything (R339): a kind of store and two numbers. Log 31.
[log 31: DEDUCED, unsafe] -/
opaque upset : Nat → Option (Nat × Nat × Nat)

/-- What Muslin's firmware sets at a step, if anything: how many errors fence an island, and within how many cycles (R344). Log 62.
[log 62: DEDUCED, unsafe] -/
opaque firmwareFence : Nat → Option (Nat × Nat)

/-- The 48-byte measurement of a firmware bank (R413): the firmware image is not part of the machine. Log 16.
[log 16: DESIGN CHOICE, safe] -/
opaque measurement : Bool → BitVec 384

/-- Whether the image in a firmware bank verifies against the monitor's keys at the n-th check (R413, R420). Log 16.
[log 16: DESIGN CHOICE, safe] -/
opaque bankVerifies : Nat → Bool → Bool

/-- Whether a boot of a bank reaches READY at the n-th module reset (R420). Log 16.
[log 16: DESIGN CHOICE, safe] -/
opaque bootsReady : Nat → Bool → Bool

/-- What enumeration of CXL port p finds at the n-th module reset: SIZE, ERR and UP of CXL.PORTp (R424). Log 16.
[log 16: DESIGN CHOICE, safe] -/
opaque cxlPort : Nat → Nat → BitVec 64

end Sys2Proof.Config
end

