-- ==== Sys2Proof/Machine/Formats.lean ====
section
/-! DEFINITION. The number formats to the bit (R188-R206) and exact arithmetic on them: a finite value is a sign, a natural
significand and a binary exponent; every operation is exact and rounds once (R191). -/

namespace Sys2Proof.Machine

/-- A floating value: NaN, an infinity, or (-1)^neg · m · 2^e. -/
inductive FVal where
  | nan
  | inf (neg : Bool)
  | num (neg : Bool) (m : Nat) (e : Int)
  deriving DecidableEq, Repr

/-- Exponent and fraction width and bias of a format (R188). -/
structure Fmt where
  eb   : Nat
  mb   : Nat
  bias : Nat
  deriving DecidableEq, Repr

/-- The layout of a floating type (R188). -/
def fmt : Ty → Fmt
  | .f16 => ⟨5, 10, 15⟩
  | .bf16 => ⟨8, 7, 127⟩
  | .e5m2 => ⟨5, 2, 15⟩
  | .e4m3 => ⟨4, 3, 7⟩
  | .e3m2 => ⟨3, 2, 3⟩
  | .e2m3 => ⟨2, 3, 1⟩
  | .e2m1 => ⟨2, 1, 1⟩
  | _ => ⟨8, 23, 127⟩

/-- The bits of a format's code. -/
def Fmt.width (f : Fmt) : Nat := 1 + f.eb + f.mb

/-- Whether the format has infinities (R190). -/
def hasInf : Ty → Bool
  | .f32 | .f16 | .bf16 | .e5m2 => true
  | _ => false

/-- The magnitude of the largest finite code (R190). -/
def maxFinite (t : Ty) : Nat :=
  let f := fmt t
  if hasInf t then (2 ^ f.eb - 1) * 2 ^ f.mb - 1
  else if t == .e4m3 then 0x7E
  else 2 ^ (f.eb + f.mb) - 1

/-- The magnitude of the infinity's code. -/
def infCode (t : Ty) : Nat := (2 ^ (fmt t).eb - 1) * 2 ^ (fmt t).mb

/-- The canonical NaN (R131, R190); +0 for formats without NaN (R145). -/
def nanCode (t : Ty) : Nat :=
  if hasInf t then infCode t + 2 ^ ((fmt t).mb - 1)
  else if t == .e4m3 then 0x7F else 0

/-- The sign bit's weight. -/
def signBit (t : Ty) : Nat := 2 ^ ((fmt t).eb + (fmt t).mb)

/-- The code with a sign. -/
def signed (t : Ty) (neg : Bool) (mag : Nat) : Nat := (if neg then signBit t else 0) + mag

/-- The value of a code (R189, R190). Bits above the format's width are ignored. -/
def decodeF (t : Ty) (c : Nat) : FVal :=
  let f := fmt t
  let c := c % (2 * signBit t)
  let neg := signBit t ≤ c
  let mag := c % signBit t
  if hasInf t && infCode t == mag then .inf neg
  else if maxFinite t < mag then .nan
  else if mag / 2 ^ f.mb == 0 then .num neg mag (1 - f.bias - f.mb)
  else .num neg (2 ^ f.mb + mag % 2 ^ f.mb) ((mag / 2 ^ f.mb : Nat) - f.bias - f.mb)

/-- Whether a NaN code is signalling (R190). -/
def isSignalling (t : Ty) (c : Nat) : Bool :=
  decodeF t c == .nan && c / 2 ^ ((fmt t).mb - 1) % 2 == 0

/-- The ordered dither (R202). -/
def ditherTable : List (List Nat) :=
  [[0, 32, 8, 40, 2, 34, 10, 42], [48, 16, 56, 24, 50, 18, 58, 26], [12, 44, 4, 36, 14, 46, 6, 38],
   [60, 28, 52, 20, 62, 30, 54, 22], [3, 35, 11, 43, 1, 33, 9, 41], [51, 19, 59, 27, 49, 17, 57, 25],
   [15, 47, 7, 39, 13, 45, 5, 37], [63, 31, 55, 23, 61, 29, 53, 21]]

/-- D[row mod 8][col mod 8] (R202). -/
def dither (row col : Nat) : Nat := (ditherTable.getD (row % 8) []).getD (col % 8) 0

/-- Whether rounding goes to the larger magnitude: r is the discarded part in units of 2^s below one unit, odd the parity of
the lower magnitude's code, d the dither value (R191, R146). -/
def roundUp (rm : Rm) (neg odd : Bool) (r s d : Nat) : Bool :=
  match rm with
  | .rne => decide (2 ^ s < 2 * r) || (2 * r == 2 ^ s && odd && decide (0 < s))
  | .rz => false
  | .rdn => neg && r != 0
  | .rup => !neg && r != 0
  | .rna => decide (2 ^ s ≤ 2 * r) && decide (0 < s)
  | .rs => decide ((2 * d + 1) * 2 ^ s ≤ 128 * r)

/-- The magnitude code, unbounded above, of m · 2^e rounded to a format (R191); 0 < m. -/
def roundMag (t : Ty) (rm : Rm) (neg : Bool) (m : Nat) (e : Int) (d : Nat) : Nat :=
  let f := fmt t
  let emin : Int := 1 - f.bias
  let top : Int := e + (Nat.log2 m : Nat)
  let q : Int := (if top < emin then emin else top) - f.mb
  let s := (q - e).toNat
  let k := m * 2 ^ (e - q).toNat / 2 ^ s
  let r := m * 2 ^ (e - q).toNat % 2 ^ s
  let c := k + (q - (emin - f.mb)).toNat * 2 ^ f.mb
  if roundUp rm neg (c % 2 == 1) r s d then c + 1 else c

/-- The code of a finite overflow (R136, R145). -/
def overflowCode (t : Ty) (rm : Rm) (sat neg : Bool) : Nat :=
  if sat then signed t neg (maxFinite t)
  else if hasInf t then
    let toMax := match rm with
      | .rz => true
      | .rdn => !neg
      | .rup => neg
      | _ => false
    signed t neg (if toMax then maxFinite t else infCode t)
  else if t == .e4m3 then nanCode t
  else signed t neg (maxFinite t)

/-- The code of an infinity in a format (R145). -/
def infinityCode (t : Ty) (sat neg : Bool) : Nat :=
  if sat then signed t neg (maxFinite t)
  else if hasInf t then signed t neg (infCode t)
  else if t == .e4m3 then nanCode t
  else signed t neg (maxFinite t)

/-- A value rounded to a format (R191, R136, R145). d: the dither value of `.rs`. -/
def roundF (t : Ty) (rm : Rm) (sat : Bool) (d : Nat) (v : FVal) : Nat :=
  match v with
  | .nan => nanCode t
  | .inf neg => infinityCode t sat neg
  | .num neg m e =>
    if m == 0 then signed t neg 0
    else
      let c := roundMag t rm neg m e d
      if maxFinite t < c then overflowCode t rm sat neg else signed t neg c

/-- The value of RoundRNE into a type (R3). -/
def rne (t : Ty) (v : FVal) : Nat := roundF t .rne false 0 v

/-- Negation. -/
def FVal.neg : FVal → FVal
  | .nan => .nan
  | .inf s => .inf (!s)
  | .num s m e => .num (!s) m e

/-- The exact product (R131, R136): infinity times zero is NaN. -/
def FVal.mul : FVal → FVal → FVal
  | .nan, _ => .nan
  | _, .nan => .nan
  | .inf s, .inf u => .inf (s != u)
  | .inf s, .num u m _ => if m == 0 then .nan else .inf (s != u)
  | .num s m _, .inf u => if m == 0 then .nan else .inf (s != u)
  | .num s m e, .num u n f => .num (s != u) (m * n) (e + f)

/-- The exact value as an integer multiple of 2^e; e is at most the value's own exponent. -/
def scaled (e : Int) (neg : Bool) (m : Nat) (e' : Int) : Int :=
  let n : Int := (m * 2 ^ (e' - e).toNat : Nat)
  if neg then -n else n

/-- The exact sum of values (R131, R136): any NaN or opposite infinities give NaN; the sign of an exact zero sum is the
common sign of its zero terms, else + (- under `.rdn`). -/
def sumF (rm : Rm) (vs : List FVal) : FVal :=
  if vs.any (· == .nan) then .nan
  else if vs.any (· == .inf false) then (if vs.any (· == .inf true) then .nan else .inf false)
  else if vs.any (· == .inf true) then .inf true
  else
    let fs := vs.filterMap fun | .num s m e => some (s, m, e) | _ => none
    let lo := fs.foldl (fun (a : Int) x => if x.2.1 != 0 && x.2.2 < a then x.2.2 else a) 4096
    let n := fs.foldl (fun (a : Int) x => if x.2.1 == 0 then a else a + scaled lo x.1 x.2.1 x.2.2) 0
    if n == 0 then
      let s :=
        if fs.all (fun x => x.2.1 == 0 && x.1) then true
        else if fs.all (fun x => x.2.1 == 0 && !x.1) then false
        else rm == .rdn
      .num s 0 0
    else .num (decide (n < 0)) n.natAbs lo

/-- The value as a comparison key: finite values compare by value, zeros are equal. none for NaN. -/
def FVal.lt : FVal → FVal → Bool
  | .nan, _ => false
  | _, .nan => false
  | .inf a, .inf b => a && !b
  | .inf a, .num .. => a
  | .num .., .inf b => !b
  | .num s m e, .num u n f =>
    let lo := if e < f then e else f
    decide (scaled lo s m e < scaled lo u n f)

/-- Equality as values: -0 equals +0. -/
def FVal.eqv (a b : FVal) : Bool := a != .nan && b != .nan && !a.lt b && !b.lt a

/-- The integer square root by n rounds of bits. -/
def isqrtGo (x : Nat) : Nat → Nat → Nat
  | 0, r => r
  | i + 1, r => isqrtGo x i (if (r + 2 ^ i) * (r + 2 ^ i) ≤ x then r + 2 ^ i else r)

/-- The integer square root. -/
def isqrt (x : Nat) : Nat := isqrtGo x (Nat.log2 x / 2 + 1) 0

/-- A quotient's significand with a last bit that tells a remainder. -/
def sticky (q : Nat) (exact : Bool) : Nat := 2 * q + (if exact then 0 else 1)

/-- 1/v to at least 64 significant bits, the last telling a remainder; the specials of R143. -/
def recipF : FVal → FVal
  | .nan => .nan
  | .inf s => .num s 0 0
  | .num s m e =>
    if m == 0 then .inf s
    else
      let k := Nat.log2 m + 64
      .num s (sticky (2 ^ k / m) (2 ^ k % m == 0)) (-(k : Int) - e - 1)

/-- The square root to at least 60 significant bits (R143). -/
def sqrtF : FVal → FVal
  | .nan => .nan
  | .inf true => .nan
  | .inf false => .inf false
  | .num s m e =>
    if m == 0 then .num s 0 0
    else if s then .nan
    else
      let m1 := if e % 2 == 0 then m else 2 * m
      let e1 := if e % 2 == 0 then e else e - 1
      let x := m1 * 2 ^ 128
      let r := isqrt x
      .num false (sticky r (r * r == x)) (e1 / 2 - 64 - 1)

/-- 1/√v to at least 60 significant bits (R143). -/
def rsqrtF : FVal → FVal
  | .nan => .nan
  | .inf true => .nan
  | .inf false => .num false 0 0
  | .num s m e =>
    if m == 0 then .inf s
    else if s then .nan
    else
      let m1 := if e % 2 == 0 then m else 2 * m
      let e1 := if e % 2 == 0 then e else e - 1
      let k := 64 + Nat.log2 m1
      let r := isqrt (2 ^ (2 * k) / m1)
      .num false (sticky r (r * r * m1 == 2 ^ (2 * k))) (-(k : Int) - e1 / 2 - 1)

/-- v rounded to an integer: the exact integer (R139, R144). -/
def toIntF (rm : Rm) (neg : Bool) (m : Nat) (e : Int) : Int :=
  let n : Nat :=
    if 0 ≤ e then m * 2 ^ e.toNat
    else
      let s := (-e).toNat
      let k := m / 2 ^ s
      if roundUp rm neg (k % 2 == 1) (m % 2 ^ s) s 0 then k + 1 else k
  if neg then -(n : Int) else n

/-- FRND (R139). -/
def frndF (t : Ty) (rm : Rm) (c : Nat) : Nat :=
  match decodeF t c with
  | .nan => nanCode t
  | .inf s => signed t s (infCode t)
  | .num s m e =>
    if m == 0 then signed t s 0
    else roundF t .rne false 0 (.num s (toIntF rm s m e).natAbs 0)

/-- The one-hot class of FCLS (R139). -/
def fclsF (t : Ty) (c : Nat) : Nat :=
  let mag := c % signBit t
  match decodeF t c with
  | .nan => if isSignalling t c then 1 else 2
  | .inf s => if s then 4 else 512
  | .num s m _ =>
    if m == 0 then (if s then 32 else 64)
    else if mag / 2 ^ (fmt t).mb == 0 then (if s then 16 else 128)
    else (if s then 8 else 256)

/-- FMIN and FMAX (R137): minimumNumber and maximumNumber; -0 ranks below +0. -/
def fminmax (t : Ty) (mx : Bool) (a b : Nat) : Nat :=
  let va := decodeF t a
  let vb := decodeF t b
  let a := a % (2 * signBit t)
  let b := b % (2 * signBit t)
  if va == .nan then (if vb == .nan then nanCode t else b)
  else if vb == .nan then a
  else
    let less := va.lt vb || (va.eqv vb && signBit t ≤ a && b < signBit t)
    if less != mx then a else b

/-- The test of FCMP (R138). -/
def fcmpF (t : Ty) (cond : FCond) (u : Bool) (a b : Nat) : Bool :=
  let va := decodeF t a
  let vb := decodeF t b
  let un := va == .nan || vb == .nan
  match cond with
  | .num => !un
  | .nan => un
  | .eq => if un then u else va.eqv vb
  | .ne => if un then u else !va.eqv vb
  | .lt => if un then u else va.lt vb
  | .le => if un then u else !vb.lt va
  | .gt => if un then u else vb.lt va
  | .ge => if un then u else !va.lt vb

/-- The value of an E8M0 scale byte (R193); none for NaN. -/
def scaleE (s : Nat) : Option Int := if s == 0xFF then none else some ((s : Int) - 127)

/-- The rank of the key order (R126, R206). -/
def rank (t : Ty) (b : Nat) : Nat :=
  match t with
  | .n8 | .n16 | .n32 | .n64 => b
  | .s32 => (b + 2 ^ 31) % 2 ^ 32
  | .s64 => (b + 2 ^ 63) % 2 ^ 64
  | t =>
    let sb := signBit t
    let b := b % (2 * sb)
    if sb ≤ b then 2 * sb - 1 - b else b + sb

/-- Whether key (va, ia) ranks above (vb, ib), in max order or in min order (R126). -/
def above (t : Ty) (mx : Bool) (va ia vb ib : Nat) : Bool :=
  let u := rank t va
  let v := rank t vb
  (if mx then decide (v < u) else decide (u < v)) || (u == v && decide (ia < ib))

/-! ### Conversions -/

/-- An integer code of a type as an integer (R195 without declared precision, R144). -/
def intOf (t : Ty) (c : Nat) : Int :=
  let w := t.bits
  let c := c % 2 ^ w
  if t.isSigned && 2 ^ (w - 1) ≤ c then (c : Int) - 2 ^ w else c

/-- The least and greatest value of an integer type. -/
def intMin (t : Ty) : Int := if t.isSigned then -(2 ^ (t.bits - 1) : Nat) else 0
def intMax (t : Ty) : Int := if t.isSigned then (2 ^ (t.bits - 1) : Nat) - 1 else (2 ^ t.bits : Nat) - 1

/-- An integer cut to w bits. -/
def wrapInt (w : Nat) (v : Int) : Nat := (v % (2 ^ w : Nat)).toNat

/-- An integer clamped to a type. -/
def clampInt (t : Ty) (v : Int) : Int := if v < intMin t then intMin t else if intMax t < v then intMax t else v

/-- The bits the integer result of an integer source puts into its register or pair: 8- and 16-bit results extend to 32 bits (R144). -/
def intRegBits (t : Ty) (v : Int) : Nat :=
  let c := wrapInt t.bits v
  if t.bits < 32 then wrapInt 32 (intOf t c) else c

/-- An exact integer as a value. -/
def ofInt (v : Int) : FVal := .num (decide (v < 0)) v.natAbs 0

/-- CVT (R144, R145): the destination's register bits from the source's low bits; only the result of an integer source extends over the rest
of the register. d: the dither value. -/
def cvtBits (dt st : Ty) (rm : Rm) (sat : Bool) (d : Nat) (c : Nat) : Nat :=
  if st.isInt then
    let v := intOf st c
    if dt.isInt then intRegBits dt (if sat then clampInt dt v else v)
    else roundF dt rm sat d (ofInt v)
  else if dt.isInt then
    match decodeF st c with
    | .nan => 0
    | .inf s => wrapInt dt.bits (if s then intMin dt else intMax dt)
    | .num s m e => wrapInt dt.bits (clampInt dt (toIntF rm s m e))
  else roundF dt rm sat d (decodeF st c)

/-- The result type of a conversion is floating and may be approximate. -/
def cvtIsFloat (dt : Ty) : Bool := !dt.isInt

/-! ### Envelopes -/

/-- The free low fraction bits of a level and format (R315). -/
def freeBits (level : Nat) (t : Ty) : Nat :=
  let row := match t with
    | .f16 => [0, 1, 2, 3, 4, 6, 8, 10]
    | .bf16 => [0, 1, 1, 2, 3, 4, 5, 7]
    | _ => [0, 0, 1, 1, 1, 2, 2, 3]
  row.getD level 0

/-- Whether c lies in Envelope(L, t, r) (R316). -/
def inEnvelope (level : Nat) (t : Ty) (r c : Nat) : Bool :=
  match decodeF t r with
  | .nan => c == nanCode t
  | .inf _ => c == r
  | .num s m _ =>
    if m == 0 then c == r
    else if 8 ≤ level then c < 2 * signBit t
    else
      let dd := freeBits level t
      let same := c / 2 ^ dd == r / 2 ^ dd && !(t == .e4m3 && c % 0x80 == 0x7F)
      let sub := r % signBit t / 2 ^ (fmt t).mb == 0
      same || (sub && 1 ≤ level && c == signed t s 0)

/-- A member of Envelope(L, t, r): the free code if it is a member, else r itself (R316). Every member can come about. -/
def envelope (level : Nat) (t : Ty) (r free : Nat) : Nat :=
  let c := free % (2 * signBit t)
  if inEnvelope level t r c then c else r

/-- The level of a request under a calibration table (R308, R313). -/
def levelOf (avcal : DWord) (v : Nat) : Nat :=
  let vmin (l : Nat) : Nat := 450 + 5 * ((avcal >>> (8 * l)).toNat % 64)
  match (List.range 8).find? (fun l => decide (vmin l ≤ v)) with
  | some l => l
  | none => 8

/-- The low bits an approximate scratchpad read may lose (R318). -/
def lossBits (level : Nat) : Nat := [0, 0, 0, 1, 1, 2, 2, 3].getD level 8

end Sys2Proof.Machine
end

