-- ==== Sys2Proof/Machine/State.lean ====
section
/-! DEFINITION. The state of the MZ2-A96: everything the spec gives the machine, as plain data, and the state after
reset. Sparse tables (Tab) hold the many like units (cores, clusters, functions): a key that is not listed has the unit's
reset value. -/

namespace Sys2Proof.Machine

/-- A table with a default: pairs of key and value, the first pair of a key counts. -/
abbrev Tab (α : Type) := List (Nat × α)

/-- The value of key k, or the default d. -/
def Tab.get {α : Type} (t : Tab α) (d : α) (k : Nat) : α :=
  match t.find? (fun p => p.1 == k) with
  | some p => p.2
  | none => d

/-- The table with key k holding v. -/
def Tab.set {α : Type} (t : Tab α) (k : Nat) (v : α) : Tab α :=
  (k, v) :: t.filter (fun p => p.1 != k)

/-- Why a machine step faults: no step of this machine ends in a fault (every fault of the spec is taken by a thread,
R345, or completes a handle, R165). The constructor keeps the type inhabited. Safe: nothing raises it. -/
inductive Fault where
  /-- Raised by nothing. Safe. -/
  | none
  deriving DecidableEq, Repr

/-- Why a step is refused. -/
inductive Refusal where
  /-- Raised by an arm of exec that has no meaning yet. Safe: nothing is claimed of it. -/
  | notModelled (mnemonic : String)
  /-- Raised by exec of an instruction word when no thread is issuing (State.issue is empty or names no live thread). Safe: no
  thread stands at the instruction, and step never asks it. -/
  | noThread
  deriving DecidableEq, Repr

/-- What the core holds of one of a block's recent commands (R166): its status once complete; whether it released, and the lines
of global memory it wrote (R227, R293). -/
structure Stat where
  serial : Nat
  cmd    : Nat
  status : Option Byte
  rel    : Bool
  lines  : List Nat
  deriving DecidableEq, Repr

/-- A future handle (R16, R165). serial names the command; a complete one keeps what its end makes known (R185, R227). -/
inductive Handle where
  | idle
  | pending (serial : Nat) (cmd : Nat)
  | complete (status : Byte) (x : Stat)
  deriving DecidableEq, Repr

/-- Mode of a thread (R16). -/
inductive Mode where
  | normal
  | trap
  | demoted
  deriving DecidableEq, Repr

/-- Whether a thread lives (R40, R41). -/
inductive Life where
  | live
  | exited
  | killed
  deriving DecidableEq, Repr

/-- What a thread waits for (R45): running, or parked with the data its resumption needs. pc and slot already stand at the
instruction after the one that parked, except for handle, pairPartner and lnch, which issue again. -/
inductive Park where
  | running
  | bar
  | rjw (id : Nat) (expected : Word) (left : Nat)
  | awt (pd : PF) (owner : Nat) (pos : Nat) (gen : BitVec 14) (flag : Option Nat)
  | cwtVal (pd : PF) (h : Word) (target : Word) (acq : Bool) (sc : Scope)
  | cwtDone (pd : PF) (h : Word)
  | ckpt (arrived : Bool)
  | fence (ord : Ord) (sc : Scope) (committing : Bool)
  | sleep (left : Nat)
  | lnch
  | spill
  | handle (h : HF)
  | engineQueue (cmd : Nat)
  | pairPartner
  | commitWait
  deriving DecidableEq, Repr

/-- A stop ordinal with a repetition index, as fault records hold them (R74, R92). -/
structure Site where
  spo : BitVec 20
  k   : Nat
  deriving DecidableEq, Repr

/-- An asynchronous fault waiting for the thread's next issue (R247, R346). -/
structure AsyncFault where
  code : Byte
  addr : Addr
  last : Bool
  site : Site
  deriving DecidableEq, Repr

/-- An active repeat sequence (R70): n repetitions, k the next one, the four steps in registers. -/
structure Rpt where
  n  : Nat
  k  : Nat
  sd : Nat
  sa : Nat
  sb : Nat
  sc : Nat
  deriving DecidableEq, Repr

/-- The spin detector (R53-R55): the tracked backward branch, whether the current iteration was idle so far, the count of
idle iterations, the lines loaded in the iteration, the watched lines, and the cycle of the demotion. A line is a number:
space 0 for a global line (VA / 128), or 1 + bid and the scratchpad line. -/
structure Spin where
  branch  : Option (Addr × Addr)
  dirty   : Bool
  idle    : Nat
  loaded  : List (Nat × Nat)
  watched : List (Nat × Nat)
  since   : Nat
  deriving DecidableEq, Repr

/-- A register or predicate younger than its result distance (R47): what it held before and the first cycle at which it
must be read new. key: 0 to 255 a general register, 256 to 263 a predicate. -/
structure Early where
  key   : Nat
  old   : Reg
  ready : Nat
  deriving DecidableEq, Repr

/-- What a thread must read new (R286, R292, R227, R267, R268): every write of its own block numbered below floor, every write
of the listed threads (block, thread) numbered below the number beside them, and what the listed engine commands wrote. -/
structure Know where
  floor  : Nat
  writes : List (Nat × Nat × Nat)
  cmds   : List Nat
  deriving DecidableEq, Repr

/-- What an atomic of a thread read for a later FENCE.acq (R292): who released the word at which scope, and what that makes known. -/
structure Heard where
  bid  : Nat
  core : Nat
  sc   : Scope
  know : Know
  deriving DecidableEq, Repr

/-- A thread (R16). rehdr: the thread resumed in the middle of a clause and must read its header again (R71). leaving: a step of the debug agent found it at EXIT, which it may then issue (R361). askedAt: the cycle at which the stop, or the step, that asks it to halt took effect (R359, R361). -/
structure Thread where
  pc      : Addr
  slot    : Nat
  hdr     : DWord
  rehdr   : Bool
  rpt     : Option Rpt
  rptSaved : Option (Addr × Rpt)
  regs    : List Reg
  preds   : List PReg
  bufs    : List Rec
  tls     : Rec
  hands   : List Handle
  flags   : List Nat
  ret     : List DWord
  retSp   : Nat
  rej     : List (Nat × Word)
  rejSp   : Nat
  seq     : BitVec 16
  genX    : DWord
  genY    : DWord
  mode    : Mode
  saved   : Mode
  sts     : Byte
  spo     : BitVec 20
  xpc     : DWord
  xcause  : DWord
  xinfo   : DWord
  park    : Park
  life    : Life
  halted  : Bool
  haltReq : Bool
  inPlace : Bool
  leaving : Bool
  skid    : Nat
  askedAt : Nat
  fault   : Option AsyncFault
  spin    : Spin
  waitCnt : Nat
  last    : Nat
  early   : List Early
  seen    : List (Nat × Reg)
  nsig    : Nat
  know    : Know
  read    : List Heard
  fenced  : Option (Scope × Know)
  deriving DecidableEq, Repr

/-- What an entry of the store-buffer share does at its home (R287, R288, R254, R300). -/
inductive EKind where
  | store
  | red (op : AOp) (t : Ty)
  | ltag (a : Bool) (zero : Bool)
  | obj (add : Bool)
  deriving DecidableEq, Repr

/-- An entry of a share: one store, RED, LTAG or (deterministic) object write, in the order of entering; those of one line merge
when they are performed (R287). filled is false for the reserved place of a faulted store (R248); pa is then not known. merged: an
LTAG of the block to the line stood before it. wid orders it among the block's writes (R286). bad: the entry is poisoned (R339). team:
the threads, each with its block, of the instruction that made it (R360). -/
structure Entry where
  eid    : Nat
  tid    : Nat
  kind   : EKind
  va     : Nat
  bytes  : List Byte
  filled : Bool
  pa     : Nat
  merged : Bool
  appr   : Bool
  site   : Site
  addr   : Addr
  last   : Bool
  wid    : Nat
  sig    : Option Nat
  matched : Bool
  bad    : Bool
  team   : List (Nat × Nat)
  deriving DecidableEq, Repr

/-- What the memory unit does for one lane once its line is translated (R234, R249, R250, R254, R296-R301, R38, R155). home: an entry
that its commit has taken and that its home has not accepted yet (R383, R392, R400); waits: the commit is not performed before. -/
inductive MemK where
  | load (d : G) (t : Ty) (n : VCnt) (nl1 : Bool) (swap : Bool)
  | bget (kd : BF)
  | store (bytes : List Byte) (appr : Bool)
  | red (op : AOp) (t : Ty) (v : List Byte)
  | ltag (a : Bool)
  | atom (d : G) (op : AOp) (t : Ty) (v : Nat) (cmp : Nat) (ord : Ord) (sc : Scope)
  | acq (d : G) (sc : Scope)
  | rel (v : DWord) (add : Bool) (sc : Scope)
  | lnch (d : G)
  | spillRet (w : DWord)
  | spillRej (w : DWord)
  | refillRet
  | refillRej (then_ : Nat)
  | home (e : Entry) (waits : Bool)
  deriving DecidableEq, Repr

/-- A lane's access (R233, R242): what a replay needs. flag is the flag it counts on; space and owner tell where a points
(space 0: VA; 1: position in block owner's allocation); o and q are the lane's offset and position (R233). kept: bytes the load has
found already, with their addresses: what its thread's later accesses to them met (R285), or what the share held as a load of
another package's line was sent (R284). pkt: the packet whose lanes share its line access (R235), 0 once it
waited by itself. sig: the number of the signature its entry gives (R327). homed: its commit is performed, and what waits is its act at the home (R287).
team: the threads, each with its block, of the instruction (R360). -/
structure Acc where
  bid   : Nat
  tid   : Nat
  kind  : MemK
  space : Nat
  owner : Nat
  o     : Int
  q     : Nat
  a     : Nat
  n     : Nat
  lt    : TBit
  flag  : Option Nat
  site  : Site
  addr  : Addr
  last  : Bool
  word  : DWord
  img   : Rec
  eid   : Option Nat
  wid   : Nat
  pa    : Option Nat
  know  : Know
  pkt   : Nat
  sig   : Option Nat
  homed : Bool
  kept  : List (Nat × Byte)
  team  : List (Nat × Nat)
  deriving DecidableEq, Repr

/-- What runs when a commit has been performed at its scope (R287). -/
inductive Cont where
  | flag (tid : Nat) (f : Option Nat)
  | access (acc : Acc)
  | fence (tid : Nat) (acq : Bool)
  | csig (tid : Nat) (h : Word) (v : Word)
  | exit (tid : Nat)
  | store (acc : Acc)
  | save
  | ckpt
  deriving DecidableEq, Repr

/-- A commit in progress or queued (R288): set is E once it is taken. explicit tells a commit point in the program. -/
structure Commit where
  cid      : Nat
  scope    : Scope
  explicit : Bool
  set      : Option (List Nat)
  cont     : Cont
  deriving DecidableEq, Repr

/-- The signature of a collective's arrival (R62, R159). -/
inductive CSig where
  | rdv
  | shuffle (which : Nat) (wide : Bool)
  | ballot
  | any
  | all
  | red (ap : Bool) (t : Ty) (op : FoldOp)
  | scan (ap : Bool) (t : Ty) (op : FoldOp) (excl : Bool)
  | mat (wide : Bool)
  deriving DecidableEq, Repr

/-- An arrival at a collective (R62): the contribution and what the completion writes. -/
structure Arrival where
  seq   : BitVec 16
  lane  : Nat
  tid   : Nat
  sig   : CSig
  mask  : Word
  guard : Bool
  lo    : Reg
  hi    : Reg
  idx   : Nat
  d     : Nat
  ps    : PF
  flag  : Option Nat
  site  : Site
  addr  : Addr
  last  : Bool
  bad   : Bool
  oid   : Nat
  deriving DecidableEq, Repr

/-- A gang's rendezvous state (R57, R62). -/
structure Gang where
  arrival  : List Word
  gone     : List Word
  arrivals : List Arrival
  deriving DecidableEq, Repr

/-- The state a rollback or flush restores (R332, R341). mark: operations with a smaller number still write into it. -/
structure Image where
  threads : List Thread
  dither  : Nat
  volt    : Nat
  useVolt : Bool
  mark    : Nat
  gangs   : List Gang
  deriving DecidableEq, Repr

/-- Life of a block: on a core, stopping under a pre-emption (why 0: a save; 1: a flush), saved or flushed and waiting, waiting for a relaunch, or
counted and gone (R36, R342, R350). -/
inductive Phase where
  | resident
  | saving (why : Nat)
  | stopped (order : Nat)
  | relaunch (order : Nat)
  | ended (order : Nat)
  | gone
  deriving DecidableEq, Repr

/-- Who wrote a scratchpad byte: a thread of some block or an engine command (R185, R227, R286). -/
inductive Writer where
  | thread (bid tid : Nat)
  | engine (cmd : Nat)
  deriving DecidableEq, Repr

/-- A byte of the scratchpad overwritten: what it held, who overwrote it, and when (R185, R286). -/
structure Was where
  pos : Nat
  old : Byte
  by_ : Writer
  wid : Nat
  deriving DecidableEq, Repr

/-- A paired operation presented by one copy (R330): the thread, its instruction and operands, and the number of its command. -/
structure Offer where
  side : Bool
  tid  : Nat
  key  : List Nat
  cmd  : Nat
  deriving DecidableEq, Repr

/-- A signature held by the compare unit (R327, R328).
[log 23: DEDUCED, unsafe] -/
structure Sign where
  side : Bool
  tid  : Nat
  n    : Nat
  eid  : Nat
  key  : List Nat
  deriving DecidableEq, Repr

/-- An FWT whose command has not completed (R167). -/
structure Fwt where
  oid    : Nat
  tid    : Nat
  d      : G
  serial : Nat
  flag   : Option Nat
  deriving DecidableEq, Repr

/-- What a block is of its launch: the fields of the launch record a block keeps (R26). -/
structure Shape where
  nx    : Nat
  ny    : Nat
  nz    : Nat
  nthr  : Nat
  nregs : Nat
  pscr  : Nat
  ascr  : Nat
  sbuf  : Nat
  rjto  : Nat
  latb  : Nat
  det   : Bool
  idem  : Bool
  pair  : Bool
  tlsz  : Nat
  tlbase : Nat
  param : Rec
  code  : Addr
  deriving DecidableEq, Repr

/-- A block (R22-R25, R36). born numbers its placement (R49), since is the cycle of its dispatch (R349). errs: uncorrectable errors that wait for the commit in progress, each a code and an island (R355). noLoan: stopped by a reclaim, the block resumes on no borrowed cluster (R351). ncommit counts the commits of each thread's commit points in the program that have completed (R329). draining: the launch as whose victim it runs to its
end (R349, R381). clk: its core's cycle count when it left it (R120). -/
structure Block where
  bid     : Nat
  vf      : Nat
  launch  : Nat
  lin     : Nat
  shape   : Shape
  core    : Nat
  ridx    : Nat
  slots   : List Nat
  phase   : Phase
  killed  : Bool
  threads : List Thread
  scr     : Tab Byte
  scr0    : Nat
  hist    : List Was
  share   : List Entry
  handed  : List Entry
  commits : List Commit
  ncommit : Tab Nat
  gangs   : List Gang
  byCommit : Bool
  forced  : Bool
  blocked : Bool
  regStore : Bool
  regAvset : Bool
  regSysw : Bool
  regCmd  : Bool
  regCyc  : Nat
  image   : Image
  ckpt    : Image
  retries : Nat
  volt    : Nat
  level   : Nat
  rising  : Option (Nat × List (Nat × Nat × Option Nat))
  dither  : Nat
  serial  : Nat
  stats   : List Stat
  lqWritten : Bool
  lqSaved : Option (List DWord)
  rowsSaved : List (Nat × List Word)
  partner : Option Nat
  trailing : Bool
  sigs    : List Sign
  offers  : List Offer
  fwts    : List Fwt
  asts    : List Nat
  badScr  : List Nat
  errs    : List (Byte × Nat)
  noLoan  : Bool
  draining : Option Nat
  clk     : Nat
  born    : Nat
  since   : Nat
  exits   : Nat
  deriving DecidableEq, Repr

/-- A quarter (R50, R337). An entry of the replay queue: the block and thread whose results it checks. latchLead: who led its last packet, and
latchAt the reference cycle of that packet (R376). -/
structure Quarter where
  lead   : Option (Nat × Nat)
  tenure : Nat
  queue  : List (Nat × Nat)
  latchLead : Option (Nat × Nat)
  latchAt : Nat
  deriving DecidableEq, Repr

/-- A line held in a core's L1 (R292) or instruction cache (R75). -/
structure Line where
  vf   : Nat
  key  : Nat
  line : Nat
  ty   : TBit
  data : List Byte
  deriving DecidableEq, Repr

/-- The kinds of matrix command (R221). -/
inductive MCmdK where
  | mop
  | ald (t : Ty)
  | ast (t : Ty) (ai : Bool) (rm : Rm)
  | azr
  deriving DecidableEq, Repr

/-- A matrix command (R208, R221). tab: the LQ2 table as it stood at acceptance (R183); know: what its issuing thread had to read
new (R185); after: the commits its acquire waits for (R293). At its acceptance: par, its parameter block; range, the rows of its range; took, those of them that it took hold
of; refused, that status 0x42 was due (R217). started: the dither phase with which it converts, once the engine has started it (R203, R228). -/
structure MCmd where
  id     : Nat
  bid    : Nat
  tid    : Nat
  kind   : MCmdK
  e      : Eng
  img    : Rec
  off    : Int
  rows   : Word
  serial : Nat
  flag   : Option Nat
  site   : Site
  accepted : Bool
  tab    : List DWord
  know   : Know
  cancel : Bool
  after  : List Nat
  par    : Option (List Byte)
  range  : List Nat
  took   : List Nat
  refused : Bool
  started : Option Nat
  team   : List (Nat × Nat)
  deriving DecidableEq, Repr

/-- A core (R2, R50, R183, R207, R312). rows: the held accumulator rows, each with the block that holds it; badElems: the elements, row and
column, with an uncorrectable error (R219); icOld: what the instruction
cache held of lines it has fetched again, which a resident thread may still be given (R75). -/
structure Core where
  clk      : Nat
  quarters : Tab Quarter
  lqt      : Tab DWord
  rail     : Nat
  rows     : List (Nat × Nat × List Word)
  badElems : List (Nat × Nat)
  mq       : List MCmd
  l1       : List Line
  ic       : List Line
  icOld    : List Line
  throttled : Bool
  fenced   : Bool
  deriving DecidableEq, Repr

/-- One byte position a transfer touches: in global memory (a VA of the function) or in a block's scratchpad. -/
inductive Loc where
  | global (va : Nat)
  | scr (bid pos : Nat)
  deriving DecidableEq, Repr

/-- Where a copied byte comes from: a constant, a byte, or eight bits of bytes (plane layout, R182; none is a clamped byte). A byte is named by its
offset in the source record and its place (R180). -/
inductive Src where
  | pad (b : Byte)
  | byte (o : Int) (l : Loc)
  | bits (l : List (Option (Int × Loc) × Nat))
  deriving DecidableEq, Repr

/-- One destination line of a command (R262, R274). held: its translation failed and a record waits (R271). lost: bytes of it that a
higher lane of its packet has written (R276). -/
structure XLine where
  idx    : Nat
  moves  : List (Loc × Src)
  landed : Bool
  held   : Bool
  failed : Bool
  lost   : List Loc
  deriving DecidableEq, Repr

/-- The kinds of transfer command (R272, R275, R277). -/
inductive XK where
  | lin (ddisp sdisp : Nat) (n : Nat) (pw : Nat)
  | box (desc : Nat) (pw : Nat)
  | lane (dofs sofs : Int) (n : Nat)
  | rot (ofs : Int) (n : Nat) (mask : BitVec 4) (tag : BitVec 3)
  deriving DecidableEq, Repr

/-- A source byte a copy has read: its offset, its value, whether it came poisoned, and the type of its line (R180, R270, R339). -/
structure Got where
  off : Int
  val : Byte
  bad : Bool
  ty  : TBit
  deriving DecidableEq, Repr

/-- A transfer command (R269). pkt: the packet it was issued in (R276); twin: the trailing copy's command (R330). got: the source bytes it has
read (R180); paid: the tokens a rotation has taken (R281); bad: the status with which its
round is rejected (R279).
[log 42: DEDUCED, unsafe] -/
structure XCmd where
  id     : Nat
  bid    : Nat
  tid    : Nat
  kind   : XK
  e      : Eng
  drec   : Rec
  srec   : Rec
  aw     : Nat
  serial : Nat
  flag   : Option Nat
  site   : Site
  addr   : Addr
  accepted : Bool
  gen    : BitVec 14
  globalDst : Bool
  lines  : List XLine
  orphan : Bool
  poison : Bool
  cancel : Bool
  ended  : Option Byte
  after  : List Nat
  turn   : Bool
  know   : Know
  pkt    : Nat
  twin   : Option Nat
  got    : List Got
  paid   : Nat
  bad    : Option Byte
  team   : List (Nat × Nat)
  deriving DecidableEq, Repr

/-- A collective across packages (R408, R409): desc holds the descriptor's bytes as the engine read them; held: a translation
failed and a record waits (R411); ended: the status a reply of "fail" gives; twin: the trailing copy's command (R330); out: the bytes of the
result, once known, and whether every line of them has been written or sent. -/
structure CCmd where
  id     : Nat
  bid    : Nat
  tid    : Nat
  kind   : CKind
  op     : FoldOp
  t      : Ty
  e      : Eng
  desc   : List Byte
  serial : Nat
  site   : Site
  cancel : Bool
  held   : Bool
  ended  : Option Byte
  after  : List Nat
  twin   : Option Nat
  out    : Option (List Byte × Bool)
  deriving DecidableEq, Repr

/-- A watchpoint that matched, or a BKPT (wp 15, kind 6): its number, the kind of access, and the issuer (R358, R360, R373); bkn: a
BKPT's number.
[log 82: DEDUCED, unsafe] -/
structure Hit where
  wp   : Nat
  kind : Nat
  iblk : Nat
  ictr : Word
  ispo : BitVec 20
  core : Nat
  ret  : Bool
  bkn  : BitVec 26
  deriving DecidableEq, Repr

/-- A gang of a block as it stands on a core: the core, the block's resident index, its slot (R360). -/
structure GangAt where
  bid  : Nat
  gang : Nat
  core : Nat
  ridx : Nat
  slot : Nat
  deriving DecidableEq, Repr

/-- The transfer engine's queue and the debug registers of a cluster (R269, R358-R373). present: the gangs that had a
thread that had not exited at the match (R360); listed: the gangs that the entries of the record stand for; loan: the function it is lent to
(R384). -/
structure Cluster where
  wpa    : Tab DWord
  wpc    : Tab DWord
  bken   : Bool
  stop   : Bool
  recorded : Bool
  iblk   : Word
  nhit   : Nat
  ngang  : Nat
  wp     : BitVec 4
  kind   : BitVec 3
  retd   : Bool
  ictr   : Word
  ispo   : BitVec 20
  icore  : BitVec 9
  bkn    : BitVec 26
  gangs  : Tab DWord
  stepReg : DWord
  stepping : Option (Nat × Nat)
  stepRes : BitVec 2
  shsel  : DWord
  shdata : DWord
  shst   : DWord
  killReg : DWord
  clown  : DWord
  fenced : Bool
  hits   : List Hit
  present : List GangAt
  listed : List GangAt
  loan   : Option Nat
  deriving DecidableEq, Repr

/-- A compute die (R374, R382, R383). tsNext: the reference count at its next latch. -/
structure Die where
  reg    : DWord
  fw     : DWord
  tsRing : DWord
  tsHead : BitVec 31
  tsLost : Bool
  tsTail : Word
  counts : Tab Nat
  tsNext : Nat
  pool   : Nat
  fenced : Bool
  deriving DecidableEq, Repr

/-- A cached translation (R241). -/
structure Tlb where
  va   : Nat
  size : Nat
  pa   : Nat
  w    : Bool
  x    : Bool
  own  : Nat
  deriving DecidableEq, Repr

/-- A fault record the device holds or has written (R243-R245): the granule, cause, and the 32 bytes. -/
structure FRec where
  seq   : Word
  page  : Nat
  cause : Nat
  kind  : Nat
  lanes : Word
  spo   : Word
  where_ : Word
  launch : Word
  written : Bool
  answered : Bool
  deriving DecidableEq, Repr

/-- A read of the dispatcher or a completion-word write that waits for a reply (R426), or a thread that waits at an LNCH for a launch
counter (R34, R38): the address of the LNCH; op: the operand-log entry of one whose read had page-faulted. -/
inductive DRead where
  | jobRec (job : Nat)
  | phase (phase : Nat)
  | graph (graph : Nat)
  | node (graph node : Nat)
  | donew (job : Nat)
  | lnch (bid tid : Nat) (pc : Addr) (op : Option Nat)
  deriving DecidableEq, Repr

/-- What waits attached to a fault record (R242, R271, R244, R426); place: an access that waits without one (R248, R396). -/
inductive Waiter where
  | access (op : Nat)
  | place
  | line (cmd idx : Nat) (write : Bool)
  | fetch (bid tid : Nat)
  | disp (r : DRead) (va : Nat)
  deriving DecidableEq, Repr

/-- An entry of the operand log or another waiter, attached to record seq of its function (R242). replay: answered with
retry, not replayed yet. bad: poisoned (R339). -/
structure OpEntry where
  id     : Nat
  vf     : Nat
  seq    : Word
  core   : Nat
  acc    : Option Acc
  waiter : Waiter
  replay : Bool
  bad    : Bool
  deriving DecidableEq, Repr

/-- A virtual function's registers and queues (R404). armed: CMD 2 has been written and the execution state has not come; moved: where
the pages went of which forwarding has ended (R393, R400). qosIn: the scheduling parameters in force on each die (R380). -/
structure Vf where
  acc     : Word
  badw    : Bool
  ovf     : Bool
  ptroot  : DWord
  busy    : Bool
  inval   : List (Option Addr)
  tlb     : List Tlb
  fqbase  : DWord
  fqhead  : Word
  fqtail  : Word
  frecs   : List FRec
  flbase  : DWord
  flhead  : BitVec 31
  fllost  : Bool
  fltail  : Word
  xvec    : DWord
  wdog    : Nat
  pairctl : DWord
  bindt   : DWord
  xbkt    : DWord
  tok     : Tab Nat
  debt    : Tab Nat
  qos     : DWord
  part    : DWord
  migctl  : DWord
  isr     : BitVec 4
  irqs    : Nat
  dmkexp  : DWord
  pin     : DWord
  age     : Tab Nat
  qosIn   : Tab DWord
  armed   : Bool
  moved   : Option (BitVec 12)
  deriving DecidableEq, Repr, Inhabited

/-- State of a completion counter (R32). -/
inductive CState where
  | running
  | done
  | cancelled
  deriving DecidableEq, Repr

/-- Levels of a counter (R33). -/
inductive Level where
  | launch
  | graph
  | phase
  | job
  deriving DecidableEq, Repr

/-- A completion counter (R32, R33). -/
structure Counter where
  vf     : Nat
  level  : Level
  num    : Nat
  value  : Word
  left   : Nat
  state  : CState
  cancel : Bool
  parent : Option (Level × Nat)
  counted : Bool
  deriving DecidableEq, Repr

/-- A launch that has started (R26, R32, R352, R387). obj is its own number; job for its tag. -/
structure Launch where
  obj    : Nat
  vf     : Nat
  ctr    : Nat
  graph  : Nat
  node   : Option Nat
  shape  : Shape
  next   : Nat
  turn   : Nat
  wdog   : Nat
  count  : Nat
  slack  : Nat
  retry  : Nat
  pin    : DWord
  born   : Nat
  runSum : Nat
  runCnt : Nat
  deriving DecidableEq, Repr

/-- State of a graph's node (R27, R35). -/
inductive NState where
  | waiting
  | due
  | started (launch : Nat)
  | done
  | cancelled
  deriving DecidableEq, Repr

/-- A graph that is due or has started (R27). -/
structure Graph where
  obj   : Nat
  vf    : Nat
  ctr   : Option Nat
  phase : Nat
  va    : Nat
  nodes : List (Nat × DWord × NState)
  deriving DecidableEq, Repr

/-- A phase of a job (R28, R35). -/
structure PhaseObj where
  obj  : Nat
  vf   : Nat
  ctr  : Nat
  job  : Nat
  idx  : Nat
  ngr  : Nat
  deriving DecidableEq, Repr

/-- A job accepted by VF.SUBMIT (R28-R31): where its record stands, its fields once read; donew is none while or when the record
gives no address for a completion word. -/
structure Job where
  obj    : Nat
  vf     : Nat
  va     : Nat
  active : Bool
  ctr    : Option Nat
  tag    : Word
  donew  : Option Nat
  phases : Nat
  nph    : Nat
  invalid : Bool
  ended  : Bool
  deriving DecidableEq, Repr

/-- A level that is due: a node of a graph, a graph of a phase, or a launch that an LNCH waits to attach, in the order in which they
became due; since is that cycle (R34). -/
structure Due where
  id    : Nat
  vf    : Nat
  what  : DRead
  held  : Bool
  since : Nat
  deriving DecidableEq, Repr

/-- What a long-latency operation writes when it completes (R46, R48). know, read: what an acquire, or an atomic before a FENCE,
makes known. -/
inductive PendK where
  | regs (ws : List (Nat × Reg)) (know : Know) (read : List Heard)
  | load (d : G) (t : Ty) (n : VCnt) (ty : TBit) (bytes : List Byte) (acc : Acc)
  | bget (kd : BF) (ty : TBit) (bytes : List Byte)
  | lnch (d : G) (va : Nat) (bytes : List Byte)
  | nothing
  | bind (vf o base len act : Nat)
  | retIn (w : DWord)
  | rejIn (w : DWord) (then_ : Nat)
  | spilled
  deriving DecidableEq, Repr

/-- A long-latency operation that has been performed and not completed (R46). acc: the memory access it came from. -/
structure Pend where
  id   : Nat
  bid  : Nat
  tid  : Nat
  flag : Option Nat
  kind : PendK
  site : Site
  addr : Addr
  last : Bool
  acc  : Option Acc
  deriving DecidableEq, Repr

/-- A message this package has sent over Damask and whose response it awaits (R406): the waiting access or page. -/
inductive Await where
  | access (op : Nat)
  | pull (vf : Nat) (va : Nat)
  | line (cmd idx : Nat) (write : Bool)
  deriving DecidableEq, Repr

/-- One record of the event log (R419). -/
structure EvRec where
  time   : DWord
  code   : BitVec 16
  island : Nat
  part   : Nat
  detail : List DWord
  deriving DecidableEq, Repr

/-- A mailbox: call, argument and result registers (R415). -/
structure Mailbox where
  call : DWord
  arg  : DWord
  res  : List DWord
  deriving DecidableEq, Repr

/-- A packet waiting at an arbiter (R386): who sent it, its port and its age.
[log 86: DESIGN CHOICE, unsafe] -/
structure Packet where
  vf   : Option Nat
  port : Nat
  age  : Nat
  deriving DecidableEq, Repr

/-- A request sent to another package whose response is awaited (R406). -/
structure Awaited where
  tag  : BitVec 16
  peer : BitVec 12
  what : Await
  deriving DecidableEq, Repr

/-- A release that an acquire of the same word can observe (R286, R290, R292, R267, R268): the word (space 0: PA; 1 + block: a
scratchpad position), who released at which scope and core, whether the word is a sync object, and what the releasing party
makes known. -/
structure Release where
  space : Nat
  a     : Nat
  bid   : Nat
  core  : Nat
  sc    : Scope
  obj   : Bool
  know  : Know
  deriving DecidableEq, Repr

/-- The execution state of a function as migration carries it (R394, R395): what moves with it. ids: numbers from here on are not
used in it. -/
structure ExecState where
  vf       : Nat
  blocks   : List Block
  counters : List Counter
  launches : List Launch
  graphs   : List Graph
  phases   : List PhaseObj
  jobs     : List Job
  due      : List Due
  oplog    : List OpEntry
  xq       : List XCmd
  binds    : List (Nat × Nat × Nat)
  regs     : Vf
  ids      : Nat
  deriving DecidableEq, Repr, Inhabited

/-- A leaf found by the walker (R239, R240). -/
structure Leaf where
  pa   : Nat
  size : Nat
  w    : Bool
  x    : Bool
  own  : Nat
  deriving DecidableEq, Repr

/-- What the one access of a packet to a line has met, for the lanes that share it (R235): the translation of a line of the VA, or its
cause; whether the L1's copy of a physical line stood; whether a write (its number) to a byte was seen. -/
structure Memo where
  leaves : List (Nat × Option Leaf × Nat)
  copies : List (Nat × Bool)
  seen   : List (Nat × Nat × Bool)
  deriving DecidableEq, Repr

/-- A pull of a page that this package serves (R397): the function, the VA, the level, who asks and its tag. -/
structure Pull where
  vf    : Nat
  va    : Addr
  level : Nat
  from_ : BitVec 12
  tag   : BitVec 16
  deriving DecidableEq, Repr

/-- The whole machine. pulls: the pages being transferred (R396); reads: lines that another package has answered the dispatcher with, for the
read that asked, by their place in the VA (R402, R426); crew: the threads of the packet that issues (R51); fenceAt, fenceIn: the
errors of an island that fence it, and the reference cycles in which they must come (R344). -/
structure State where
  mem      : List Host.Cell
  tags     : List Nat
  poisoned : List Nat
  cores    : Tab Core
  clusters : Tab Cluster
  dies     : Tab Die
  vfs      : Tab Vf
  blocks   : List Block
  counters : List Counter
  launches : List Launch
  graphs   : List Graph
  phases   : List PhaseObj
  jobs     : List Job
  due      : List Due
  pend     : List Pend
  rels     : List Release
  oplog    : List OpEntry
  xq       : List XCmd
  ccols    : List CCmd
  windows  : Tab (Option (Nat × Nat))
  awaits   : List Awaited
  pulls    : List Pull
  reads    : List (DRead × Nat × List Byte)
  sent     : List Msg
  inbox    : List ExecState
  outbox   : List ExecState
  cut      : List (BitVec 12)
  cxl      : Tab DWord
  monHost  : Mailbox
  monM1    : Mailbox
  fwBox    : Mailbox
  injCtl   : DWord
  injSeed  : DWord
  injCount : Nat
  injX     : DWord
  injY     : DWord
  bankSel  : Bool
  bankRun  : Bool
  bootFails : Nat
  resets   : Nat
  ready    : Bool
  bringup  : Nat
  partup   : BitVec 8
  tripped  : List Nat
  evlog    : List EvRec
  islErr   : List (Nat × Nat)
  islFence : List Nat
  islThrottle : List Nat
  fenceAt  : Nat
  fenceIn  : Nat
  tsCtl    : DWord
  refClk   : Nat
  avcal    : DWord
  pkg      : BitVec 12
  arbiter  : List Packet
  issue    : List (Nat × Nat)
  packets  : Nat
  crew     : List (Nat × Nat)
  pktFaults : List (Nat × Word)
  memo     : Option Memo
  agenda   : List Instr
  free     : Nat
  ids      : Nat
  deriving DecidableEq, Repr

/-! ### Reset values -/

/-- Nothing known. -/
def Know.none : Know := { floor := 0, writes := [], cmds := [] }

/-- A core after reset (R94, R183, R216, R312). -/
def Core.reset : Core :=
  { clk := 0, quarters := [], lqt := [], rail := 750, rows := [], badElems := [], mq := [], l1 := [], ic := [], icOld := [], throttled := false,
    fenced := false }

/-- A quarter after reset: no lead, no entry (R50, R337). -/
def Quarter.reset : Quarter := { lead := none, tenure := 0, queue := [], latchLead := none, latchAt := 0 }

/-- A cluster after reset (R358-R373, R384). -/
def Cluster.reset : Cluster :=
  { wpa := [], wpc := [], bken := false, stop := false, recorded := false, iblk := 0, nhit := 0, ngang := 0, wp := 15#4,
    kind := 0, retd := false, ictr := 0, ispo := 0xFFFFF#20, icore := 0, bkn := 0, gangs := [], stepReg := 0,
    stepping := none, stepRes := 0, shsel := 0, shdata := 0, shst := 0, killReg := 0, clown := 0x100#64, fenced := false, hits := [],
    present := [], listed := [], loan := none }

/-- A die after reset (R374, R382, R383). -/
def Die.reset : Die :=
  { reg := 0, fw := 0xFF#64, tsRing := 0, tsHead := 0, tsLost := false, tsTail := 0, counts := [], tsNext := 0,
    pool := 0, fenced := false }

/-- A function after reset (the reset columns of R30, R238, R245, R281, R302, R333, R345, R347, R352, R380, R393,
R405, R407). -/
def Vf.reset : Vf :=
  { acc := 0, badw := false, ovf := false, ptroot := 0, busy := false, inval := [], tlb := [], fqbase := 0, fqhead := 0,
    fqtail := 0, frecs := [], flbase := 0, flhead := 0, fllost := false, fltail := 0, xvec := 0, wdog := 32,
    pairctl := 0x3100#64, bindt := 0, xbkt := 0x0000400000000000#64, tok := [], debt := [], qos := 1, part := 0,
    migctl := 0, isr := 0, irqs := 0, dmkexp := 0, pin := 0, age := [], qosIn := [], armed := false, moved := none }

/-- A mailbox after reset (R415). -/
def Mailbox.reset : Mailbox := { call := 0, arg := 0, res := List.replicate 8 0 }

/-- The machine right after module bring-up (R423): no job, no block, memory lists nothing.
[log 6: DESIGN CHOICE, unsafe] [log 7: DESIGN CHOICE, unsafe] -/
def State.reset : State :=
  { mem := [], tags := [], poisoned := [], cores := [], clusters := [], dies := [], vfs := [], blocks := [],
    counters := [], launches := [], graphs := [], phases := [], jobs := [], due := [], pend := [], rels := [], oplog := [], xq := [],
    ccols := [], windows := [], awaits := [], pulls := [], reads := [], sent := [], inbox := [], outbox := [], cut := [], cxl := [], monHost := Mailbox.reset,
    monM1 := Mailbox.reset, fwBox := Mailbox.reset, injCtl := 0, injSeed := 0, injCount := 0,
    injX := 0, injY := 0, bankSel := false, bankRun := false, bootFails := 0, resets := 0, ready := true, bringup := 6,
    partup := 1, tripped := [], evlog := [], islErr := [], islFence := [], islThrottle := [], fenceAt := 2, fenceIn := 60 * 2700000000, tsCtl := 0x1000#64,
    refClk := 0, avcal := 0x060E161D232A323C#64, pkg := 0, arbiter := [], issue := [], packets := 0, crew := [], pktFaults := [], memo := none, agenda := [],
    free := 0, ids := 0 }

/-! ### The canonical form of memory -/

/-- What an unlisted byte of memory reads as (log 4).
[log 4: DESIGN CHOICE, unsafe] -/
def unlisted : Byte := 0

/-- The canonical form: addresses strictly rising, no entry equal to what an unlisted address reads as. -/
def Memory.wf : List Host.Cell → Bool
  | [] => true
  | [c] => c.2 != unlisted
  | c :: d :: m => c.2 != unlisted && decide (c.1 < d.1) && Memory.wf (d :: m)

end Sys2Proof.Machine
end

