-- ==== Sys2Proof/Machine/Ops.lean ====
section
/-! DEFINITION. The named operations over units, registers and memory, taking an exception (R345, R346) and returning from
one (R173), and the faults, kills and logs they share. -/

namespace Sys2Proof.Machine

/-! ### Units -/

/-- A core's state. -/
def State.core (s : State) (c : Nat) : Core := s.cores.get Core.reset c
def State.setCore (s : State) (c : Nat) (v : Core) : State := { s with cores := s.cores.set c v }
def State.modCore (s : State) (c : Nat) (f : Core → Core) : State := s.setCore c (f (s.core c))
/-- A cluster's state, by its package number 12·die + cluster (R384). -/
def State.cluster (s : State) (c : Nat) : Cluster := s.clusters.get Cluster.reset c
def State.setCluster (s : State) (c : Nat) (v : Cluster) : State := { s with clusters := s.clusters.set c v }
def State.modCluster (s : State) (c : Nat) (f : Cluster → Cluster) : State := s.setCluster c (f (s.cluster c))
/-- A die's state. -/
def State.die (s : State) (d : Nat) : Die := s.dies.get Die.reset d
def State.setDie (s : State) (d : Nat) (v : Die) : State := { s with dies := s.dies.set d v }
def State.modDie (s : State) (d : Nat) (f : Die → Die) : State := s.setDie d (f (s.die d))
/-- A function's registers. -/
def State.vf (s : State) (f : Nat) : Vf := s.vfs.get Vf.reset f
def State.setVf (s : State) (f : Nat) (v : Vf) : State := { s with vfs := s.vfs.set f v }
def State.modVf (s : State) (f : Nat) (g : Vf → Vf) : State := s.setVf f (g (s.vf f))

/-- The cluster of a core, by package number, and its die (R94). -/
def clusterOf (core : Nat) : Nat := core / 4
def dieOf (core : Nat) : Nat := core / 48

/-- The core cycle counter of a core (R94): the reference count and the core's own cycles beyond it (log 3).
[log 3: DESIGN CHOICE, unsafe] -/
def State.clkOf (s : State) (core : Nat) : Nat := s.refClk + (s.core core).clk

/-! ### Free values and numbers -/

/-- The next free value as a number below n (0 when n is 0), and the state with it used (log 8).
[log 8: DESIGN CHOICE, safe] -/
def State.pick (s : State) (n : Nat) : Nat × State :=
  ((Config.freeWord s.free).toNat % n, { s with free := s.free + 1 })

/-- A free choice between two. -/
def State.coin (s : State) : Bool × State := ((Config.freeWord s.free).getLsbD 0, { s with free := s.free + 1 })

/-- A fresh number for an operation, a command, an entry or a block. -/
def State.newId (s : State) : Nat × State := (s.ids, { s with ids := s.ids + 1 })

/-! ### Blocks and threads -/

def State.block? (s : State) (bid : Nat) : Option Block := s.blocks.find? (fun b => b.bid == bid)
def State.setBlock (s : State) (b : Block) : State :=
  { s with blocks := s.blocks.map (fun x => if x.bid == b.bid then b else x) }
def State.modBlock (s : State) (bid : Nat) (f : Block → Block) : State :=
  { s with blocks := s.blocks.map (fun x => if x.bid == bid then f x else x) }
def Block.thread? (b : Block) (tid : Nat) : Option Thread := b.threads[tid]?
def Block.setThread (b : Block) (tid : Nat) (t : Thread) : Block := { b with threads := b.threads.set tid t }
def Block.modThread (b : Block) (tid : Nat) (f : Thread → Thread) : Block :=
  { b with threads := b.threads.modify tid f }
def State.thread? (s : State) (bid tid : Nat) : Option Thread :=
  match s.block? bid with
  | some b => b.thread? tid
  | none => none
def State.setThread (s : State) (bid tid : Nat) (t : Thread) : State := s.modBlock bid (fun b => b.setThread tid t)
def State.modThread (s : State) (bid tid : Nat) (f : Thread → Thread) : State := s.modBlock bid (fun b => b.modThread tid f)

/-- Changes a thread, and the thread of the region-start image when the operation was issued before the image was taken
(R341).
[log 59: DEDUCED, unsafe] -/
def State.modBoth (s : State) (bid tid oid : Nat) (f : Thread → Thread) : State :=
  s.modBlock bid fun b =>
    let b := b.modThread tid f
    let b := if oid < b.image.mark then { b with image := { b.image with threads := b.image.threads.modify tid f } } else b
    if oid < b.ckpt.mark then { b with ckpt := { b.ckpt with threads := b.ckpt.threads.modify tid f } } else b

/-- A thread that is issuing: its block, its index and itself. -/
structure Cur where
  b   : Block
  tid : Nat
  t   : Thread

/-- The thread at the head of the packet being issued, when it is live. -/
def State.cur (s : State) : Option Cur :=
  match s.issue with
  | [] => none
  | (bid, tid) :: _ =>
    match s.block? bid with
    | none => none
    | some b =>
      match b.thread? tid with
      | none => none
      | some t => if t.life == .live then some { b := b, tid := tid, t := t } else none

def Block.resident (b : Block) : Bool :=
  match b.phase with
  | .resident => true
  | .saving _ => true
  | _ => false

/-- The gang, lane and quarter of a thread (R17). -/
def gangOf (tid : Nat) : Nat := tid / 32
def laneOf (tid : Nat) : Nat := tid % 32
def quarterOf (tid : Nat) : Nat := tid / 32 % 4

/-- The block's coordinates from its linear index (R17, R39). -/
def Block.bx (b : Block) : Nat := b.lin % b.shape.nx
def Block.by (b : Block) : Nat := b.lin / b.shape.nx % b.shape.ny
def Block.bz (b : Block) : Nat := b.lin / b.shape.nx / b.shape.ny
def Shape.nblk (p : Shape) : Nat := p.nx * p.ny * p.nz
/-- The global thread id (R17). -/
def Block.gid (b : Block) (tid : Nat) : Nat := b.lin * b.shape.nthr + tid
/-- Bytes of the allocation, precise and in all (R25). -/
def Block.pbytes (b : Block) : Nat := b.shape.pscr * 128
def Block.abytes (b : Block) : Nat := (b.shape.pscr + b.shape.ascr) * 128

/-! ### Registers (R16, R77, R107) -/

/-- A general register as the instruction reads it: gz reads 0; a register younger than its result distance may be seen
old (R47). -/
def Thread.reg (t : Thread) (g : G) : Reg :=
  if g == 0xFF#8 then ⟨0, .P⟩
  else
    match t.seen.find? (fun p => p.1 == g.toNat) with
    | some p => p.2
    | none => t.regs.getD g.toNat ⟨0, .P⟩

/-- What a key's register or predicate held before its last writes is forgotten: a later read sees the value it holds (R47, R48). -/
def Thread.forget (t : Thread) (key : Nat) : Thread := { t with early := t.early.filter (fun e => e.key != key) }

/-- A write of a general register; gz discards it. -/
def Thread.setReg (t : Thread) (g : G) (r : Reg) : Thread :=
  if g == 0xFF#8 then t else { t.forget g.toNat with regs := t.regs.set g.toNat r }

def Thread.val (t : Thread) (g : G) : Word := (t.reg g).val
def Thread.nat (t : Thread) (g : G) : Nat := (t.reg g).val.toNat

/-- The register k after g of a range; a range from gz stays at gz (R107). -/
def next (g : G) (k : Nat) : G := if g == 0xFF#8 then g else g + BitVec.ofNat 8 k

/-- A pair as one 64-bit value (R107). -/
def Thread.pair (t : Thread) (g : G) : DWord := joinPair (t.val g) (t.val (next g 1))

/-- A write of a pair, both halves P-typed (R107). -/
def Thread.setPair (t : Thread) (g : G) (v : DWord) : Thread :=
  (t.setReg g ⟨lowWord v, .P⟩).setReg (next g 1) ⟨highWord v, .P⟩

/-- A predicate; p7 reads true, P-typed. -/
def Thread.pred (t : Thread) (p : PF) : PReg :=
  if p == 7#3 then ⟨true, .P⟩
  else
    match t.seen.find? (fun q => q.1 == 256 + p.toNat) with
    | some q => ⟨q.2.val != 0, q.2.ty⟩
    | none => t.preds.getD p.toNat ⟨false, .P⟩

/-- A write of a predicate; p7 discards it. -/
def Thread.setPred (t : Thread) (p : PF) (r : PReg) : Thread :=
  if p == 7#3 then t else { t.forget (256 + p.toNat) with preds := t.preds.set p.toNat r }

/-- The thread did something that makes its spin detector's iteration a working one, and that promotes it when it is demoted: a store,
an atomic that changed memory, a changing write of a register (R53, R55). -/
def Thread.worked (t : Thread) : Thread :=
  { t with mode := if t.mode == .demoted then .normal else t.mode, spin := { t.spin with dirty := true, idle := 0 } }

/-- The thread t, which was old before an operation wrote its results: a write that changed a register or predicate counts (R53, R55). -/
def Thread.noteChange (old t : Thread) : Thread := if old.regs == t.regs && old.preds == t.preds then t else t.worked

/-- A buffer record. -/
def Thread.buf (t : Thread) (k : BF) : Rec := t.bufs.getD k.toNat 0
def Thread.setBuf (t : Thread) (k : BF) (r : Rec) : Thread := { t with bufs := t.bufs.set k.toNat r }

/-- A handle. -/
def Thread.hand (t : Thread) (h : HF) : Handle := t.hands.getD h.toNat .idle
def Thread.setHand (t : Thread) (h : HF) (v : Handle) : Thread := { t with hands := t.hands.set h.toNat v }

/-- Whether n registers from g exist for the thread: gz does, and a range below `.regs` (R78, R107). -/
def Thread.has (t : Thread) (u : G × Nat) : Bool := u.1 == 0xFF#8 || decide (u.1.toNat + u.2 ≤ t.regs.length)

/-- Whether one of n registers from g is A-typed. -/
def Thread.tainted (t : Thread) (u : G × Nat) : Bool :=
  (List.range u.2).any (fun k => (t.reg (next u.1 k)).ty == .A)

/-- The guard's value (R5). -/
def Thread.guard (t : Thread) (k : Ctl) : Bool := (t.pred k.pg).val != k.pn

/-! ### Flags of the clause (R46) -/

/-- The header the thread's clause has. -/
def Thread.header (t : Thread) : Header := Header.unpack t.hdr

/-- The flag a long-latency operation of the thread's present slot counts on. -/
def Thread.flagOf (t : Thread) : Option Nat :=
  let h := t.header
  let f := if h.setb == 15#4 then h.seta else if t.slot ≤ 3 then h.seta else h.setb
  if f == 15#4 then none else some f.toNat

def Thread.addFlag (t : Thread) (f : Option Nat) : Thread :=
  match f with
  | none => t
  | some f => { t with flags := t.flags.modify f (· + 1) }

def Thread.endFlag (t : Thread) (f : Option Nat) : Thread :=
  match f with
  | none => t
  | some f => { t with flags := t.flags.modify f (· - 1) }

/-- The site of the thread's present instruction: the clause's ordinal and the repetition (R74, R92). -/
def Thread.site (t : Thread) : Site :=
  { spo := t.header.spo, k := match t.rpt with | some r => r.k | none => 0 }

/-- Whether the present slot is the clause's last (R71). -/
def Thread.lastSlot (t : Thread) : Bool := decide (t.header.cnt.toNat + 1 ≤ t.slot)

/-! ### Bytes -/

/-- The n low bytes of a number, least significant first (R71, R192). -/
def bytesOf : Nat → Nat → List Byte
  | 0, _ => []
  | n + 1, v => BitVec.ofNat 8 v :: bytesOf n (v / 256)

/-- The number little-endian bytes spell. -/
def ofBytes : List Byte → Nat
  | [] => 0
  | b :: bs => b.toNat + 256 * ofBytes bs

/-! ### Physical memory -/

/-- One byte of physical memory. -/
def readByte (m : List Host.Cell) (a : Nat) : Byte :=
  match m.find? (fun c => c.1 == a) with
  | some c => c.2
  | none => unlisted

/-- Memory with byte a holding v, in canonical form. -/
def writeByte : List Host.Cell → Nat → Byte → List Host.Cell
  | [], a, v => if v == unlisted then [] else [(a, v)]
  | c :: m, a, v =>
    if a < c.1 then (if v == unlisted then c :: m else (a, v) :: c :: m)
    else if a == c.1 then (if v == unlisted then m else (a, v) :: m)
    else c :: writeByte m a v

/-- n bytes from a. -/
def readBytes (m : List Host.Cell) (a n : Nat) : List Byte := (List.range n).map (fun i => readByte m (a + i))

/-- Memory with the bytes written from a. -/
def writeBytes : List Host.Cell → Nat → List Byte → List Host.Cell
  | m, _, [] => m
  | m, a, b :: bs => writeBytes (writeByte m a b) (a + 1) bs

def State.readMem (s : State) (a n : Nat) : List Byte := readBytes s.mem a n
def State.writeMem (s : State) (a : Nat) (bs : List Byte) : State := { s with mem := writeBytes s.mem a bs }

/-- What a physical address selects (R402). HBM stack k is at 64 GiB times k and belongs to die k / 2 (log 9). -/
inductive Target where
  | hbm (die : Nat)
  | tier2
  | cxl (port : Nat)
  | host
  | damask (pkg win ofs : Nat)
  | none
  deriving DecidableEq, Repr

/-- The target of a physical address (R402, R424). -/
def State.target (s : State) (pa : Nat) : Target :=
  match pa / 2 ^ 50 % 4 with
  | 0 =>
    if pa < 2 ^ 40 then .hbm (pa / 2 ^ 37)
    else if 2 ^ 44 ≤ pa && pa ≤ 0x013B9AC9FFFFF then .tier2 else .none
  | 1 =>
    let p := pa / 2 ^ 48 % 4
    let r := s.cxl.get 0 p
    if r.getLsbD 0 && pa % 2 ^ 48 < (r >>> 8).toNat % 2 ^ 24 * 2 ^ 30 then .cxl p else .none
  | 2 => .host
  | _ => .damask (pa / 2 ^ 38 % 2 ^ 12) (pa / 2 ^ 32 % 64) (pa % 2 ^ 32)

/-- Whether a line has tag storage (R236). -/
def Target.tagged : Target → Bool
  | .hbm _ => true
  | .tier2 => true
  | _ => false

/-- The tag of the line that holds a physical byte (R236).
[log 4: DESIGN CHOICE, unsafe] -/
def State.tag (s : State) (pa : Nat) : TBit := if s.tags.contains (pa / 128) then .A else .P

/-- A line's tag set (R254). -/
def State.setTag (s : State) (pa : Nat) (a : Bool) : State :=
  let l := s.tags.filter (· != pa / 128)
  { s with tags := if a then pa / 128 :: l else l }

/-! ### Event log, interrupts, fault log -/

/-- One event-log record; the oldest leaves a full log (R419). What the 40 bytes of detail hold is left open: free values (log 8).
[log 8: DESIGN CHOICE, safe] -/
def State.event (s : State) (code : Nat) (island part : Nat) : State :=
  let r : EvRec :=
    { time := BitVec.ofNat 64 (s.refClk * 10 / 27), code := BitVec.ofNat 16 code, island := island, part := part,
      detail := (List.range 5).map (fun i => Config.freeWord (s.free + i)) }
  { s with evlog := (s.evlog ++ [r]).drop (s.evlog.length + 1 - 65536), free := s.free + 5 }

/-- A bit of VF.ISR set; the vector is signalled when the register changes from zero (R405). -/
def State.irq (s : State) (f : Nat) (bit : BitVec 4) : State :=
  s.modVf f fun v => { v with isr := v.isr ||| bit, irqs := if v.isr == 0 then v.irqs + 1 else v.irqs }

/-- Records a ring of 2^LOG2N holds (R245, R347). -/
def ringSize (base : DWord) : Nat := 2 ^ ((base >>> 4).toNat % 16)
def ringBase (base : DWord) : Nat := (base.toNat / 4096 % 2 ^ 40) * 4096

/-- The launch of a block, and its job's tag (R28, R348). -/
def State.launch? (s : State) (l : Nat) : Option Launch := s.launches.find? (fun x => x.obj == l)

/-- The handle a counter number spells at a level (R33). -/
def Level.code : Level → Nat
  | .launch => 0 | .graph => 1 | .phase => 2 | .job => 3
def handleOf (l : Level) (n : Nat) : Word := BitVec.ofNat 32 (l.code * 2 ^ 30 + n)

def State.counter? (s : State) (vf : Nat) (l : Level) (n : Nat) : Option Counter :=
  s.counters.find? (fun c => c.vf == vf && c.level == l && c.num == n)
def State.modCounter (s : State) (vf : Nat) (l : Level) (n : Nat) (f : Counter → Counter) : State :=
  { s with counters := s.counters.map fun c => if c.vf == vf && c.level == l && c.num == n then f c else c }

/-- The job a launch belongs to. -/
def State.jobOf (s : State) (l : Launch) : Option Job :=
  match s.graphs.find? (fun g => g.obj == l.graph) with
  | none => none
  | some g =>
    match s.phases.find? (fun p => p.obj == g.phase) with
    | none => none
    | some p => s.jobs.find? (fun j => j.obj == p.job)

/-- The tag of a launch's job (R28). -/
def State.tagOf (s : State) (launch : Nat) : Word :=
  match s.launch? launch with
  | none => 0
  | some l => match s.jobOf l with | some j => j.tag | none => 0

/-- The launch handle of a block (R33). -/
def State.launchHandle (s : State) (launch : Nat) : Word :=
  match s.launch? launch with
  | some l => handleOf .launch l.ctr
  | none => 0

/-- SPO of a fault record: the ordinal and the repetition (R244). -/
def Site.word (x : Site) : Word := BitVec.ofNat 32 (x.spo.toNat + x.k % 64 * 2 ^ 20)

/-- WHERE of a fault record (R244). -/
def whereWord (core quarter ridx : Nat) : Word := BitVec.ofNat 32 (core + quarter * 512 + ridx % 32 * 2048)

/-- A fault-log record (R347, R348): written when the ring has room, else dropped with LOST. -/
def State.logFault (s : State) (f : Nat) (code outcome : Nat) (spo where_ launch tag : Word) (island : Nat)
    (info : DWord) : State :=
  let v := s.vf f
  let n := ringSize v.flbase
  let full := (v.fltail.toNat + 2 ^ 31 - v.flhead.toNat) % 2 ^ 31 == n % 2 ^ 31
  if v.flbase.getLsbD 0 && !full then
    let bs := bytesOf 1 code ++ bytesOf 1 outcome ++ bytesOf 2 0 ++ bytesOf 4 spo.toNat ++ bytesOf 4 where_.toNat
      ++ bytesOf 4 launch.toNat ++ bytesOf 4 tag.toNat ++ bytesOf 4 island ++ bytesOf 8 info.toNat
    let s := s.writeMem (ringBase v.flbase + 32 * (v.fltail.toNat % n)) bs
    (s.setVf f { v with fltail := v.fltail + 1 }).irq f 4#4
  else s.setVf f { v with fllost := true }

/-- The fault-log record of a block's thread. -/
def State.logBlock (s : State) (b : Block) (code outcome : Nat) (spo : Word) (tid : Nat) (island : Nat)
    (info : DWord) : State :=
  let s := s.logFault b.vf code outcome spo (whereWord b.core (quarterOf tid) b.ridx) (s.launchHandle b.launch)
    (s.tagOf b.launch) island info
  if 0x90 ≤ code && code ≤ 0x95 then s.event code island ((s.die (dieOf b.core)).reg.toNat % 8) else s

/-! ### Futures (R165, R166) -/

/-- What FWT reads of a command that ended (R167): its status in a register; with status 0 of a command that released, its bytes
(R227, R293). -/
def Thread.futureRead (t : Thread) (d : G) (x : Stat) : Thread :=
  let st := x.status.getD 0
  let t := Thread.noteChange t (t.setReg d ⟨st.setWidth 32, .P⟩)
  if st == 0 && x.rel then { t with know := { t.know with cmds := x.cmd :: t.know.cmds } } else t

/-- A command of a block completes with a status: every handle that names it, the held status, and the FWTs waiting on it;
threads parked on the handle wake (R165, R167). rel: the command released; lines: the lines of global memory it wrote, which
leave the core's L1 when an FWT reads status 0 (R293). -/
def State.completeCmd (s : State) (bid serial cmd : Nat) (status : Nat) (rel : Bool) (lines : List Nat) : State :=
  let st := BitVec.ofNat 8 status
  let x : Stat := { serial := serial, cmd := cmd, status := some st, rel := rel, lines := lines }
  let upd (t : Thread) : Thread :=
    let pend (h : Handle) : Bool := match h with | .pending n _ => n == serial | _ => false
    let hs := t.hands.map fun h => if pend h then .complete st x else h
    let park := match t.park with
      | .handle h => if pend (t.hand h) then .running else t.park
      | p => p
    { t with hands := hs, park := park }
  match s.block? bid with
  | none => s
  | some b =>
    let ws := b.fwts.filter (fun w => w.serial == serial)
    let fire (mark : Option Nat) (l : List Thread) : List Thread :=
      ws.foldl (fun l w =>
        if (match mark with | some m => decide (w.oid < m) | none => true) then
          l.modify w.tid (fun t => (t.futureRead w.d x).endFlag w.flag)
        else l) (l.map upd)
    let b' := { b with
      threads := fire none b.threads
      image := { b.image with threads := fire (some b.image.mark) b.image.threads }
      ckpt := { b.ckpt with threads := fire (some b.ckpt.mark) b.ckpt.threads }
      fwts := b.fwts.filter (fun w => w.serial != serial)
      stats := b.stats.map fun y => if y.serial == serial then x else y }
    let s := s.setBlock b'
    if status == 0 && !ws.isEmpty then
      s.modCore b.core fun c => { c with l1 := c.l1.filter (fun l => !(l.vf == b.vf && lines.contains l.key)) }
    else s

/-! ### Lists in order -/

/-- An element put before the first one it may stand before. -/
def insertBy {α : Type} (le : α → α → Bool) (x : α) : List α → List α
  | [] => [x]
  | y :: ys => if le x y then x :: y :: ys else y :: insertBy le x ys

/-- A list in the order le. -/
def sortBy {α : Type} (le : α → α → Bool) (l : List α) : List α := l.foldr (insertBy le) []

/-! ### Kills (R41-R43) -/

/-- The bit of a lane. -/
def laneBit (l : Nat) : Word := BitVec.ofNat 32 (2 ^ (l % 32))

/-- A thread leaves its gang's rejoin regions: its bit is set in the gone mask of all 16 ids (R59). Its arrivals at collectives
leave with it, but for those that took fault 0x30 (R63, R64). -/
def Block.leaveGang (b : Block) (tid : Nat) : Block :=
  { b with gangs := b.gangs.modify (gangOf tid) fun g =>
      { g with gone := g.gone.map (· ||| laneBit (laneOf tid)), arrivals := g.arrivals.filter (fun a => a.tid != tid || a.bad) } }

/-- Mask and tag of a rotation (R277). -/
def XK.ring : XK → Option (BitVec 4 × BitVec 3)
  | .rot _ _ m t => some (m, t)
  | _ => none

/-- The core of a command's block. -/
def State.coreOf (s : State) (bid : Nat) : Nat := match s.block? bid with | some b => b.core | none => 0

/-- The launch of a command's block. -/
def State.launchOf (s : State) (bid : Nat) : Nat := match s.block? bid with | some b => b.launch | none => 0

/-- The accepted rotations of a ring, of one launch and cluster, on one core in acceptance order (R278). -/
def State.ringOn (s : State) (launch cl core : Nat) (m : BitVec 4) (t : BitVec 3) : List XCmd :=
  s.xq.filter fun x => x.accepted && x.ended.isNone && x.kind.ring == some (m, t) && s.launchOf x.bid == launch
    && clusterOf (s.coreOf x.bid) == cl && s.coreOf x.bid % 4 == core

/-- The members of the round an accepted rotation belongs to, as far as they are present (R278). -/
def State.roundOf (s : State) (c : XCmd) : List XCmd :=
  match c.kind.ring with
  | none => []
  | some (m, t) =>
    let l := s.launchOf c.bid
    let cl := clusterOf (s.coreOf c.bid)
    let k := ((s.ringOn l cl (s.coreOf c.bid % 4) m t).findIdx? (fun x => x.id == c.id)).getD 0
    (List.range 4).filterMap fun i => if m.getLsbD i then (s.ringOn l cl i m t)[k]? else none

/-- A command ends: it leaves its queue and completes with a status (R165). -/
def State.endXfer (s : State) (c : XCmd) (status : Nat) (lines : List Nat) : State :=
  ({ s with xq := s.xq.filter (fun x => x.id != c.id) } : State).completeCmd c.bid c.serial c.id status c.e.rel lines

/-- The whole round of an accepted rotation ends cancelled (R279). -/
def State.cancelRound (s : State) (c : XCmd) : State := (s.roundOf c).foldl (fun s x => s.endXfer x 2 []) s

/-- The rounds of a block's accepted rotations numbered from mark on, which have not run, end cancelled (R279). -/
def State.cancelRounds (s : State) (bid mark : Nat) : State :=
  let mine (c : XCmd) : Bool := c.bid == bid && c.accepted && c.ended.isNone && c.kind.ring.isSome && decide (mark ≤ c.id)
  (s.xq.filter mine).foldl (fun s c => if s.xq.any (fun x => x.id == c.id) then s.cancelRound c else s) s

/-- A matrix command leaves its queue before the engine starts it: the rows it took at its acceptance are free again, but for those that
another accepted command of its block names, which holds them now (R217, R228). -/
def Core.giveBack (k : Core) (m : MCmd) : Core :=
  let mq := k.mq.filter (fun x => x.id != m.id)
  let names (x : MCmd) (r : Nat) : Bool := x.bid == m.bid && x.accepted && x.range.contains r
  let gone := m.took.filter (fun r => !mq.any (fun x => names x r))
  { k with
    rows := k.rows.filter (fun x => !gone.contains x.1)
    mq := mq.map fun x => { x with took := x.took ++ m.took.filter (names x) } }

/-- Matrix commands of a block that the engine has not started, numbered from mark on, end cancelled (R42, R228). -/
def State.cancelMatrix (s : State) (bid mark : Nat) : State :=
  match s.block? bid with
  | none => s
  | some b =>
    let gone := (s.core b.core).mq.filter (fun c => c.bid == bid && c.started.isNone && decide (mark ≤ c.id))
    gone.foldl (fun s c => (s.modCore b.core (·.giveBack c)).completeCmd bid c.serial c.id 2 false []) s

/-- A block's accumulator rows are zeroed and freed (R216). -/
def State.freeRows (s : State) (core bid : Nat) : State :=
  s.modCore core fun k =>
    let mine (r : Nat) : Bool := k.rows.any (fun x => x.1 == r && x.2.1 == bid)
    { k with rows := k.rows.filter (fun x => x.2.1 != bid), badElems := k.badElems.filter (fun e => !mine e.1) }

/-- Whether the matrix engine holds a command of a block. -/
def State.matrixBusy (s : State) (b : Block) : Bool := (s.core b.core).mq.any (fun m => m.bid == b.bid)

/-- Engine commands of a block, numbered from mark on, that have not started end cancelled, rotations with their rounds; started ones run
on (R42, R279). A deterministic block's copy into global memory has not started before the block's turn (R387, R392). -/
def State.cancelWaiting (s : State) (bid mark : Nat) : State :=
  let det : Bool := match s.block? bid with | some b => b.shape.det | none => false
  let mine (c : XCmd) : Bool := c.bid == bid && (!c.accepted || (det && c.globalDst && !c.turn)) && decide (mark ≤ c.id)
  let gone := s.xq.filter mine
  let s := { s with xq := s.xq.filter (fun c => !mine c) }
  let s := gone.foldl (fun s c => s.completeCmd bid c.serial c.id 2 false []) s
  (s.cancelRounds bid mark).cancelMatrix bid mark

/-- A level's counter is marked cancelled (R42, R43). -/
def State.cancelLaunch (s : State) (l : Nat) : State :=
  match s.launch? l with
  | none => s
  | some x => s.modCounter x.vf .launch x.ctr fun c => if c.state == .running then { c with cancel := true } else c

/-- Whether an operand-log entry or waiter of a block is dropped with it: not an entry of a commit in progress (R44). -/
def OpEntry.ofBlock (o : OpEntry) (bid : Nat) : Bool :=
  match o.acc with
  | some a => a.bid == bid && (match a.kind with | .home .. => false | _ => true)
  | none =>
    match o.waiter with
    | .fetch x _ => x == bid
    | _ => false

/-- The entries a commit in progress performs whatever happens to its block (R44): its set E; in a paired block, once all of it has
matched (R329, R335). -/
def Block.committing (b : Block) : List Nat :=
  match b.commits with
  | c :: _ =>
    (match c.set with
     | some e =>
       if b.partner.isSome && (b.trailing || b.share.any (fun x => e.contains x.eid && !x.matched)) then [] else e
     | none => [])
  | [] => []

/-- Whether an entry of a block that its commit, or the ticket unit in its turn, has taken still waits for its home. -/
def State.homeWaits (s : State) (bid : Nat) : Bool :=
  s.oplog.any fun o => match o.acc with
    | some a => a.bid == bid && (match a.kind with | .home .. => true | _ => false)
    | none => false

/-- A block stops for good (R42): its threads stop, its uncommitted entries are dropped unless a commit is in progress (R44), its
operand-log entries are dropped (R256), its waiting commands are cancelled, its accumulator rows are freed once no matrix command of it runs
(R216, R228). Nothing follows the commit in progress.
[log 58: DEDUCED, unsafe] -/
def State.stopOne (s : State) (bid : Nat) : State :=
  match s.block? bid with
  | none => s
  | some b =>
    if b.phase == .gone then s
    else
      let keep := b.committing
      let ended : Phase := match b.phase with
        | .stopped o => .ended o
        | .relaunch o => .ended o
        | .saving _ => .resident
        | p => p
      let b' := { b with
        killed := true
        phase := ended
        threads := b.threads.map fun t => if t.life == .live then { t with life := .killed, park := .running } else t
        share := b.share.filter (fun e => keep.contains e.eid)
        handed := if s.homeWaits bid then b.handed else []
        sigs := []
        offers := []
        fwts := []
        errs := []
        exits := 0
        commits := (b.commits.take (if keep.isEmpty then 0 else 1)).map (fun c => { c with cont := .save }) }
      let s := s.setBlock b'
      let s := { s with
        pend := s.pend.filter (fun p => p.bid != bid)
        oplog := s.oplog.filter (fun o => !o.ofBlock bid)
        issue := s.issue.filter (fun p => p.1 != bid) }
      let s := s.cancelWaiting bid 0
      if b.resident && !s.matrixBusy b then s.freeRows b.core bid else s

/-- A block is killed (R42): it stops, and its launch will complete cancelled. -/
def State.killOne (s : State) (bid : Nat) : State :=
  match s.block? bid with
  | none => s
  | some b => if b.phase == .gone then s else (s.cancelLaunch b.launch).stopOne bid

/-- A kill of either copy of a paired block kills both (R335). -/
def State.killBlock (s : State) (bid : Nat) : State :=
  match s.block? bid with
  | none => s
  | some b =>
    let s := s.killOne bid
    match b.partner with
    | some p => s.killOne p
    | none => s

/-- A launch is killed: every block of it (R42). -/
def State.killLaunch (s : State) (l : Nat) : State :=
  let bs := (s.blocks.filter (fun b => b.launch == l && b.phase != .gone)).map (fun b => b.bid)
  bs.foldl State.killOne (s.cancelLaunch l)

/-! ### Taking an exception and returning (R345, R346, R171-R173) -/

/-- The mode code of THR.XPC (R171). -/
def Mode.code : Mode → Nat
  | .demoted => 1
  | _ => 0

/-- THR.XPC of a resume point (R171). -/
def xpcOf (m : Mode) (slot : Nat) (pc : Addr) : DWord :=
  BitVec.ofNat 64 ((if slot == 0 then 2 ^ 63 else 0) + m.code * 2 ^ 61 + slot % 8 * 2 ^ 57 + pc.toNat)

/-- THR.XCAUSE (R171). -/
def xcauseOf (code : Nat) (x : Site) : DWord := BitVec.ofNat 64 (x.k % 64 * 2 ^ 28 + x.spo.toNat * 256 + code)

/-- THR.XINFO of a fault (R346). -/
def xinfoOf (last async : Bool) (addr : Addr) : DWord :=
  BitVec.ofNat 64 ((if last then 2 ^ 63 else 0) + (if async then 2 ^ 62 else 0) + addr.toNat)

/-- A spin detector with nothing tracked (R53, R56). -/
def Spin.reset : Spin := { branch := none, dirty := false, idle := 0, loaded := [], watched := [], since := 0 }

/-- The handler's address of a function (R345). -/
def handlerOf (xvec : DWord) : Addr := (xvec &&& 0x01FFFFFFFFFFFFF8#64).setWidth 57

/-- The thread inside its function's handler: XPC, XCAUSE and XINFO written, trap mode, pc at the handler (R345, R56).
[log 12: DEDUCED, unsafe] -/
def Thread.enterTrap (t : Thread) (xvec : DWord) (xpc xcause xinfo : DWord) : Thread :=
  { t with
    xpc := xpc, xcause := xcause, xinfo := xinfo
    saved := t.mode, mode := .trap, spin := { Spin.reset with since := t.spin.since }
    rptSaved := match t.rpt with | some r => some (t.pc, r) | none => none
    rpt := none, pc := handlerOf xvec, slot := 0, park := .running, seen := [] }

/-- Takes fault `code` (R345): into the handler when VF.XVEC.EN is set and the thread is not in trap mode, else the block is
killed and the fault logged. xpc, info: what THR.XPC and THR.XINFO receive. -/
def State.takeFault (s : State) (b : Block) (tid : Nat) (t : Thread) (code : Nat) (x : Site) (xpc info : DWord) : State :=
  let xvec := (s.vf b.vf).xvec
  if xvec.getLsbD 0 && t.mode != .trap then
    s.setThread b.bid tid (t.enterTrap xvec xpc (xcauseOf code x) info)
  else
    (s.killBlock b.bid).logBlock b code 2 x.word tid 0 info


/-- The asynchronous fault that waits in a thread (R346): THR.XPC names the next instruction. -/
def State.asyncFault (s : State) (b : Block) (tid : Nat) (t : Thread) (f : AsyncFault) : State :=
  let t := { t with fault := none }
  (({ s with issue := s.issue.tail } : State).setThread b.bid tid t).takeFault b tid t f.code.toNat f.site (xpcOf t.mode t.slot t.pc) (xinfoOf f.last true f.addr)

/-- A thread leaves trap mode at its THR.XPC (R173).
[log 12: DEDUCED, unsafe] -/
def Thread.leaveTrap (t : Thread) : Thread :=
  let x := t.xpc.toNat
  let pc : Addr := t.xpc.setWidth 57
  let h := x / 2 ^ 63 == 1
  { t with
    mode := if x / 2 ^ 61 % 4 == 1 then .demoted else .normal
    rehdr := true
    pc := pc, slot := if h then 0 else x / 2 ^ 57 % 8
    rpt := match t.rptSaved with | some (a, r) => if a == pc && !h then some r else none | none => none
    rptSaved := none }

/-! ### Ending an issue -/

/-- Writes the held fault records of a function into its ring while there is room (R245). -/
def flushRing (vf : Nat) : Nat → State → State
  | 0, s => s
  | n + 1, s =>
    let v := s.vf vf
    match v.frecs.find? (fun r => !r.written) with
    | none => s
    | some r =>
      if v.fqbase.getLsbD 0 && (v.fqtail - v.fqhead).toNat != ringSize v.fqbase then
        let bs := bytesOf 8 r.page ++ bytesOf 4 r.seq.toNat ++ bytesOf 4 r.lanes.toNat ++ bytesOf 4 r.spo.toNat
          ++ bytesOf 4 r.where_.toNat ++ bytesOf 4 r.launch.toNat ++ bytesOf 1 r.kind ++ bytesOf 1 r.cause ++ bytesOf 2 0
        let s := s.writeMem (ringBase v.fqbase + 32 * (r.seq.toNat % ringSize v.fqbase)) bs
        let s := s.setVf vf { v with
          fqtail := v.fqtail + 1
          frecs := v.frecs.map fun q => if q.seq == r.seq then { q with written := true } else q }
        flushRing vf n (s.irq vf 2#4)
      else s

/-- After the last member of a packet, the packet's fault records are written (R243). -/
def State.endPacket (s : State) : State :=
  if s.issue.isEmpty then
    (s.pktFaults.map (fun p => p.1)).foldl (fun s v => flushRing v 64 s) { s with pktFaults := [], memo := none }
  else s

/-- The head of the packet has issued: the next member follows. -/
def State.popIssue (s : State) : State := ({ s with issue := s.issue.tail } : State).endPacket

/-- The synchronous fault of the present instruction (R346): THR.XPC names it, and the thread issues nothing more in this
packet.
[log 11: DEDUCED, unsafe] -/
def State.syncFault (s : State) (b : Block) (tid : Nat) (t : Thread) (code : Nat) : State :=
  (({ s with issue := s.issue.tail } : State).takeFault b tid t code t.site (xpcOf t.mode t.slot t.pc)
    (xinfoOf t.lastSlot false t.pc)).endPacket

/-- The code line that holds an address, as the instruction cache of a block's core holds it for the launch (R75). -/
def State.codeLine (s : State) (b : Block) (va : Addr) : Option Line :=
  (s.core b.core).ic.find? (fun l => l.vf == b.vf && l.key == b.launch && l.line == va.toNat / 128)

/-- A word of code as the instruction cache of a block's core holds it for the launch (R75). -/
def State.codeWord (s : State) (b : Block) (va : Addr) : Option DWord :=
  match s.codeLine b va with
  | none => none
  | some l => some (BitVec.ofNat 64 (ofBytes ((l.data.drop (va.toNat % 128)).take 8)))

/-- Whether the code line that holds an address is an A line (R75). -/
def State.codeA (s : State) (b : Block) (va : Addr) : Bool :=
  match s.codeLine b va with
  | none => false
  | some l => l.ty == .A

/-- The stop ordinal of the thread's present slot: the clause's ordinal plus the stop sites before it (R74). -/
def State.ordinal (s : State) (b : Block) (t : Thread) : BitVec 20 :=
  let before := (List.range (t.slot - 1)).filter fun j =>
    match s.codeWord b (t.pc - BitVec.ofNat 57 (8 * (t.slot - 1 - j))) with
    | some w => w.getLsbD 54
    | none => false
  t.header.spo + BitVec.ofNat 20 before.length

/-- The next slot, repetition or clause (R70, R71). -/
def Thread.advance (t : Thread) : Thread :=
  match t.rpt with
  | some r =>
    if r.k + 1 < r.n then { t with rpt := some { r with k := r.k + 1 } }
    else { t with rpt := none, pc := t.pc + 8, slot := if t.lastSlot then 0 else t.slot + 1 }
  | none => { t with pc := t.pc + 8, slot := if t.lastSlot then 0 else t.slot + 1 }

/-- What a register or predicate written by an instruction of result distance rd > 1 held before it (R47).
[log 10: DEDUCED, safe] -/
def earlyOf (old new : Thread) (rd clk : Nat) : List Early :=
  if rd ≤ 1 then []
  else
    ((List.range new.regs.length).filterMap fun i =>
      if old.regs[i]? == new.regs[i]? then none
      else some { key := i, old := old.regs.getD i ⟨0, .P⟩, ready := clk + rd })
    ++ ((List.range 7).filterMap fun i =>
      if old.preds[i]? == new.preds[i]? then none
      else
        let p := old.preds.getD i ⟨false, .P⟩
        some { key := 256 + i, old := ⟨if p.val then 1 else 0, p.ty⟩, ready := clk + rd })

/-- The thread after it retired an instruction (R53, R55, R56, R367): old is the thread before it. -/
def Thread.retired (old t : Thread) (sp : Bool) (ord : BitVec 20) (rd clk : Nat) : Thread :=
  let changed := old.regs != t.regs || old.preds != t.preds
  let outside := match old.spin.branch with
    | some (lo, hi) => decide (old.pc < lo) || decide (hi < old.pc)
    | none => false
  let promote := t.mode == .demoted && (changed || outside)
  let spin := { t.spin with dirty := t.spin.dirty || changed, idle := if promote then 0 else t.spin.idle }
  let fin := match old.rpt with | some r => decide (r.n ≤ r.k + 1) | none => true
  let site := sp && fin && old.header.spo != 0xFFFFF#20
  let es := earlyOf old t rd clk
  { t with
    mode := if promote then .normal else t.mode
    spin := spin
    spo := if site then ord else t.spo
    halted := t.halted || (t.haltReq && site && old.mode != .trap)
    skid := if t.haltReq && !t.halted then t.skid + 1 else t.skid
    leaving := false, seen := [], last := clk, waitCnt := 0
    early := (t.early.filter (fun e => !(es.any (fun x => x.key == e.key)))) ++ es }

/-- The issuing thread retires its instruction and goes on at the next slot: progress for the hang watchdog (R352), its stop
site (R367), its spin detector (R53). rd is the result distance (R47). -/
def State.retire (s : State) (b : Block) (tid : Nat) (old : Thread) (k : Ctl) (rd : Nat) : State :=
  let ord := s.ordinal b old
  let clk := s.clkOf b.core
  let s := s.modThread b.bid tid fun t => Thread.retired old t.advance k.sp ord rd clk
  let s := if old.mode == .demoted then s
    else { s with launches := s.launches.map fun l => if l.obj == b.launch then { l with count := 0 } else l }
  s.popIssue

/-- As retire, for an instruction that set the thread's pc and slot itself (a taken transfer, a trap return). -/
def State.retireAt (s : State) (b : Block) (tid : Nat) (old : Thread) (k : Ctl) : State :=
  let ord := s.ordinal b old
  let clk := s.clkOf b.core
  let s := s.modThread b.bid tid fun t => Thread.retired old t k.sp ord 1 clk
  let s := if old.mode == .demoted then s
    else { s with launches := s.launches.map fun l => if l.obj == b.launch then { l with count := 0 } else l }
  s.popIssue

end Sys2Proof.Machine
end

