-- ==== Sys2Proof/Machine/Flags.lean ====
section
/-! DEFINITION. What an instruction computes into predicates: carries and borrows (R109), conditions (R112), truth tables
(R117), keys (R128). The clause flags f0 to f11 are counts in the thread (Machine/Ops.lean). -/

namespace Sys2Proof

/-- An integer condition (R112). -/
def Cond.holds (c : Cond) (a b : Int) : Bool :=
  match c with
  | .eq => a == b
  | .ne => a != b
  | .lt => decide (a < b)
  | .le => decide (a ≤ b)
  | .gt => decide (b < a)
  | .ge => decide (b ≤ a)

end Sys2Proof

namespace Sys2Proof.Machine

/-- The carry-out of a 32-bit addition with carry-in (R109). -/
def carryOut (a b cin : Nat) : Bool := decide (2 ^ 32 ≤ a + b + cin)

/-- The borrow-out of a 32-bit subtraction with borrow-in (R109). -/
def borrowOut (a b bin : Nat) : Bool := decide (a < b + bin)

/-- Bit 4·a + 2·b + c of a truth table (R117). -/
def lutBit (lut : Byte) (a b c : Bool) : Bool :=
  lut.getLsbD ((if a then 4 else 0) + (if b then 2 else 0) + (if c then 1 else 0))

/-- The value of a predicate as a carry. -/
def carryIn (p : Bool) : Nat := if p then 1 else 0

end Sys2Proof.Machine
end

