-- ==== Sys2Proof/Machine/Operands.lean ====
section
/-! DEFINITION. The operand forms (R77, R83, R107) and the checks every issued instruction passes: register ranges (R78),
the guard (R5, R320), operand types (R104, R320), values in registers (R78). -/

namespace Sys2Proof.Machine

/-- The answer of a step of the machine. -/
abbrev Out := Host.Outcome State Fault Refusal

/-! ### Integer operands (R83, R106, R107) -/

end Sys2Proof.Machine

namespace Sys2Proof

/-- Whether an integer type takes pairs (R107). -/
def IntTy.wide : IntTy → Bool
  | .n64 | .s64 => true
  | _ => false

/-- The width of an integer type. -/
def IntTy.w (t : IntTy) : Nat := if t.wide then 64 else 32

/-- Registers an operand of the type takes (R107). -/
def IntTy.n (t : IntTy) : Nat := if t.wide then 2 else 1

/-- Whether an integer type is signed. -/
def IntTy.sgn : IntTy → Bool
  | .s32 | .s64 => true
  | _ => false

/-- Bits read as a number of an integer type. -/
def IntTy.val (t : IntTy) (v : Nat) : Int := Machine.intOf t.ty v

/-- Registers an operand takes, by `.n64`. -/
def wideN (wide : Bool) : Nat := if wide then 2 else 1

end Sys2Proof

namespace Sys2Proof.Machine

/-- A register or pair as a natural number (R107). -/
def Thread.num (t : Thread) (wide : Bool) (g : G) : Nat := if wide then (t.pair g).toNat else t.nat g

/-- A register or pair written from a natural number, cut to its width, P-typed (R107, R319). -/
def Thread.setNum (t : Thread) (wide : Bool) (g : G) (v : Nat) : Thread :=
  if wide then t.setPair g (BitVec.ofNat 64 v) else t.setReg g ⟨BitVec.ofNat 32 v, .P⟩

/-- The immediate of an immediate form as the bits of its type (R83, R106). -/
def immNum (t : IntTy) (imm : Word) : Nat :=
  match t with
  | .s64 => (imm.signExtend 64).toNat
  | _ => imm.toNat

/-! ### The checks of an issued instruction -/

/-- What an instruction checks at issue: the register ranges it names (R78), the registers and predicates that must be
P-typed (R104, R320), whether it is approximate (an A-typed guard is then accepted, R134), and the fault that a value
in a register gives (R78). -/
structure Checks where
  uses   : List (G × Nat)
  taint  : List (G × Nat)
  ptaint : List PF
  ap     : Bool
  fault  : Option Nat

/-- The checks of a precise instruction: the ranges written, the ranges read, the predicates read. -/
def precise (d r : List (G × Nat)) (p : List PF) : Checks :=
  { uses := d ++ r, taint := r, ptaint := p, ap := false, fault := none }

/-- The checks of an instruction whose data sources r may be A-typed. -/
def approx (ap : Bool) (d r : List (G × Nat)) : Checks :=
  { uses := d ++ r, taint := if ap then [] else r, ptaint := [], ap := ap, fault := none }

/-- Whether every register range named exists (R78). -/
def Checks.ranges (k : Checks) (t : Thread) : Bool := k.uses.all t.has

/-- Whether a source that must be P-typed is A-typed (R104, R320). -/
def Checks.tainted (k : Checks) (t : Thread) : Bool :=
  k.taint.any t.tainted || k.ptaint.any (fun p => (t.pred p).ty == .A)

/-- The guard may not decide the instruction: it is A-typed and the instruction precise (R320). -/
def Checks.guardBad (k : Checks) (t : Thread) (c : Ctl) : Bool := !k.ap && (t.pred c.pg).ty == .A

/-- An issued instruction: fault 0x01 on a range that does not exist, 0x20 on an A-typed guard, off when the guard is false,
0x20 on an A-typed source, the fault of a value, else act (R78, R104, R105, R320). -/
def State.gate (s : State) (u : Cur) (c : Ctl) (k : Checks) (off act : State) : State :=
  if !k.ranges u.t then s.syncFault u.b u.tid u.t 0x01
  else if k.guardBad u.t c then s.syncFault u.b u.tid u.t 0x20
  else if !u.t.guard c then off
  else if k.tainted u.t then s.syncFault u.b u.tid u.t 0x20
  else
    match k.fault with
    | some f => s.syncFault u.b u.tid u.t f
    | none => act

/-- The thread passes every check of the instruction and its guard is true: the instruction has its effect. -/
def Checks.pass (k : Checks) (t : Thread) (c : Ctl) : Bool :=
  k.ranges t && !k.guardBad t c && t.guard c && !k.tainted t && k.fault.isNone

/-- An instruction with an effect on the state: checks k; with a true guard the state act gives. -/
def execWith (c : Ctl) (s : State) (k : Cur → Checks) (act : Cur → State) : Out :=
  match s.cur with
  | none => .refused .noThread
  | some u => .next (s.gate u c (k u) (s.retire u.b u.tid u.t c 1) (act u))

/-- The thread u, changed to t, retires with result distance rd. -/
def State.done (s : State) (u : Cur) (c : Ctl) (rd : Nat) (t : Thread) : State :=
  (s.setThread u.b.bid u.tid t).retire u.b u.tid u.t c rd

/-- An instruction that changes only its thread (R103): checks k, effect f, result distance rd. -/
def execLocal (c : Ctl) (rd : Nat) (s : State) (k : Cur → Checks) (f : Cur → Thread) : Out :=
  execWith c s k (fun u => s.done u c rd (f u))

/-- As execLocal, for an instruction that uses n free values. -/
def execFree (c : Ctl) (rd n : Nat) (s : State) (k : Cur → Checks) (f : Cur → Thread) : Out :=
  execWith c s k (fun u => ({ s with free := s.free + n } : State).done u c rd (f u))

end Sys2Proof.Machine
end

