-- ==== Sys2Proof/Machine/Transcend.lean ====
section
/-! DEFINITION. Reciprocal roots and transcendentals (R143). Values are computed in fixed point with 160 fraction bits;
the series are cut where their terms vanish at that precision. A `.f16` result is the correctly rounded one. A `.f32` result
is one fixed function of the operand within the stated bound, left open: any admissible code (Config.transcendentalPick). -/

namespace Sys2Proof.Machine

/-- 2^160, one in the fixed point used here. -/
def one : Int := 2 ^ 160
/-- pi · 2^512. -/
def piFix : Nat := 42121870893450636219446821484559388105255997313489254605594685088103805782276098919793885372247726346443771296916333485327292916625599161542353774203832599
/-- ln 2 · 2^160. -/
def ln2Fix : Int := 1013035739299659071135698605846798551586536899366

/-- n terms of the exponential series of x, from term k on; t is the term before (fixed point). -/
def expGo (x : Int) : Nat → Int → Int → Int
  | 0, _, acc => acc
  | n + 1, t, acc =>
    let k : Int := 48 - (n : Int)
    let t' := t * x / (one * k)
    expGo x n t' (acc + t')

/-- exp x for 0 ≤ x < 1, fixed point: 48 terms. -/
def expFix (x : Int) : Int := expGo x 48 one one

/-- Terms of the sine series: t the last term, k its degree. -/
def sinGo (x2 : Int) : Nat → Int → Int → Int → Int
  | 0, _, _, acc => acc
  | n + 1, t, k, acc =>
    let t' := -(t * x2 / (one * (k + 1) * (k + 2)))
    sinGo x2 n t' (k + 2) (acc + t')

/-- sin x and cos x for 0 ≤ x < 1.6, fixed point: 40 terms. -/
def sinFix (x : Int) : Int := sinGo (x * x / one) 40 x 1 x
def cosFix (x : Int) : Int := sinGo (x * x / one) 40 one 0 one

/-- Terms of the series of the inverse hyperbolic tangent: p the last odd power, k its degree. -/
def atanhGo (z2 : Int) : Nat → Int → Int → Int → Int
  | 0, _, _, acc => acc
  | n + 1, p, k, acc =>
    let p' := p * z2 / one
    atanhGo z2 n p' (k + 2) (acc + p' / (k + 2))

/-- ln m for 1 ≤ m < 2 (fixed point): 2 artanh((m-1)/(m+1)). -/
def lnFix (m : Int) : Int :=
  let z := (m - one) * one / (m + one)
  2 * atanhGo (z * z / one) 60 z 1 z

/-- A fixed-point number as a value. -/
def ofFix (v : Int) : FVal := .num (decide (v < 0)) v.natAbs (-160)

/-- 2^v for a finite v between -200 and 200, as significand and exponent. -/
def exp2Val (neg : Bool) (m : Nat) (e : Int) : FVal :=
  let x := scaled (-160) neg (if e < -160 then m / 2 ^ (-160 - e).toNat else m) (if e < -160 then -160 else e)
  let n := x / one
  let f := x % one
  .num false (expFix (f * ln2Fix / one)).natAbs (n - 160)

/-- log2 v for v = m · 2^e, 0 < m. -/
def log2Val (m : Nat) (e : Int) : FVal :=
  let l := Nat.log2 m
  let fr : Int := (m * 2 ^ 160 / 2 ^ l : Nat)
  ofFix (((l : Int) + e) * one + lnFix fr * one / ln2Fix)

/-- The reduced argument at full width: v · 2^512 modulo pi/2 · 2^512. -/
def reduceWide (m : Nat) (e : Int) : Nat × Nat :=
  let x : Nat := if 0 ≤ e then m * 2 ^ (e.toNat + 512) else m * 2 ^ 512 / 2 ^ (-e).toNat
  let h := piFix / 2
  (x % h, x / h % 4)

/-- sin or cos of (-1)^neg · m · 2^e. -/
def sinCosVal (cos : Bool) (neg : Bool) (m : Nat) (e : Int) : FVal :=
  let (r, q) := reduceWide m e
  let y : Int := ((r / 2 ^ 352 : Nat) : Int)
  let q := if cos then (q + 1) % 4 else q
  let s := if q % 2 == 0 then sinFix y else cosFix y
  let s := if 2 ≤ q then -s else s
  ofFix (if !cos && neg then -s else s)

/-- tanh of m · 2^e with 0 < value < 12. -/
def tanhVal (neg : Bool) (m : Nat) (e : Int) : FVal :=
  let x : Int := if e < -161 then (m / 2 ^ (-161 - e).toNat : Nat) else scaled (-161) false m e
  let n := x * one / ln2Fix / one
  let f := x - n * ln2Fix
  let ex := expFix f * 2 ^ n.toNat
  let r := (ex - one) * one / (ex + one)
  ofFix (if neg then -r else r)

/-- Whether code c lies within k ulp of v in FP32, ulp taken at v's own binade (R143).
[log 13: DEDUCED, unsafe] -/
def withinUlp (k : Nat) (v : FVal) (c : Nat) : Bool :=
  match v, decodeF .f32 c with
  | .num s m e, .num u n f =>
    let top : Int := e + (Nat.log2 m : Nat)
    let q : Int := (if top < -126 then -126 else top) - 23
    let lo := if e < f then e else f
    let lo := if q < lo then q else lo
    decide ((scaled lo s m e - scaled lo u n f).natAbs ≤ k * 2 ^ (q - lo).toNat)
  | _, _ => false

/-- Whether code c lies within 2^-22 of v (R143). -/
def withinAbs (v : FVal) (c : Nat) : Bool :=
  match v, decodeF .f32 c with
  | .num s m e, .num u n f =>
    let lo := if e < f then e else f
    let lo := if -22 < lo then -22 else lo
    decide ((scaled lo s m e - scaled lo u n f).natAbs ≤ 2 ^ (-22 - lo).toNat)
  | _, _ => false

/-- The six functions whose `.f32` result is open (R143). -/
inductive Trans where
  | rsq
  | ex2
  | lg2
  | sin
  | cos
  | tnh
  deriving DecidableEq, Repr

/-- The number of a function, for the free choice. -/
def Trans.num : Trans → Nat
  | .rsq => 0 | .ex2 => 1 | .lg2 => 2 | .sin => 3 | .cos => 4 | .tnh => 5

/-- The result of a special input, or of an input the bound fixes exactly (R143). -/
def Trans.special (f : Trans) (v : FVal) : Option FVal :=
  match f, v with
  | _, .nan => some .nan
  | .rsq, .inf s => some (if s then .nan else .num false 0 0)
  | .rsq, .num s m _ => if m == 0 then some (.inf s) else if s then some .nan else none
  | .ex2, .inf s => some (if s then .num false 0 0 else .inf false)
  | .ex2, .num _ m _ => if m == 0 then some (.num false 1 0) else none
  | .lg2, .inf s => some (if s then .nan else .inf false)
  | .lg2, .num s m e =>
    if m == 0 then some (.inf true)
    else if s then some .nan
    else if m == 2 ^ Nat.log2 m then some (ofInt ((Nat.log2 m : Nat) + e)) else none
  | .sin, .inf _ => some .nan
  | .cos, .inf _ => some .nan
  | .sin, .num s m _ => if m == 0 then some (.num s 0 0) else none
  | .cos, .num _ m _ => if m == 0 then some (.num false 1 0) else none
  | .tnh, .inf s => some (.num s 1 0)
  | .tnh, .num s m _ => if m == 0 then some (.num s 0 0) else none

/-- The exact result, to within the fixed point, of a finite input that is not special. -/
def Trans.exact (f : Trans) (s : Bool) (m : Nat) (e : Int) : FVal :=
  let top : Int := e + (Nat.log2 m : Nat)
  match f with
  | .rsq => rsqrtF (.num s m e)
  | .ex2 => if 8 ≤ top then (if s then .num false 1 (-1000) else .num false 1 1000) else exp2Val s m e
  | .lg2 => log2Val m e
  | .sin => if top < -40 then .num s (2 ^ 120 * m - 1) (e - 120) else sinCosVal false s m e
  | .cos => if top < -60 then .num false (2 ^ 130 - 1) (-130) else sinCosVal true s m e
  | .tnh =>
    if top < -40 then .num s (2 ^ 120 * m - 1) (e - 120)
    else if 3 < top then .num s (2 ^ 130 - 1) (-130) else tanhVal s m e

/-- Whether a `.f32` code is a result the bound admits for a finite input that is not special (R143).
[log 15: DESIGN CHOICE, safe] -/
def Trans.admits (f : Trans) (s : Bool) (m : Nat) (e : Int) (c : Nat) : Bool :=
  let v := f.exact s m e
  match f with
  | .rsq => c == roundF .f32 .rz false 0 v || c == roundF .f32 .rup false 0 v
  | .ex2 =>
    if 0 ≤ e || m % 2 ^ (-e).toNat == 0 then
      (if (-149 : Int) * 2 ^ 0 ≤ toIntF .rz s m e && toIntF .rz s m e ≤ 127 then c == rne .f32 v else
        withinUlp 2 v c || c == rne .f32 v)
    else withinUlp 2 v c || c == rne .f32 v
  | .lg2 =>
    let one' : FVal := .num false 1 0
    let x : FVal := .num s m e
    if !x.lt (.num false 1 (-1)) && !one'.lt (.num false m (e - 1)) then withinAbs v c else withinUlp 2 v c
  | .sin | .cos => withinAbs v c
  | .tnh =>
    let top : Int := e + (Nat.log2 m : Nat)
    if !(FVal.num false m e).lt (.num false 10 0) then c == signed .f32 s 0x3F800000
    else if top < -12 then c == rne .f32 (.num s m e)
    else withinUlp 2 v c

/-- The result of a transcendental (R143). pick: the code Config offers for this function and operand.
[log 15: DESIGN CHOICE, safe] -/
def Trans.result (f : Trans) (t : Ty) (c : Nat) (pick : Nat) : Nat :=
  match f.special (decodeF t c) with
  | some v => rne t v
  | none =>
    match decodeF t c with
    | .num s m e =>
      let r := rne t (f.exact s m e)
      if t == .f32 then
        let p := pick % 2 ^ 32
        if f.admits s m e p then p
        else if f == .tnh && f.admits s m e (rne .f32 (.num s m e)) then rne .f32 (.num s m e)
        else if f == .tnh && !(FVal.num false m e).lt (.num false 10 0) then signed .f32 s 0x3F800000
        else r
      else r
    | _ => nanCode t

end Sys2Proof.Machine
end

