-- ==== Sys2Proof/Machine/Float.lean ====
section
/-! DEFINITION. Scalar and packed floating point, conversions, scaled narrow products and codebook decode (R129-R150). -/

namespace Sys2Proof.Machine

/-! ### Reading and writing (R132) -/

/-- The code of a floating type in the low bits of a register; registers hold at most 32 bits. -/
def lowCode (t : Ty) (v : Nat) : Nat := v % 2 ^ t.bits

/-- The value of the code of a type in a register. -/
def Thread.fval (t : Thread) (ty : Ty) (g : G) : FVal := decodeF ty (lowCode ty (t.nat g))

/-- The free number of draw i. -/
def State.draw (s : State) (i : Nat) : Nat := (Config.freeWord (s.free + i)).toNat

/-- A result of a floating instruction: itself, or for an approximate form a member of its envelope (R134, R316). -/
def State.result (s : State) (u : Cur) (ap : Bool) (t : Ty) (i r : Nat) : Nat :=
  if ap then envelope u.b.level t r (s.draw i) else r

/-- The outcome of an approximate compare: itself at levels 0 to 7, either at level 8 (R134). -/
def State.resultCmp (s : State) (u : Cur) (ap : Bool) (i : Nat) (r : Bool) : Bool :=
  if ap && u.b.level == 8 then s.draw i % 2 == 1 else r

/-- The type of what a form writes (R134, R319). -/
def tyOf (ap : Bool) : TBit := if ap then .A else .P

/-- Free values a form may use. -/
def draws (ap : Bool) (n : Nat) : Nat := if ap then n else 0

/-- A write of a result register. -/
def Thread.setF (t : Thread) (ap : Bool) (d : G) (v : Nat) : Thread := t.setReg d ⟨BitVec.ofNat 32 v, tyOf ap⟩

/-! ### Scalar arithmetic (R136-R139) -/

/-- A scalar floating instruction whose exact result f is rounded to t (R134, R136). -/
def execScalar (c : Ctl) (ap : Bool) (rd : Nat) (d : G) (srcs : List (G × Nat)) (t : Ty) (rm : Rm) (s : State)
    (f : Thread → FVal) : Out :=
  execFree c rd (draws ap 1) s (fun _ => approx ap [(d, 1)] srcs)
    (fun u => u.t.setF ap d (s.result u ap t 0 (roundF t rm false 0 (f u.t))))

/-- The value of a floating immediate (R83). -/
def immVal (t : Ty) (imm : Word) : FVal := decodeF t (lowCode t imm.toNat)

/-- FADD (R136). -/
def execFadd (c : Ctl) (ap : Bool) (d a b : G) (t : Ty) (rm : Rm) (s : State) : Out :=
  execScalar c ap 4 d [(a, 1), (b, 1)] t rm s (fun x => sumF rm [x.fval t a, x.fval t b])

/-- FADD with an immediate (R136). -/
def execFaddI (c : Ctl) (ap : Bool) (d a : G) (imm : Word) (t : Ty) (s : State) : Out :=
  execScalar c ap 4 d [(a, 1)] t .rne s (fun x => sumF .rne [x.fval t a, immVal t imm])

/-- FSUB (R136). -/
def execFsub (c : Ctl) (ap : Bool) (d a b : G) (t : Ty) (rm : Rm) (s : State) : Out :=
  execScalar c ap 4 d [(a, 1), (b, 1)] t rm s (fun x => sumF rm [x.fval t a, (x.fval t b).neg])

/-- FMUL (R136). -/
def execFmul (c : Ctl) (ap : Bool) (d a b : G) (t : Ty) (rm : Rm) (s : State) : Out :=
  execScalar c ap 4 d [(a, 1), (b, 1)] t rm s (fun x => (x.fval t a).mul (x.fval t b))

/-- FMUL with an immediate (R136). -/
def execFmulI (c : Ctl) (ap : Bool) (d a : G) (imm : Word) (t : Ty) (s : State) : Out :=
  execScalar c ap 4 d [(a, 1)] t .rne s (fun x => (x.fval t a).mul (immVal t imm))

/-- The product, negated when neg is set. -/
def prod (neg : Bool) (a b : FVal) : FVal := if neg then (a.mul b).neg else a.mul b

/-- FFMA (R136): one rounding. -/
def execFfma (c : Ctl) (ap : Bool) (d a b cc : G) (t : Ty) (rm : Rm) (neg : Bool) (s : State) : Out :=
  execScalar c ap 4 d [(a, 1), (b, 1), (cc, 1)] t rm s
    (fun x => sumF rm [prod neg (x.fval t a) (x.fval t b), x.fval t cc])

/-- FFMA with an immediate (R136): reads d. -/
def execFfmaI (c : Ctl) (ap : Bool) (d a : G) (imm : Word) (t : Ty) (s : State) : Out :=
  execScalar c ap 4 d [(d, 1), (a, 1)] t .rne s
    (fun x => sumF .rne [(x.fval t a).mul (immVal t imm), x.fval t d])

/-- FMIN and FMAX (R137); an approximate form gives a member of the envelope, as every other does (R134).
[log 14: DEDUCED, unsafe] -/
def execMM (c : Ctl) (ap : Bool) (mx : Bool) (d a b : G) (t : Ty) (s : State) : Out :=
  execFree c 4 (draws ap 1) s (fun _ => approx ap [(d, 1)] [(a, 1), (b, 1)])
    (fun u => u.t.setF ap d (s.result u ap t 0 (fminmax t mx (u.t.nat a) (u.t.nat b))))

/-- FMIN (R137). -/
def execFmin (c : Ctl) (ap : Bool) (d a b : G) (t : Ty) (s : State) : Out := execMM c ap false d a b t s
/-- FMAX (R137). -/
def execFmax (c : Ctl) (ap : Bool) (d a b : G) (t : Ty) (s : State) : Out := execMM c ap true d a b t s

/-- FCMP (R138): an approximate compare writes an A-typed predicate. -/
def execFcmp (c : Ctl) (ap : Bool) (p : PF) (cond : FCond) (un : Bool) (a b : G) (t : Ty) (s : State) : Out :=
  execFree c 2 (draws ap 1) s (fun _ => approx ap [] [(a, 1), (b, 1)])
    (fun u => u.t.setPred p ⟨s.resultCmp u ap 0 (fcmpF t cond un (u.t.nat a) (u.t.nat b)), tyOf ap⟩)

/-- FCMP with an immediate (R138). -/
def execFcmpI (c : Ctl) (ap : Bool) (p : PF) (cond : FCond) (un : Bool) (a : G) (imm : Word) (t : Ty) (s : State) : Out :=
  execFree c 2 (draws ap 1) s (fun _ => approx ap [] [(a, 1)])
    (fun u => u.t.setPred p ⟨s.resultCmp u ap 0 (fcmpF t cond un (u.t.nat a) imm.toNat), tyOf ap⟩)

/-- A precise instruction with one source whose code f turns into the result. -/
def execCode (c : Ctl) (rd : Nat) (d a : G) (s : State) (f : Thread → Nat) : Out :=
  execLocal c rd s (fun _ => precise [(d, 1)] [(a, 1)] []) (fun u => u.t.setF false d (f u.t))

/-- FCLS (R139). -/
def execFcls (c : Ctl) (d a : G) (t : Ty) (s : State) : Out :=
  execCode c 2 d a s (fun x => fclsF t (lowCode t (x.nat a)))

/-- FRND (R139). -/
def execFrnd (c : Ctl) (d a : G) (t : Ty) (rm : Rm) (s : State) : Out :=
  execCode c 2 d a s (fun x => frndF t rm (lowCode t (x.nat a)))

/-- A value times 2^n. -/
def FVal.scale (v : FVal) (n : Int) : FVal :=
  match v with
  | .num s m e => .num s m (e + n)
  | v => v

/-- FSCL (R139): n is b read as a signed number; beyond 1024 in size every finite value has left the format already. -/
def execFscl (c : Ctl) (d a b : G) (t : Ty) (rm : Rm) (s : State) : Out :=
  execLocal c 2 s (fun _ => precise [(d, 1)] [(a, 1), (b, 1)] [])
    (fun u =>
      let n := (u.t.val b).toInt
      let n : Int := if n < -1024 then -1024 else if 1024 < n then 1024 else n
      u.t.setF false d (roundF t rm false 0 ((u.t.fval t a).scale n)))

/-! ### Reciprocal, root, transcendentals (R143) -/

/-- FRCP: correctly rounded. -/
def execFrcp (c : Ctl) (d a : G) (t : Ty) (rm : Rm) (s : State) : Out :=
  execCode c 8 d a s (fun x => roundF t rm false 0 (recipF (x.fval t a)))

/-- FSQRT: correctly rounded. -/
def execFsqrt (c : Ctl) (d a : G) (t : Ty) (rm : Rm) (s : State) : Out :=
  execCode c 8 d a s (fun x => roundF t rm false 0 (sqrtF (x.fval t a)))

/-- A transcendental: `.f16` correctly rounded, `.f32` one fixed value within the bound (log 15).
[log 15: DESIGN CHOICE, safe] -/
def execTrans (c : Ctl) (f : Trans) (d a : G) (t : Ty) (s : State) : Out :=
  execCode c 8 d a s (fun x =>
    let v := lowCode t (x.nat a)
    f.result t v (Config.transcendentalPick f.num (BitVec.ofNat 32 v)))

/-- FRSQ. -/
def execFrsq (c : Ctl) (d a : G) (t : Ty) (s : State) : Out := execTrans c .rsq d a t s
/-- FEX2. -/
def execFex2 (c : Ctl) (d a : G) (t : Ty) (s : State) : Out := execTrans c .ex2 d a t s
/-- FLG2. -/
def execFlg2 (c : Ctl) (d a : G) (t : Ty) (s : State) : Out := execTrans c .lg2 d a t s
/-- FSIN. -/
def execFsin (c : Ctl) (d a : G) (t : Ty) (s : State) : Out := execTrans c .sin d a t s
/-- FCOS. -/
def execFcos (c : Ctl) (d a : G) (t : Ty) (s : State) : Out := execTrans c .cos d a t s
/-- FTNH. -/
def execFtnh (c : Ctl) (d a : G) (t : Ty) (s : State) : Out := execTrans c .tnh d a t s

/-! ### Packed pairs (R140-R142) -/

/-- The low or high half of a 32-bit value (R132). -/
def half (hi : Bool) (v : Nat) : Nat := if hi then v / 2 ^ 16 % 2 ^ 16 else v % 2 ^ 16
def Thread.hval (t : Thread) (ty : Ty) (hi : Bool) (g : G) : FVal := decodeF ty (half hi (t.nat g))

/-- A packed-pair instruction: each half rounded on its own, with its own envelope (R132, R134). -/
def execPacked (c : Ctl) (ap : Bool) (d : G) (srcs : List (G × Nat)) (t : Ty) (rm : Rm) (s : State)
    (f : Thread → Bool → FVal) : Out :=
  execFree c 4 (draws ap 2) s (fun _ => approx ap [(d, 1)] srcs)
    (fun u =>
      let lo := s.result u ap t 0 (roundF t rm false 0 (f u.t false))
      let hi := s.result u ap t 1 (roundF t rm false 0 (f u.t true))
      u.t.setF ap d (lo + hi * 2 ^ 16))

/-- HADD2 (R140). -/
def execHadd2 (c : Ctl) (ap : Bool) (d a b : G) (t : Ty) (rm : Rm) (s : State) : Out :=
  execPacked c ap d [(a, 1), (b, 1)] t rm s (fun x h => sumF rm [x.hval t h a, x.hval t h b])

/-- HSUB2 (R140). -/
def execHsub2 (c : Ctl) (ap : Bool) (d a b : G) (t : Ty) (rm : Rm) (s : State) : Out :=
  execPacked c ap d [(a, 1), (b, 1)] t rm s (fun x h => sumF rm [x.hval t h a, (x.hval t h b).neg])

/-- HMUL2 (R140). -/
def execHmul2 (c : Ctl) (ap : Bool) (d a b : G) (t : Ty) (rm : Rm) (s : State) : Out :=
  execPacked c ap d [(a, 1), (b, 1)] t rm s (fun x h => (x.hval t h a).mul (x.hval t h b))

/-- HFMA2 (R140). -/
def execHfma2 (c : Ctl) (ap : Bool) (d a b cc : G) (t : Ty) (rm : Rm) (neg : Bool) (s : State) : Out :=
  execPacked c ap d [(a, 1), (b, 1), (cc, 1)] t rm s
    (fun x h => sumF rm [prod neg (x.hval t h a) (x.hval t h b), x.hval t h cc])

/-- HFMA2 with an immediate pair (R140): reads d. -/
def execHfma2I (c : Ctl) (ap : Bool) (d a : G) (imm : Word) (t : Ty) (s : State) : Out :=
  execPacked c ap d [(d, 1), (a, 1)] t .rne s
    (fun x h => sumF .rne [(x.hval t h a).mul (decodeF t (half h imm.toNat)), x.hval t h d])

/-- HMIN2 and HMAX2 (R140), each half with its own envelope (R134).
[log 14: DEDUCED, unsafe] -/
def execMM2 (c : Ctl) (ap : Bool) (mx : Bool) (d a b : G) (t : Ty) (s : State) : Out :=
  execFree c 4 (draws ap 2) s (fun _ => approx ap [(d, 1)] [(a, 1), (b, 1)])
    (fun u =>
      let v (h : Bool) (i : Nat) : Nat := s.result u ap t i (fminmax t mx (half h (u.t.nat a)) (half h (u.t.nat b)))
      u.t.setF ap d (v false 0 + v true 1 * 2 ^ 16))

/-- HMIN2 (R140). -/
def execHmin2 (c : Ctl) (ap : Bool) (d a b : G) (t : Ty) (s : State) : Out := execMM2 c ap false d a b t s
/-- HMAX2 (R140). -/
def execHmax2 (c : Ctl) (ap : Bool) (d a b : G) (t : Ty) (s : State) : Out := execMM2 c ap true d a b t s

/-- HCMP2 (R141). -/
def execHcmp2 (c : Ctl) (ap : Bool) (d a b : G) (t : Ty) (cond : FCond) (un : Bool) (s : State) : Out :=
  execFree c 4 (draws ap 2) s (fun _ => approx ap [(d, 1)] [(a, 1), (b, 1)])
    (fun u =>
      let v (h : Bool) (i : Nat) : Nat :=
        if s.resultCmp u ap i (fcmpF t cond un (half h (u.t.nat a)) (half h (u.t.nat b))) then 0xFFFF else 0
      u.t.setF ap d (v false 0 + v true 1 * 2 ^ 16))

/-- HDOT2 (R142). -/
def execHdot2 (c : Ctl) (ap : Bool) (d a b cc : G) (dt st : Ty) (rm : Rm) (s : State) : Out :=
  execScalar c ap 5 d [(a, 1), (b, 1), (cc, 1)] dt rm s
    (fun x => sumF rm [(x.hval st false a).mul (x.hval st false b), (x.hval st true a).mul (x.hval st true b),
      x.fval dt cc])

/-! ### Conversions (R144-R148) -/

/-- CVT (R144): a 64-bit type takes a pair; `.rs` uses row lane mod 8, column 0 (R146). -/
def execCvt (c : Ctl) (ap : Bool) (d a : G) (dt st : Ty) (rm : Rm) (sat : Bool) (s : State) : Out :=
  let dw := decide (dt.bits = 64)
  let sw := decide (st.bits = 64)
  execFree c 2 (draws ap 1) s (fun _ => approx ap [(d, wideN dw)] [(a, wideN sw)])
    (fun u =>
      let r := cvtBits dt st rm sat (dither (laneOf u.tid) 0) (lowCode st (u.t.num sw a))
      if dw then u.t.setNum true d r else u.t.setF ap d (s.result u ap dt 0 r))

/-- The width of the slot a narrow format takes in a register (R147). -/
def slotBits (t : Ty) : Nat :=
  match t with
  | .f16 | .bf16 => 16
  | .e2m1 => 4
  | _ => 8

/-- A register with n bits from bit p replaced. -/
def putBits (v p n x : Nat) : Nat := v - (v / 2 ^ p % 2 ^ n) * 2 ^ p + (x % 2 ^ n) * 2 ^ p

/-- CVTN (R147): reads and keeps the other bits of d. -/
def execCvtn (c : Ctl) (ap : Bool) (d a b : G) (dt : Ty) (rm : Rm) (sat : Bool) (k : BitVec 2) (s : State) : Out :=
  execFree c 2 (draws ap 2) s (fun _ => approx ap [] [(d, 1), (a, 1), (b, 1)])
    (fun u =>
      let w := slotBits dt
      let v (g : G) (j : Nat) : Nat :=
        s.result u ap dt j (roundF dt rm sat (dither (laneOf u.tid) (2 * k.toNat + j)) (u.t.fval .f32 g))
      let x := putBits (u.t.nat d) (2 * k.toNat * w) w (v a 0)
      u.t.setF ap d (putBits x ((2 * k.toNat + 1) * w) w (v b 1)))

/-- CVTW (R148). -/
def execCvtw (c : Ctl) (ap : Bool) (d a : G) (dt st : Ty) (k : BitVec 3) (s : State) : Out :=
  execFree c 2 (draws ap 1) s (fun _ => approx ap [(d, 1)] [(a, 1)])
    (fun u =>
      let w := slotBits st
      let x := lowCode st (u.t.nat a / 2 ^ (k.toNat * w))
      u.t.setF ap d (s.result u ap dt 0 (rne dt (decodeF st x))))

/-! ### Scaled narrow dot products and codebook decode (R149, R150) -/

/-- SDOT's result (R149): e elements, block selector k, scales c0 and c1, accumulator acc. -/
def sdotValue (ta tb : Ty) (lane q a b c0 c1 : Nat) (acc : FVal) : Nat :=
  let e := if ta == .e2m1 then 8 else 4
  let w := 32 / e
  let k := (e * lane / 32 + q) % 4
  match scaleE (c0 / 2 ^ (8 * k) % 256), scaleE (c1 / 2 ^ (8 * k) % 256) with
  | some sa, some sb =>
    let el (t : Ty) (v n : Nat) : FVal := decodeF t (lowCode t (v / 2 ^ (n * w)))
    let ps := (List.range e).map (fun n => (el ta a n).mul (el tb b n))
    let sum := match sumF .rne ps with
      | .num s m e => if m == 0 then .num false 0 0 else .num s m (e + sa + sb)
      | v => v
    rne .f32 (sumF .rne [acc, sum])
  | _, _ => nanCode .f32

/-- SDOT (R149): reads d. -/
def execSdot (c : Ctl) (d a b cc : G) (ta tb : Ty) (q : BitVec 2) (s : State) : Out :=
  execLocal c 6 s (fun _ => precise [] [(d, 1), (a, 1), (b, 1), (cc, 2)] [])
    (fun u => u.t.setF false d (sdotValue ta tb (laneOf u.tid) q.toNat (u.t.nat a) (u.t.nat b) (u.t.nat cc)
      (u.t.nat (next cc 1)) (u.t.fval .f32 d)))

/-- Entry i of a core's LQ2 table (R183): eight entries of 16 bits, four in each register LQT. -/
def Core.lqEntry (c : Core) (i : Nat) : Nat := ((c.lqt.get 0 (i / 4)).toNat / 2 ^ (16 * (i % 4))) % 2 ^ 16

/-- The eight odd weights of an LQ2 code under its table entry (R150). -/
def lq2Weights (idx entry : Nat) : List Int :=
  let neg7 := (List.range 7).foldl (fun b w => b != idx.testBit (9 + w)) false
  (List.range 8).map fun w =>
    let m : Int := (2 * (entry / 2 ^ (2 * w) % 4) + 1 : Nat)
    if (if w == 7 then neg7 else idx.testBit (9 + w)) then -m else m

/-- Bits packed low first, n bits each. -/
def packBits (n : Nat) : List Nat → Nat
  | [] => 0
  | x :: xs => x % 2 ^ n + 2 ^ n * packBits n xs

/-- Registers written from d on, P-typed. -/
def Thread.setRange (t : Thread) (d : G) : Nat → List Nat → Thread
  | _, [] => t
  | k, v :: vs => Thread.setRange (t.setReg (next d k) ⟨BitVec.ofNat 32 v, .P⟩) d (k + 1) vs

/-- The registers CBX writes (R150). -/
def cbxValue (dt : Ty) (ws : List Int) (sc : Nat) : List Nat :=
  match dt with
  | .n32 => [packBits 4 (ws.map (wrapInt 4))]
  | .s8 =>
    let v := packBits 8 (ws.map (wrapInt 8))
    [v % 2 ^ 32, v / 2 ^ 32]
  | _ =>
    let h (v : Int) : Nat := match scaleE sc with
      | none => nanCode dt
      | some e => rne dt ((ofInt v).scale (e - 1))
    let v := packBits 16 (ws.map h)
    (List.range 4).map (fun i => v / 2 ^ (32 * i) % 2 ^ 32)

/-- Registers CBX writes, by type. -/
def cbxN (dt : Ty) : Nat :=
  match dt with
  | .n32 => 1
  | .s8 => 2
  | _ => 4

/-- CBX (R150): reads the core's LQ2 table as it stands. -/
def execCbx (c : Ctl) (d a b : G) (dt : Ty) (s : State) : Out :=
  execLocal c 3 s (fun _ => precise [(d, cbxN dt)] [(a, 1), (b, 1)] [])
    (fun u =>
      let idx := u.t.nat a
      u.t.setRange d 0 (cbxValue dt (lq2Weights idx ((s.core u.b.core).lqEntry (idx % 512))) (u.t.nat b % 256)))

end Sys2Proof.Machine
end

