-- ==== Sys2Proof/Machine/Generator.lean ====
section
/-! DEFINITION. The generator (R122-R124) and the key order (R126-R128). -/

namespace Sys2Proof.Machine

/-- One update of the generator's two words (R122). -/
def rngNext (x y : DWord) : DWord × DWord :=
  let t := x ^^^ (x <<< 23)
  (y, t ^^^ y ^^^ (t >>> 18) ^^^ (y >>> 5))

/-- SM of R123. -/
def rngMix (z : DWord) : DWord :=
  let z := (z ^^^ (z >>> 30)) * 0xBF58476D1CE4E5B9#64
  let z := (z ^^^ (z >>> 27)) * 0x94D049BB133111EB#64
  z ^^^ (z >>> 31)

/-- The state RNGS gives a thread (R123). -/
def rngSeed (seed : DWord) (gid : Nat) : DWord × DWord :=
  let g : DWord := 0x9E3779B97F4A7C15#64
  (rngMix (seed + BitVec.ofNat 64 (2 * gid + 1) * g), rngMix (seed + BitVec.ofNat 64 (2 * gid + 2) * g))

/-- The generator's state as one 128-bit number, X in the low half. -/
def rngJoin (p : DWord × DWord) : Nat := p.1.toNat + p.2.toNat * 2 ^ 64
def rngSplit (v : Nat) : DWord × DWord := (BitVec.ofNat 64 v, BitVec.ofNat 64 (v / 2 ^ 64))

/-- A linear map over GF(2) on 128 bits, as the images of the unit vectors, applied to v (R124). -/
def gfApply : List Nat → Nat → Nat → Nat
  | [], _, _ => 0
  | c :: cs, i, v => (if v.testBit i then c else 0) ^^^ gfApply cs (i + 1) v

/-- The composition of two maps: first n, then m. -/
def gfMul (m n : List Nat) : List Nat := n.map (gfApply m 0)

/-- A map squared k times: its 2^k-th power. -/
def gfSquare : Nat → List Nat → List Nat
  | 0, m => m
  | k + 1, m => gfSquare k (gfMul m m)

/-- A power of a map, by the low k bits of n. -/
def gfPow : Nat → List Nat → Nat → List Nat
  | 0, _, _ => (List.range 128).map (fun i => 2 ^ i)
  | k + 1, m, n =>
    let r := gfPow k (gfMul m m) (n / 2)
    if n % 2 == 1 then gfMul m r else r

/-- The update of R122 as a map. -/
def rngMap : List Nat :=
  (List.range 128).map fun i =>
    let p := rngSplit (2 ^ i)
    rngJoin (rngNext p.1 p.2)

/-- The state after n·2^64 updates (R124). -/
def rngJump (x y : DWord) (n : Nat) : DWord × DWord :=
  rngSplit (gfApply (gfPow 32 (gfSquare 64 rngMap) n) 0 (rngJoin (x, y)))

/-- The thread with generator state p. -/
def Thread.setGen (t : Thread) (p : DWord × DWord) : Thread := { t with genX := p.1, genY := p.2 }

/-- RNGS (R123). -/
def execRngs (c : Ctl) (a : G) (s : State) : Out :=
  execLocal c 1 s (fun _ => precise [] [(a, 2)] [])
    (fun u => u.t.setGen (rngSeed (u.t.pair a) (u.b.gid u.tid)))

/-- RNG (R122). -/
def execRng (c : Ctl) (d : G) (s : State) : Out :=
  execLocal c 1 s (fun _ => precise [(d, 1)] [] [])
    (fun u => (u.t.setReg d ⟨lowWord (u.t.genX + u.t.genY), .P⟩).setGen (rngNext u.t.genX u.t.genY))

/-- RNGJ (R124). -/
def execRngj (c : Ctl) (a : G) (s : State) : Out :=
  execLocal c 1 s (fun _ => precise [] [(a, 1)] [])
    (fun u => u.t.setGen (rngJump u.t.genX u.t.genY (u.t.nat a)))

/-- Whether key a of a thread ranks above key b (R126). -/
def Thread.above (t : Thread) (ty : Ty) (mx : Bool) (a b : G) : Bool :=
  Machine.above ty mx (t.nat a) (t.nat (next a 1)) (t.nat b) (t.nat (next b 1))

/-- The key that ranks first, copied whole (R127). The rank of a 16-bit type leaves bits 31 to 16 of the register out (R126), so two
keys that rank alike may differ there: which of them is copied is left open (Config.keyTie, log 27).
[log 27: DESIGN CHOICE, safe] -/
def execKey (c : Ctl) (d a b : G) (t : Ty) (mx : Bool) (s : State) : Out :=
  execLocal c 1 s (fun _ => precise [(d, 2)] [(a, 2), (b, 2)] [])
    (fun u => u.t.setPair d
      (if u.t.above t mx b a || (!u.t.above t mx a b && Config.keyTie mx (u.t.val a) (u.t.val b)) then u.t.pair b
       else u.t.pair a))

/-- KMAX (R127). -/
def execKmax (c : Ctl) (d a b : G) (t : Ty) (s : State) : Out := execKey c d a b t true s
/-- KMIN (R127). -/
def execKmin (c : Ctl) (d a b : G) (t : Ty) (s : State) : Out := execKey c d a b t false s

/-- KCMP (R128). -/
def execKcmp (c : Ctl) (p : PF) (lt : Bool) (a b : G) (t : Ty) (s : State) : Out :=
  execLocal c 1 s (fun _ => precise [] [(a, 2), (b, 2)] [])
    (fun u => u.t.setPred p ⟨u.t.above t (!lt) a b, .P⟩)

end Sys2Proof.Machine
end

