-- ==== Sys2Proof/Machine/Records.lean ====
section
/-! DEFINITION. The records that describe memory and work: buffer records (R230, R231), launch, graph, job and phase records
(R22, R23, R26-R28). -/

namespace Sys2Proof.Machine

/-! ### Buffer records (R230, R231) -/

/-- Bits hi down to lo of a record. -/
def recBits (r : Rec) (hi lo : Nat) : Nat := r.toNat / 2 ^ lo % 2 ^ (hi - lo + 1)
def recSpace (r : Rec) : Nat := recBits r 127 126
def recA (r : Rec) : Bool := r.getLsbD 125
def recClamp (r : Rec) : Bool := r.getLsbD 124
def recSwz (r : Rec) : Nat := recBits r 123 122
def recRows (r : Rec) : Nat := recBits r 120 105
def recExtent (r : Rec) : Nat := if recRows r == 0 then recBits r 104 57 else recBits r 104 81
def recStride (r : Rec) : Nat := recBits r 80 57
def recBase (r : Rec) : Nat := recBits r 56 0

/-- The type the record declares for its lines (R230). -/
def recLt (r : Rec) : TBit := if recA r then .A else .P

/-- Whether an image is valid (R231, R259). -/
def recOk (r : Rec) : Bool :=
  let b := recBase r
  recSwz r != 3 && !r.getLsbD 121 && !(recRows r != 0 && recExtent r == 0)
    && (match recSpace r with
        | 1 => b < 2 ^ 19
        | 2 => b < 2 ^ 51
        | 3 => b < 2 ^ 24
        | _ => true)

/-! ### Launch records (R22, R23, R26) -/

/-- Bits hi down to lo of a record of bytes. -/
def field (r hi lo : Nat) : Nat := r / 2 ^ lo % 2 ^ (hi - lo + 1)

/-- Gangs of a block (R19). -/
def Shape.gangs (p : Shape) : Nat := (p.nthr + 31) / 32
/-- Register units of a thread (R20). -/
def Shape.units (p : Shape) : Nat := (p.nregs + 7) / 8
/-- Gangs of a block on quarter q (R19). -/
def Shape.onQuarter (p : Shape) (q : Nat) : Nat := (p.gangs + 3 - q) / 4

/-- Whether a block fits an empty core (R22, R23). -/
def Shape.fitsCore (p : Shape) : Bool :=
  decide (p.onQuarter 0 ≤ 8) && decide (p.onQuarter 0 * p.units ≤ 128) && decide (p.pscr ≤ 3072) && decide (p.ascr ≤ 1024)
    && decide (p.sbuf ≤ 2048)

/-- The fields of a launch record (R26). -/
def shapeOf (r : Nat) : Shape :=
  { nx := field r 404 384, ny := field r 425 405, nz := field r 446 426, nthr := field r 303 288, nregs := field r 287 280,
    pscr := field r 271 256, ascr := field r 383 373, sbuf := field r 372 362, rjto := field r 361 346,
    latb := field r 511 480, det := field r 345 345 == 1, idem := field r 344 344 == 1, pair := field r 343 343 == 1,
    tlsz := field r 319 304, tlbase := field r 248 192, param := BitVec.ofNat 128 (field r 191 64),
    code := BitVec.ofNat 57 (field r 56 0) }

/-- Whether the fields of a launch record lie in their ranges (R22, R23, R26). -/
def Shape.ok (p : Shape) : Bool :=
  p.nx != 0 && p.ny != 0 && p.nz != 0 && decide (p.nblk < 2 ^ 32) && decide (1 ≤ p.sbuf) && decide (p.sbuf ≤ 1024)
    && decide (1 ≤ p.nthr) && decide (p.nthr ≤ 1024) && decide (1 ≤ p.nregs) && p.tlbase % 128 == 0
    && p.code.toNat % 8 == 0 && recOk p.param && p.fitsCore

/-- The shape of a valid launch record; none for one that R26 or R23 makes invalid. -/
def launchShape (bytes : List Byte) : Option Shape :=
  let r := ofBytes bytes
  let p := shapeOf r
  let reserved := field r 479 447 + field r 342 320 + field r 279 272 + field r 255 249 + field r 63 57
  if reserved == 0 && p.ok then some p else none

/-! ### Graphs, phases and jobs (R27, R28) -/

/-- Nodes a graph record's first two words give; none when a reserved bit is set. -/
def graphCount (bytes : List Byte) : Option Nat :=
  let r := ofBytes bytes
  if r / 64 == 0 then some (r % 64 + 1) else none

/-- A node of a graph record: the launch record's address and the predecessor mask; none when it breaks R27. -/
def graphNode (i : Nat) (bytes : List Byte) : Option (Nat × DWord) :=
  let r := ofBytes bytes
  let va := field r 63 0
  let pm := field r 127 64
  if va % 64 == 0 && va < 2 ^ 57 && pm < 2 ^ i then some (va, BitVec.ofNat 64 pm) else none

/-- The fields of a job record (R28): DONEW, TAG, NPH, PHASES; none when it breaks the rules. -/
def jobFields (bytes : List Byte) : Option (Nat × Word × Nat × Nat) :=
  let r := ofBytes bytes
  let ph := field r 63 0
  let dn := field r 191 128
  let n := field r 79 64
  if field r 511 192 == 0 && field r 95 80 == 0 && n != 0 && ph % 16 == 0 && ph < 2 ^ 57 && dn % 8 == 0 && dn < 2 ^ 57 then
    some (dn, BitVec.ofNat 32 (field r 127 96), n, ph)
  else none

/-- A phase entry (R28): the graph-address array and the graph count; none when it breaks the rules. -/
def phaseFields (bytes : List Byte) : Option (Nat × Nat) :=
  let r := ofBytes bytes
  let n := field r 79 64
  if field r 127 80 == 0 && n != 0 && n ≤ 4096 && field r 63 0 < 2 ^ 57 then some (field r 63 0, n) else none

end Sys2Proof.Machine
end

