-- ==== Sys2Proof/Machine/Memory.lean ====
section
/-! DEFINITION. From an offset to a position (R229, R233, R234, R259, R260), translation (R238-R241), and what a read returns: bytes
of the share, the L1, the home and the scratchpads (R236, R257, R284-R286, R290-R292, R318). -/

namespace Sys2Proof.Machine

/-- The position BASE plus offset o of n bytes, when it is in bounds of the record (R180, R233). -/
def recPos (r : Rec) (o : Int) (n : Nat) : Option Nat :=
  if o < 0 then none
  else
    let o := o.toNat
    let e := recExtent r
    if recRows r == 0 then (if o + n ≤ e then some (recBase r + o) else none)
    else if o + n ≤ e * recRows r && o / e == (o + n - 1) / e then
      some (recBase r + o / e * recStride r + o % e)
    else none

/-- A position swizzled (R234). -/
def swizzle (m a : Nat) : Nat :=
  match m with
  | 1 => a - a / 16 % 4 * 16 + ((a / 16 % 4) ^^^ (a / 128 % 4)) * 16
  | 2 => a - a / 16 % 8 * 16 + ((a / 16 % 8) ^^^ (a / 128 % 8)) * 16
  | _ => a

/-- The offset of a lane: the offset register and the displacement, both signed (R233). -/
def offsetOf (g : Word) (disp : Int) : Int := g.toInt + disp

/-- The block of the same launch, and copy of a pair, at a linear index on the cluster of a core (R260, R330). -/
def State.onCluster (s : State) (b : Block) (lin : Nat) : Option Block :=
  s.blocks.find? fun x => x.launch == b.launch && x.lin == lin && x.trailing == b.trailing && x.resident && !x.killed
    && clusterOf x.core == clusterOf b.core

/-- Where a lane's access goes (R233, R260). -/
inductive Located where
  | global (va : Nat)
  | scr (owner pos : Nat)
  | clamped
  | absent
  | fault (code : Nat)
  deriving DecidableEq, Repr

/-- The halves of 32 bytes the other way round. -/
def swapHalves (bs : List Byte) : List Byte := bs.drop 16 ++ bs.take 16

/-- A position checked for alignment and swizzled. -/
def place (r : Rec) (al a : Nat) (f : Nat → Located) : Located :=
  if a % al != 0 then .fault 0x11 else f (swizzle (recSwz r) a)

/-- An access that is out of bounds (R233). -/
def outOfBounds (r : Rec) : Located := if recClamp r then .clamped else .fault 0x10

/-- A position in a block's allocation (R233, R259). -/
def inScr (r : Rec) (al n q : Nat) (x : Block) : Located :=
  if q + n ≤ x.abytes then place r al q (fun a => .scr x.bid a) else outOfBounds r

/-- A lane's access of n bytes aligned to al, through record r at offset o (R229, R233, R234, R259, R260).
[log 40: DEDUCED, unsafe] -/
def State.locate (s : State) (b : Block) (tid : Nat) (r : Rec) (o : Int) (n al : Nat) : Located :=
  match recPos r o n with
  | none => outOfBounds r
  | some q =>
    match recSpace r with
    | 0 => place r al (q % 2 ^ 57) .global
    | 1 => inScr r al n q b
    | 2 =>
      let lin := recBase r / 2 ^ 19
      let q := q - lin * 2 ^ 19
      if lin == b.lin then inScr r al n q b
      else
        match s.onCluster b lin with
        | none => .absent
        | some x => inScr r al n q x
    | _ =>
      let tl := b.shape.tlsz * 128
      if q + n ≤ tl then place r al ((b.shape.tlbase + b.gid tid * tl + q) % 2 ^ 57) .global else outOfBounds r

/-! ### Translation (R239-R241, R383, R402) -/

/-- Why a line access reads or writes: what a leaf must allow (R241). -/
inductive Why where
  | read
  | write
  | fetch
  deriving DecidableEq, Repr

/-- The I/O die as a source of traffic: it is never behind the firewall (R383). -/
def ioDie : Nat := 8

/-- Whether the firewall of a die lets traffic to another die pass (R383); a die always reaches itself. -/
def State.fwOpen (s : State) (src dst : Nat) : Bool :=
  src == dst || src == ioDie || ((s.die src).fw.getLsbD dst && (s.die dst).fw.getLsbD src)

/-- Bit e of SEEN set at a die (R383). -/
def State.fwSeen (s : State) (die e : Nat) : State := s.modDie die fun d => { d with fw := d.fw ||| BitVec.ofNat 64 (2 ^ (8 + e)) }

/-- A refusal of the firewall is noted at the source die, and at the home die when that is the one that refuses (R383).
[log 79: DEDUCED, safe] -/
def State.fwRefuse (s : State) (src dst : Nat) : State :=
  let t := s.fwSeen src dst
  (if (s.die src).fw.getLsbD dst then t.fwSeen dst src else t).event (Config.eventCode 0).toNat 0 ((s.die src).reg.toNat % 8)

/-- Whether a physical line can be reached from a die: cause 4 when it cannot, with the firewall's note (R383, R402, R412).
[log 9: DEDUCED, unsafe] -/
def State.reach (s : State) (src : Nat) (pa : Nat) : Bool × State :=
  match s.target pa with
  | .none => (false, s)
  | .hbm d => if s.fwOpen src d then (true, s) else (false, s.fwRefuse src d)
  | _ => (true, s)

/-! ### The injector (R353) -/

/-- A candidate event of target bit tgt on a die: whether the injector corrupts it.
[log 31: DEDUCED, unsafe] -/
def State.candidate (s : State) (tgt die : Nat) : Bool × State :=
  let c := s.injCtl.toNat
  let d := (s.die die).reg.toNat
  if c % 2 == 1 && c / 2 ^ (35 + tgt) % 2 == 1 && d / 8 % 2 == 1 && c / 2 ^ (40 + d % 8) % 2 == 1 then
    let n := s.injCount + 1
    let draw := (s.injX + s.injY).toNat % 2 ^ 16
    let g := rngNext s.injX s.injY
    let hit := if c / 2 % 2 == 1 then n == c / 2 ^ 48 else decide (draw < c / 2 ^ 16 % 2 ^ 16)
    let off := hit && c / 2 % 2 == 1
    (hit, { s with injCount := n, injX := g.1, injY := g.2, injCtl := if off then s.injCtl &&& ~~~1#64 else s.injCtl })
  else (false, s)

/-! ### Translation (R238-R241) -/

/-- The index bits of a level and the page size of a leaf there (R240). -/
def levelIdx (l va : Nat) : Nat :=
  match l with
  | 5 => va / 2 ^ 48 % 512
  | 4 => va / 2 ^ 39 % 512
  | 3 => va / 2 ^ 30 % 512
  | 2 => va / 2 ^ 21 % 512
  | 1 => va / 2 ^ 16 % 32
  | _ => va / 2 ^ 12 % 16
def levelSize (l : Nat) : Nat :=
  match l with
  | 3 => 2 ^ 30
  | 2 => 2 ^ 21
  | 1 => 2 ^ 16
  | _ => 2 ^ 12

/-- The reserved bits of a table entry (R239). -/
def pteReserved (e : Nat) : Bool := e / 2 ^ 56 != 0 || e / 2 ^ 52 % 4 != 0 || e / 16 % 8 != 0

/-- The walk from level l with table t (R240): a leaf, or the cause. Each entry read is a candidate event of the injector (R353). fuel is
l + 1.
[log 31: DEDUCED, unsafe] -/
def walkFrom (src va : Nat) : Nat → Nat → State → Except Nat Leaf × State
  | 0, _, s => (.error 4, s)
  | l + 1, t, s =>
    let p := s.reach src (t + 8 * levelIdx l va)
    if !p.1 then (.error 4, p.2)
    else
      let s := p.2
      let s := (s.candidate 2 src).2
      let e := ofBytes (s.readMem (t + 8 * levelIdx l va) 8)
      let adr := e / 2 ^ 7 % 2 ^ 45 * 2 ^ 7
      if e % 2 == 0 then (.error 1, s)
      else if pteReserved e then (.error 4, s)
      else if e / 2 % 2 == 1 then
        if 3 < l || adr % levelSize l != 0 then (.error 4, s)
        else (.ok { pa := adr, size := levelSize l, w := e / 4 % 2 == 1, x := e / 8 % 2 == 1, own := e / 2 ^ 54 % 4 }, s)
      else if l == 0 then (.error 4, s)
      else if (3 ≤ l && adr % 4096 != 0) || (l == 2 && adr % 256 != 0) then (.error 4, s)
      else walkFrom src va l adr s

/-- The walk of a function's tables (R238, R240). -/
def State.walk (s : State) (src vf va : Nat) : Except Nat Leaf × State :=
  let root := (s.vf vf).ptroot.toNat
  if root % 2 == 0 then (.error 1, s) else walkFrom src va 6 (root / 2 ^ 12 % 2 ^ 40 * 2 ^ 12) s

/-- A cached translation of an address (R241). -/
def Vf.cached (v : Vf) (va : Nat) : Option Leaf :=
  match v.tlb.find? (fun e => e.va ≤ va && va < e.va + e.size) with
  | none => none
  | some e => some { pa := e.pa, size := e.size, w := e.w, x := e.x, own := e.own }

/-- The leaf an access uses: a cached translation or the walk, by a free choice when both exist (R241); none while VF.PTROOT.EN is 0,
which is cause 1 (R238). -/
def State.leafNow (s : State) (src vf va : Nat) : Except Nat Leaf × State :=
  if !(s.vf vf).ptroot.getLsbD 0 then (.error 1, s)
  else
  match (s.vf vf).cached va with
  | some e =>
    let p := s.coin
    if p.1 then (.ok e, p.2) else p.2.walk src vf va
  | none =>
    let p := s.walk src vf va
    match p.1 with
    | .error c => (.error c, p.2)
    | .ok e =>
      let t : Tlb := { va := va - va % e.size, size := e.size, pa := e.pa, w := e.w, x := e.x, own := e.own }
      (.ok e, p.2.modVf vf fun v => { v with tlb := t :: v.tlb })

/-- A line of a function's VA, as Memo names it. -/
def memoLine (vf va : Nat) : Nat := vf * 2 ^ 50 + va / 128

/-- The leaf of an access; the lanes of a packet on one line share it (R235). -/
def State.leafOf (s : State) (src vf va : Nat) : Except Nat Leaf × State :=
  match s.memo with
  | none => s.leafNow src vf va
  | some m =>
    match m.leaves.find? (fun x => x.1 == memoLine vf va) with
    | some (_, some e, _) => (.ok e, s)
    | some (_, none, c) => (.error c, s)
    | none =>
      let p := s.leafNow src vf va
      let x : Option Leaf × Nat := match p.1 with | .ok e => (some e, 0) | .error c => (none, c)
      (p.1, { p.2 with memo := some { m with leaves := (memoLine vf va, x) :: m.leaves } })

/-- The cause of an access that waits for a page in transit: no record is written (R396). -/
def waitCause : Nat := 0

/-- What OWN of a leaf makes of an access (R396): a Remote page is cause 5, a Gone one is "moved", cause 6 (R400); an access to a page
being transferred waits. -/
def ownCause (own : Nat) : Nat := match own with | 1 => 5 | 2 => waitCause | _ => 6

/-- The translation of an access from a die: the physical address, or the cause (R240, R241, R396, R402).
[log 81: DEDUCED, unsafe] -/
def State.translate (s : State) (src vf va : Nat) (why : Why) : Except Nat Nat × State :=
  let p := s.leafOf src vf va
  match p.1 with
  | .error c => (.error c, p.2)
  | .ok e =>
    if why == .write && !e.w then (.error 2, p.2)
    else if why == .fetch && !e.x then (.error 3, p.2)
    else if e.own != 0 then (.error (ownCause e.own), p.2)
    else
      let pa := e.pa + va % e.size
      let q := p.2.reach src pa
      if q.1 then (.ok pa, q.2) else (.error 4, q.2)

/-! ### Scratchpad bytes (R25, R257, R286, R318) -/

/-- A byte of a block's allocation as the bank holds it.
[log 5: DESIGN CHOICE, safe] -/
def Block.bankByte (b : Block) (pos : Nat) : Byte := b.scr.get (Config.scratchByte b.scr0 pos) pos

/-- Whether a reader of a block must see a write (R284, R286, R227, R268): one of its block before its floor, one it knows of, among
them its own earlier ones (Know.own). -/
def Know.must (k : Know) (bid : Nat) (w : Writer) (wid : Nat) : Bool :=
  match w with
  | .engine c => k.cmds.contains c
  | .thread b t =>
    (b == bid && decide (wid < k.floor)) || k.writes.any (fun x => x.1 == b && x.2.1 == t && decide (wid < x.2.2))

/-- Whether a reader must miss a write: its thread's own, later in program order (R248, R284). -/
def Know.mustNot (k : Know) (bid tid : Nat) (w : Writer) (wid : Nat) : Bool := w == .thread bid tid && !k.must bid w wid

/-- Whether a write that a reader may miss is seen at a position, by a free choice that the lanes of a packet share (R235, R286). -/
def State.seesWrite (s : State) (wid pos : Nat) : Bool × State :=
  match s.memo with
  | none => s.coin
  | some m =>
    match m.seen.find? (fun x => x.1 == wid && x.2.1 == pos) with
    | some x => (x.2.2, s)
    | none =>
      let p := s.coin
      (p.1, { p.2 with memo := some { m with seen := (wid, pos, p.1) :: m.seen } })

/-- The value of a byte with its earlier writes, newest first: each write the reader need not see may be missed (R286). -/
def pickOld (k : Know) (bid tid : Nat) : List Was → Byte → State → Byte × State
  | [], v, s => (v, s)
  | w :: ws, v, s =>
    if k.must bid w.by_ w.wid then (v, s)
    else if k.mustNot bid tid w.by_ w.wid then pickOld k bid tid ws w.old s
    else
      let p := s.seesWrite w.wid w.pos
      if p.1 then (v, p.2) else pickOld k bid tid ws w.old p.2

/-- A byte read from the approximate part: the low bits of the level may differ (R318). -/
def lossy (level : Nat) (v : Byte) (free : Nat) : Byte :=
  let m := 2 ^ lossBits level
  BitVec.ofNat 8 (v.toNat / m * m + free % m)

/-- A byte of a block's allocation as a thread reads it. -/
def State.scrByte (s : State) (k : Know) (bid tid : Nat) (o : Block) (pos : Nat) : Byte × State :=
  let p := pickOld k bid tid (o.hist.filter (fun w => w.pos == pos)) (o.bankByte pos) s
  if pos < o.pbytes then p
  else (lossy o.level p.1 (Config.freeWord p.2.free).toNat, { p.2 with free := p.2.free + 1 })

/-- n bytes of a block's allocation as a thread reads them. -/
def State.scrBytes (k : Know) (bid tid : Nat) (o : Block) : Nat → Nat → State → List Byte × State
  | 0, _, s => ([], s)
  | n + 1, pos, s =>
    let p := s.scrByte k bid tid o pos
    let q := State.scrBytes k bid tid o n (pos + 1) p.2
    (p.1 :: q.1, q.2)

/-- A thread watching a line is promoted by another agent's write to it (R55); only a thread of block own when own is given. A
line is (0, VA / 128) or (1 + block, line). -/
def State.promote (s : State) (vf : Nat) (line : Nat × Nat) (byBid byTid : Nat) (own : Option Nat) : State :=
  { s with blocks := s.blocks.map fun b =>
      if b.vf == vf && (own.isNone || own == some b.bid) && b.threads.any (fun t => t.mode == .demoted && t.spin.watched.contains line) then
        { b with threads := b.threads.mapIdx fun i t =>
            if t.mode == .demoted && t.spin.watched.contains line && !(b.bid == byBid && i == byTid)
            then { t with mode := .normal, spin := { t.spin with idle := 0, watched := [] } } else t }
      else b }

/-- Threads of every function that watch a physical line through one of its translations are promoted (R55). -/
def State.promotePa (s : State) (pa byBid byTid : Nat) : State :=
  s.vfs.foldl (fun s f =>
    f.2.tlb.foldl (fun s e =>
      if e.pa ≤ pa && pa < e.pa + e.size then s.promote f.1 (0, (e.va + (pa - e.pa)) / 128) byBid byTid none else s) s) s

/-- Bytes written to a block's bank by a writer; the history keeps what they replaced. -/
def Block.writeScr (b : Block) (w : Writer) (wid : Nat) : Nat → List Byte → Block
  | _, [] => b
  | pos, v :: vs =>
    Block.writeScr { b with scr := b.scr.set pos v,
                            hist := { pos := pos, old := b.bankByte pos, by_ := w, wid := wid } :: b.hist } w wid (pos + 1) vs

/-- The block and thread of a writer; an engine is no thread. -/
def Writer.bid : Writer → Nat
  | .thread b _ => b
  | .engine _ => 0
def Writer.tid : Writer → Nat
  | .thread _ t => t
  | .engine _ => 2000

/-- Bytes written to a block's bank by a writer (R229, R55). -/
def State.writeScr (s : State) (owner pos : Nat) (bs : List Byte) (w : Writer) : State :=
  let p := s.newId
  let s := p.2.modBlock owner (fun b => b.writeScr w p.1 pos bs)
  match s.block? owner with
  | none => s
  | some b => s.promote b.vf (1 + owner, pos / 128) w.bid w.tid none

/-- n bytes of a block's bank as they stand (R294). -/
def Block.bank (b : Block) (pos n : Nat) : List Byte := (List.range n).map (fun i => b.bankByte (pos + i))

/-! ### Global bytes (R284-R292) -/

/-- The line a core's L1 holds of a physical line. -/
def Core.l1Line (c : Core) (line : Nat) : Option Line := c.l1.find? (fun l => l.line == line)

/-- Whether an L1's copy of a physical line still stands, by a free choice that the lanes of a packet share (R235). -/
def State.copyStands (s : State) (line : Nat) : Bool × State :=
  match s.memo with
  | none => s.coin
  | some m =>
    match m.copies.find? (fun x => x.1 == line) with
    | some x => (x.2, s)
    | none =>
      let p := s.coin
      (p.1, { p.2 with memo := some { m with copies := (line, p.1) :: m.copies } })

/-- The line of pa as a load of a core sees it, and the line's tag at its home (R309): the L1's copy when the load may hit it, it has
the home's tag and the free choice says it still stands, else the home's line, then put into the L1 unless the load does not allocate
(R249, R290). The L1 finds a line under the function and virtual address that loaded it.
[log 28: DEDUCED, unsafe] -/
def State.lineFor (s : State) (core vf va pa : Nat) (nl1 : Bool) : List Byte × TBit × State :=
  let l := pa / 128
  let home : List Byte × TBit := (s.readMem (l * 128) 128, s.tag pa)
  if nl1 then (home.1, home.2, s)
  else
    let fill (s : State) : List Byte × TBit × State :=
      let n : Line := { vf := vf, key := va / 128, line := l, ty := home.2, data := home.1 }
      (home.1, home.2, s.modCore core fun c => { c with l1 := n :: c.l1.filter (fun x => x.line != l) })
    match (s.core core).l1Line l with
    | none => fill s
    | some x =>
      let p := s.copyStands l
      if p.1 && x.vf == vf && x.key == va / 128 && x.ty == home.2 then (x.data, x.ty, p.2) else fill p.2

/-- The byte of an entry of the share at a physical address: its data byte, or zero for an LTAG that changes its line
(R254); none when the entry holds none there. -/
def Entry.byteAt (e : Entry) (pa : Nat) : Option Byte :=
  if !e.filled then none
  else
    match e.kind with
    | .store => if e.pa ≤ pa && pa < e.pa + e.bytes.length then e.bytes[pa - e.pa]? else none
    | .ltag _ zero => if zero && pa / 128 == e.pa / 128 then some 0 else none
    | _ => none

/-- The byte that the share's entries, newest first, give a physical address: those the thread must see are never missed, its own
later ones always, each other by a free choice (R248, R284, R286); none when no entry is seen.
[log 28: DEDUCED, unsafe] -/
def shareByte (k : Know) (bid tid pa : Nat) : List Entry → State → Option Byte × State
  | [], s => (none, s)
  | e :: es, s =>
    match e.byteAt pa with
    | none => shareByte k bid tid pa es s
    | some v =>
      if k.must bid (.thread bid e.tid) e.wid then (some v, s)
      else if k.mustNot bid tid (.thread bid e.tid) e.wid then shareByte k bid tid pa es s
      else
        let p := s.seesWrite e.eid pa
        if p.1 then (some v, p.2) else shareByte k bid tid pa es p.2

/-- What the share gives n bytes from a physical address. -/
def shareBytes (k : Know) (bid tid : Nat) (es : List Entry) : Nat → Nat → State → List (Option Byte) × State
  | 0, _, s => ([], s)
  | n + 1, pa, s =>
    let p := shareByte k bid tid pa es s
    let q := shareBytes k bid tid es n (pa + 1) p.2
    (p.1 :: q.1, q.2)

/-- The entries of a block's commits in progress and its share, newest first. -/
def Block.entries (b : Block) : List Entry := (b.handed ++ b.share).reverse

/-- The type of the value that a load of a line reads: that of the newest LTAG that changes it in the share, if the thread must see it,
else the home's (R254).
[log 30: DEDUCED, unsafe] -/
def ltagType (k : Know) (bid tid line : Nat) (es : List Entry) (home : TBit) : TBit :=
  match es.find? (fun e => e.filled && e.pa / 128 == line && (match e.kind with | .ltag _ true => true | _ => false)
      && !k.mustNot bid tid (.thread bid e.tid) e.wid) with
  | some e =>
    (match e.kind with
     | .ltag a _ => if k.must bid (.thread bid e.tid) e.wid then (if a then .A else .P) else home
     | _ => home)
  | none => home

/-- What a load of a thread reads at a physical address: n bytes of one line and the type of their value (R237, R254, R284).
[log 28: DEDUCED, unsafe] [log 30: DEDUCED, unsafe] -/
def State.loadBytes (s : State) (b : Block) (tid : Nat) (k : Know) (va pa n : Nat) (nl1 : Bool) :
    List Byte × TBit × State :=
  let l := s.lineFor b.core b.vf va pa nl1
  let p := shareBytes k b.bid tid b.entries n pa l.2.2
  ((List.range n).map (fun i => ((p.1.getD i none).getD (l.1.getD (pa % 128 + i) 0))), ltagType k b.bid tid (pa / 128) b.entries l.2.1, p.2)

/-- Whether an access reads global memory into its thread (R250, R252, R299, R38, R155). -/
def MemK.loads : MemK → Bool
  | .load .. | .bget _ | .acq .. | .lnch _ | .refillRet | .refillRej _ => true
  | _ => false

/-- Bytes found before stand in place of those read now (R285). -/
def Acc.overlay (acc : Acc) (bs : List Byte) : List Byte :=
  bs.mapIdx fun i v => match acc.kept.find? (fun x => x.1 == acc.a + i) with | some x => x.2 | none => v

/-- Whether an access of a thread overlaps a reserved place of its block (R248); a later place of its own thread is none. -/
def Block.reserved (b : Block) (tid wid va n : Nat) : Bool :=
  b.share.any fun e => !e.filled && !(e.tid == tid && decide (wid ≤ e.wid)) && decide (e.va < va + n)
    && decide (va < e.va + (match e.kind with | .ltag .. => 128 | _ => e.bytes.length))

/-- Whether a poisoned entry of the share is forwarded to a load (R339). -/
def Block.badForward (b : Block) (pa n : Nat) : Bool :=
  b.entries.any fun e => e.bad && (List.range n).any (fun i => (e.byteAt (pa + i)).isSome)

end Sys2Proof.Machine
end

