-- ==== Sys2Proof/Machine/Home.lean ====
section
/-! DEFINITION. Acts at a home: entries of a commit, atomics, reductions, sync objects, tags (R236, R254, R288, R294, R297, R300),
with the releases they leave (R290, R292), the injector's candidate events (R353) and messages to other packages (R406). -/

namespace Sys2Proof.Machine

/-! ### The injector (R353) -/

/-- An uncorrectable error that a block has consumed is handled next (R340). Code 0x90 stands for a paired mismatch (R331). -/
def State.consumes (s : State) (bid code island : Nat) : State :=
  { s with agenda := .ueConsumed bid (BitVec.ofNat 8 code) island :: s.agenda }

/-- The island of a core's precise rail (R417). -/
def coreIsland (core : Nat) : Nat := 124 * (core / 48) + core % 48

/-- n ECC-protected reads by a core for a block (R339, R353): candidate events of target bit 2; the block consumes one that an
injection makes uncorrectable. -/
def State.eccReads (bid core : Nat) : Nat → State → State
  | 0, s => s
  | n + 1, s =>
    let p := s.candidate 2 (dieOf core)
    State.eccReads bid core n (if p.1 then p.2.consumes bid 0x91 (coreIsland core) else p.2)

/-- A line of memory read for a block: it consumes a poisoned one (R339). bad: the bytes came poisoned from somewhere else. -/
def State.eccLine (s : State) (b : Block) (pa : Nat) (bad : Bool) : State :=
  if bad || s.poisoned.contains (pa / 128) then s.consumes b.bid 0x91 (coreIsland b.core) else State.eccReads b.bid b.core 1 s

/-- n bytes of a block's precise granules read by whoever it is (R343): a candidate event of target bit 4; the owner consumes a
poisoned granule. -/
def State.eccScr (s : State) (o : Block) (pos n : Nat) : State :=
  let p := if o.badScr.any (fun l => l == pos / 128 || l == (pos + n - 1) / 128) then (true, s)
    else if pos < o.pbytes then s.candidate 4 (dieOf o.core) else (false, s)
  if p.1 then { p.2 with agenda := .scratchUe o.bid (coreIsland o.core) :: p.2.agenda } else p.2

/-- n bytes of a block's allocation read by an engine: one such read for each granule. -/
def State.eccRange (s : State) (o : Block) (pos n : Nat) : State :=
  if n == 0 then s
  else (List.range ((pos + n - 1) / 128 + 1 - pos / 128)).foldl (fun s i => s.eccScr o (128 * (pos / 128 + i)) 1) s

/-- A line of memory becomes poisoned, or is whole again (R339). -/
def State.poison (s : State) (line : Nat) (bad : Bool) : State :=
  { s with poisoned := if bad then (if s.poisoned.contains line then s.poisoned else line :: s.poisoned)
      else s.poisoned.filter (· != line) }

/-! ### Watchpoints (R358) and the time series' counters (R375) -/

/-- Bits hi down to lo of a register. -/
def bitsOf (r : DWord) (hi lo : Nat) : Nat := r.toNat / 2 ^ lo % 2 ^ (hi - lo + 1)

/-- The armed watchpoints of a cluster that an access of function vf to the bytes as touches: bit is the kind's bit of WPCk.KIND; space 1 names
a scratchpad byte by the block's linear index and the offset (R358). -/
def Cluster.watching (c : Cluster) (vf bit space : Nat) (as : List Nat) : List Nat :=
  (List.range 8).filter fun k =>
    let r := c.wpc.get 0 k
    let lo := bitsOf (c.wpa.get 0 k) 56 0
    r.getLsbD 0 && bitsOf r 47 40 == vf && r.getLsbD bit && bitsOf r 1 1 == space
      && as.any (fun a => decide (lo ≤ a) && decide (a ≤ lo + bitsOf r 23 16))

/-- An access performed at a bank or home is matched against a cluster's watchpoints; b, team and x tell who created it: its block, the
threads of its instruction and where that stood.
[log 51: DEDUCED, unsafe] -/
def State.watch (s : State) (cl bit kind space : Nat) (as : List Nat) (b : Block)
    (team : List (Nat × Nat)) (x : Site) : State :=
  match (s.cluster cl).watching b.vf bit space as with
  | [] => s
  | ks =>
    let ret := team.all fun m => match s.thread? m.1 m.2 with | some t => t.life != .live | none => true
    let hit (k : Nat) : Hit :=
      { wp := k, kind := kind, iblk := b.lin, ictr := s.launchHandle b.launch, ispo := x.spo, core := b.core, ret := ret, bkn := 0 }
    { s.modCluster cl (fun c => { c with hits := c.hits ++ ks.map hit }) with agenda := .watchpointMatch cl :: s.agenda }

/-- An access to a global byte, as the issuer's cluster watches it. -/
def State.watchGlobal (s : State) (bit kind va n : Nat) (b : Block) (team : List (Nat × Nat)) (x : Site) : State :=
  s.watch (clusterOf b.core) bit kind 0 ((List.range n).map (va + ·)) b team x

/-- An access to a byte of block o's allocation, as o's cluster watches it. -/
def State.watchScr (s : State) (bit kind : Nat) (o : Block) (pos n : Nat) (b : Block) (team : List (Nat × Nat)) (x : Site) :
    State :=
  s.watch (clusterOf o.core) bit kind 1 ((List.range n).map (o.lin * 2 ^ 19 + pos + ·)) b team x

/-- Keys of a die's counters: C0 to C7 of core k, X0 to X3 of cluster k, D0 to D7 (R375). -/
def cKey (core k : Nat) : Nat := 8 * (core % 48) + k
def xKey (cluster k : Nat) : Nat := 384 + 4 * (cluster % 12) + k
def dKey (k : Nat) : Nat := 432 + k

/-- A die's counter advances while sampling is enabled (R374, R375). -/
def State.count (s : State) (die key n : Nat) : State :=
  if s.tsCtl.getLsbD 0 then s.modDie die fun d => { d with counts := d.counts.set key (d.counts.get 0 key + n) } else s

/-! ### Releases and acquires -/

/-- What two parties know together (R286, R290). -/
def Know.join (a b : Know) : Know :=
  { floor := if a.floor < b.floor then b.floor else a.floor
    writes := a.writes ++ b.writes.filter (fun w => !a.writes.contains w)
    cmds := a.cmds ++ b.cmds.filter (fun w => !a.cmds.contains w) }

/-- Whether scope sc of a party (block bid on core c) contains a party of block bid' on core c' (R291). -/
def Scope.has (sc : Scope) (bid c bid' c' : Nat) : Bool :=
  match sc with
  | .thread => false
  | .blk => bid == bid'
  | .cl => c / 4 == c' / 4
  | .die => c / 48 == c' / 48
  | .dev => true
  | .sys => true

/-- A thread's knowledge with its own earlier writes, as a release passes it on. -/
def Know.own (k : Know) (bid tid n : Nat) : Know := { k with writes := (bid, tid, n) :: k.writes }

/-- A release of a word is recorded. -/
def State.release (s : State) (r : Release) : State := { s with rels := r :: s.rels }

/-- The releases that an access to a word may synchronize with (R290, R292). -/
def State.heard (s : State) (space a : Nat) : List Heard :=
  (s.rels.filter (fun r => r.space == space && r.a == a)).map fun r => { bid := r.bid, core := r.core, sc := r.sc, know := r.know }

/-- What a party of block bid on core c comes to know of releases by acquiring at scope sc: of those whose scope contains it and that
its own contains (R291). -/
def knowOf (hs : List Heard) (sc : Scope) (bid core : Nat) : Know :=
  (hs.filter (fun r => Scope.has sc bid core r.bid r.core && Scope.has r.sc r.bid r.core bid core)).foldl
    (fun k r => k.join (if r.bid == bid then r.know else { r.know with floor := 0 })) Know.none

/-- What a party of block bid on core c comes to know by acquiring a word at scope sc (R286, R290, R292). -/
def State.learn (s : State) (space a : Nat) (sc : Scope) (bid core : Nat) : Know := knowOf (s.heard space a) sc bid core

/-- A plain write of bytes ends the chain of atomics on the words it touches (R292). -/
def State.overwritten (s : State) (space a n : Nat) : State :=
  { s with rels := s.rels.filter (fun r => r.obj || !(r.space == space && decide (r.a < a + n) && decide (a < r.a + 8))) }

/-! ### Writing at a home -/

/-- The bytes bs at pa in the L1's copy of the line that a core holds (R288). -/
def State.updateL1 (s : State) (core pa : Nat) (bs : List Byte) : State :=
  s.modCore core fun c => { c with
    l1 := c.l1.map fun l =>
      if l.line == pa / 128 then
        { l with data := l.data.take (pa % 128) ++ bs ++ l.data.drop (pa % 128 + bs.length) }
      else l }

/-- The L1's copy of a line as its home holds it, with its tag (R254, R288). -/
def State.refreshL1 (s : State) (core pa : Nat) : State :=
  let l := pa / 128
  s.modCore core fun c => { c with
    l1 := c.l1.map fun x => if x.line == l then { x with data := s.readMem (l * 128) 128, ty := s.tag pa } else x }

/-- Bytes written at the home of one line: the line, the L1 copy of the committing core, the threads watching the line
(R55, R288). va is the address the writer used. -/
def State.writeHome (s : State) (vf core pa : Nat) (bs : List Byte) (va byBid byTid : Nat) : State :=
  let s := (s.writeMem pa bs).updateL1 core pa bs
  (s.promote vf (0, va / 128) byBid byTid none).promotePa pa byBid byTid

/-- A thread's earlier loads that still wait for bytes from va keep bs, which the thread's own later access numbered wid finds there
(R248, R284, R285).
[log 100: DEDUCED, unsafe] -/
def State.keepFound (s : State) (bid tid wid va : Nat) (bs : List Byte) : State :=
  let lacks (a : Acc) (x : Nat) : Bool := decide (a.a ≤ x) && decide (x < a.a + a.n) && !(a.kept.any (fun y => y.1 == x))
  let found (a : Acc) : List (Nat × Byte) :=
    (List.range bs.length).filterMap fun i => if lacks a (va + i) then some (va + i, bs.getD i 0) else none
  let keep (a : Acc) : Acc :=
    if a.bid == bid && a.tid == tid && a.kind.loads && a.space == 0 && decide (a.wid < wid) then { a with kept := a.kept ++ found a }
    else a
  { s with oplog := s.oplog.map fun o => { o with acc := o.acc.map keep } }

/-- As keepFound, with the n bytes that the home holds at pa.
[log 100: DEDUCED, unsafe] -/
def State.keepOld (s : State) (bid tid wid va pa n : Nat) : State := s.keepFound bid tid wid va (s.readMem pa n)

/-- The new value of an atomic (R297): old and operand as codes of the type. -/
def aopNew (op : AOp) (t : Ty) (old v cmp : Nat) : Nat :=
  let w := t.bits
  match op with
  | .add => (old + v) % 2 ^ w
  | .min => if intOf t v < intOf t old then v else old
  | .max => if intOf t old < intOf t v then v else old
  | .and => old &&& v
  | .or => old ||| v
  | .xor => old ^^^ v
  | .exch => v
  | .cas => if old == cmp then v else old
  | .inc => if v ≤ old then 0 else old + 1
  | .dec => if old == 0 || v < old then v else old - 1
  | .fadd => rne .f32 (sumF .rne [decodeF .f32 old, decodeF .f32 v])
  | .fmin => if rank .f32 v < rank .f32 old then v else old
  | .fmax => if rank .f32 old < rank .f32 v then v else old

/-- A read-modify-write at the home of a global word (R294); the L1's copy follows when the word stays as it is, too (R288). -/
def State.rmwHome (s : State) (vf core pa : Nat) (op : AOp) (t : Ty) (v cmp va bid tid : Nat) : Nat × State :=
  let old := ofBytes (s.readMem pa (t.bits / 8))
  let new := aopNew op t old v cmp
  (old, if new == old then s.updateL1 core pa (bytesOf (t.bits / 8) new)
    else s.writeHome vf core pa (bytesOf (t.bits / 8) new) va bid tid)

/-- A read-modify-write at a scratchpad bank (R294, R296): a write of the value it found is one in the byte's history too, which a
reader that must see it finds (R357). -/
def State.rmwBank (s : State) (owner pos : Nat) (op : AOp) (t : Ty) (v cmp bid tid : Nat) : Nat × State :=
  match s.block? owner with
  | none => (0, s)
  | some o =>
    let old := ofBytes (o.bank pos (t.bits / 8))
    let new := aopNew op t old v cmp
    let bs := bytesOf (t.bits / 8) new
    let s := s.eccScr o pos (t.bits / 8)
    if new == old then
      let p := s.newId
      (old, p.2.modBlock owner (fun b => b.writeScr (.thread bid tid) p.1 pos bs))
    else (old, s.writeScr owner pos bs (.thread bid tid))

/-! ### Messages (R406) -/

/-- Operation numbers of the messages this model sends: a load.
[log 22: PRESUMED, unsafe] -/
def opLoad : BitVec 7 := 1
/-- A store.
[log 22: PRESUMED, unsafe] -/
def opStore : BitVec 7 := 2
/-- An atomic.
[log 22: PRESUMED, unsafe] -/
def opAtom : BitVec 7 := 3
/-- A pull of a page.
[log 22: PRESUMED, unsafe] -/
def opPull : BitVec 7 := 4
/-- The tagging of a line.
[log 22: PRESUMED, unsafe] -/
def opLtag : BitVec 7 := 5

/-- A request to another package, awaited under its tag (R406, R407); a: the line's tag bit; bad: the bytes are poisoned (R339).
[log 22: PRESUMED, unsafe] -/
def State.send (s : State) (vf pkg : Nat) (op : BitVec 7) (addr : Nat) (data : List Byte) (a : Bool) (what : Await)
    (bad : Bool := false) : State :=
  let p := s.newId
  let tag := BitVec.ofNat 16 p.1
  let m : Msg :=
    { dst := BitVec.ofNat 12 pkg, src := s.pkg, resp := false, op := op, vf := BitVec.ofNat 8 vf, tag := tag,
      addr := BitVec.ofNat 64 addr, ndata := 0, stat := 0, peer := 0, data := data, aTag := a, bad := bad }
  { p.2 with sent := p.2.sent ++ [m], awaits := { tag := tag, peer := BitVec.ofNat 12 pkg, what := what } :: p.2.awaits }

/-- The function of the I/O die's engines in a message (R406). -/
def ioFunction : Nat := 0x7F

/-! ### Entries of a commit (R254, R256, R288) -/

/-- A store entry finds its line of another type at the home: its bytes are not written, and the fault log says so (R256,
R348). -/
def State.lostStore (s : State) (b : Block) (e : Entry) : State :=
  s.logBlock b 0x21 0 e.site.word e.tid 0 (xinfoOf e.last true e.addr)

/-- The bytes of a line that an entry touches: how many from its address. -/
def Entry.span (e : Entry) : Nat := match e.kind with | .ltag .. => 128 | _ => e.bytes.length

/-- An entry performed at its home (R254, R288, R297). A poisoned entry, and bytes merged into a poisoned line, leave the line poisoned
(R339). -/
def State.performEntry (s : State) (b : Block) (e : Entry) : State :=
  let tag := s.tag e.pa
  let p := s.candidate 2 (dieOf b.core)
  let bad := e.bad || p.1
  let s := p.2.keepOld b.bid e.tid e.wid e.va e.pa e.span
  match e.kind with
  | .store =>
    if !e.merged && (tag == .A) != e.appr then s.lostStore b e
    else
      (((s.writeHome b.vf b.core e.pa e.bytes e.va b.bid e.tid).overwritten 0 e.pa e.bytes.length).watchGlobal 5
        4 e.va e.bytes.length b e.team e.site).poison (e.pa / 128) (bad || s.poisoned.contains (e.pa / 128))
  | .red op t =>
    let r := s.rmwHome b.vf b.core e.pa op t (ofBytes e.bytes) 0 e.va b.bid e.tid
    let s := if aopNew op t r.1 (ofBytes e.bytes) 0 == r.1 then r.2 else r.2.modBoth b.bid e.tid e.wid Thread.worked
    (s.watchGlobal 6 4 e.va e.bytes.length b e.team e.site).poison (e.pa / 128) (bad || s.poisoned.contains (e.pa / 128))
  | .ltag a _ =>
    if (tag == .A) == a then s.refreshL1 b.core e.pa
    else
      let s := (s.setTag e.pa a).writeHome b.vf b.core (e.pa / 128 * 128) (List.replicate 128 0) e.va b.bid e.tid
      ((s.watchGlobal 5 4 (e.va / 128 * 128) 128 b e.team e.site).refreshL1 b.core e.pa).poison (e.pa / 128) bad
  | .obj add =>
    let v := ofBytes e.bytes
    let old := ofBytes (s.readMem e.pa 8)
    let n := if add then (old + v) % 2 ^ 64 else v
    (s.writeHome b.vf b.core e.pa (bytesOf 8 n) e.va b.bid e.tid).watchGlobal 5 4 e.va 8 b e.team e.site

/-- The entries of one line performed at its home as one act, which reads the line unless it only tags it (R287, R294, R339). -/
def State.performEntries (s : State) (b : Block) (es : List Entry) : State :=
  let s := match es with
    | e :: _ =>
      if es.all (fun x => match x.kind with | .ltag .. => true | _ => false) then s else s.eccLine b e.pa false
    | [] => s
  es.foldl (fun s e => s.performEntry b e) s

end Sys2Proof.Machine
end

