-- ==== Sys2Proof/Machine/Share.lean ====
section
/-! DEFINITION. The store-buffer share and commits (R287-R289, R329, R387), signatures of paired copies (R327, R329), counters
(R32, R33), and what follows a commit. -/

namespace Sys2Proof.Machine

/-! ### Counters (R32, R33) -/

/-- The level and number a handle spells (R33). -/
def handleLevel (h : Word) : Level :=
  match h.toNat / 2 ^ 30 with
  | 0 => .launch
  | 1 => .graph
  | 2 => .phase
  | _ => .job
def handleNum (h : Word) : Nat := h.toNat % 2 ^ 30

/-- The counter a handle names in a function; none when the handle is not valid (R33, R152). -/
def State.handle? (s : State) (vf : Nat) (h : Word) : Option Counter := s.counter? vf (handleLevel h) (handleNum h)

/-- CSIG's addition (R177). -/
def State.addCounter (s : State) (vf : Nat) (h v : Word) : State :=
  s.modCounter vf (handleLevel h) (handleNum h) (fun c => { c with value := c.value + v })

/-! ### Invalidation of an L1 (R292, R299) -/

/-- Every clean line of a core's L1 leaves it. -/
def State.dropL1 (s : State) (core : Nat) : State := s.modCore core (fun c => { c with l1 := [] })

/-- Entries of a function's binding table (R302). -/
def State.bindCount (s : State) (vf : Nat) : Nat := ringSize (s.vf vf).bindt

/-- Entry i of the binding table: object, region base, length in units of 128 bytes (R302). -/
def State.bindEntry (s : State) (vf i : Nat) : Nat × Nat × Nat :=
  let a := ringBase (s.vf vf).bindt + 32 * i
  (ofBytes (s.readMem a 8), ofBytes (s.readMem (a + 8) 8), ofBytes (s.readMem (a + 16) 4))

/-- The binding table changed (R301, R302): action 0 fills a free entry, by a free choice among them; 1 and 2 free entries.
[log 38: DEDUCED, unsafe] -/
def State.bindAct (s : State) (vf o base len act : Nat) : State :=
  let at_ (i : Nat) : Nat := ringBase (s.vf vf).bindt + 32 * i
  if act == 0 then
    let free := (List.range (s.bindCount vf)).filter (fun i => (s.bindEntry vf i).1 == 0)
    let p := s.pick free.length
    let i := free.getD p.1 0
    p.2.writeMem (at_ i) (bytesOf 8 o ++ bytesOf 8 base ++ bytesOf 4 (len / 128) ++ List.replicate 12 0)
  else
    let hit := (List.range (s.bindCount vf)).filter fun i =>
      let e := s.bindEntry vf i
      e.1 == o && (act == 2 || (e.2.1 == base && e.2.2 == len / 128))
    hit.foldl (fun s i => s.writeMem (at_ i) (bytesOf 8 0)) s

/-- The table an acquire uses: a BIND of the function that has not completed is in it or not, by a free choice (R301). The first state
holds the table; the second is the machine after the choices.
[log 38: DEDUCED, unsafe] -/
def State.bindView (s : State) (vf : Nat) : State × State :=
  s.pend.foldl (fun v p => match p.kind with
    | .bind f o base len act =>
      if f == vf then
        let c := v.2.coin
        (if c.1 then v.1.bindAct f o base len act else v.1, c.2)
      else v
    | _ => v) (s, s)

/-- The regions bound to object o in a function's table. -/
def State.regionsOf (s : State) (vf o : Nat) : List (Nat × Nat × Nat) :=
  ((List.range (s.bindCount vf)).map (s.bindEntry vf)).filter (fun e => e.1 == o)

/-- The L1 lines of a core that an acquire of an object invalidates: those of the regions rs, or every one when the function has no
binding table (R299). -/
def State.dropBound (s : State) (core vf : Nat) (rs : List (Nat × Nat × Nat)) : State :=
  if !(s.vf vf).bindt.getLsbD 0 then s.dropL1 core
  else
    let hit (l : Line) : Bool := rs.any (fun e => decide (e.2.1 / 128 ≤ l.key) && decide (l.key < e.2.1 / 128 + e.2.2))
    s.modCore core (fun c => { c with l1 := c.l1.filter (fun l => !(l.vf == vf && hit l)) })

/-- An acquire of object o by a block; of both copies of a pair (R299, R301, R330). -/
def State.acquireObject (s : State) (b : Block) (o : Nat) : State :=
  let v := s.bindView b.vf
  let rs := v.1.regionsOf b.vf o
  let s := v.2.dropBound b.core b.vf rs
  match b.partner with
  | none => s
  | some p => match s.block? p with | some x => s.dropBound x.core x.vf rs | none => s

/-- An atomic's acquire: every clean line of the L1 of its core, and of the core of the other copy of a pair (R292, R330). -/
def State.acquireAll (s : State) (bid core : Nat) : State :=
  let s := s.dropL1 core
  match s.block? bid with
  | none => s
  | some b =>
    match b.partner with
    | none => s
    | some p => match s.block? p with | some x => s.dropL1 x.core | none => s

/-! ### Entries (R287, R388) -/

/-- The line an entry takes in the share; a RED or an object write takes one of its own. -/
def Entry.line? (e : Entry) : Option Nat :=
  match e.kind with
  | .store => some (e.va / 128)
  | .ltag .. => some (e.va / 128)
  | _ => none

/-- The distinct elements of a list. -/
def distinct (l : List Nat) : List Nat := l.foldl (fun a x => if a.contains x then a else a ++ [x]) []

/-- Entries of a block's share in the sense of SBUF (R287). -/
def Block.used (b : Block) : Nat :=
  let es := b.handed ++ b.share
  (distinct (es.filterMap Entry.line?)).length + (es.filter (fun e => e.line?.isNone)).length

/-- Whether an entry would take the block past SBUF (R287, R388). -/
def Block.overflows (b : Block) (e : Entry) : Bool := decide (b.shape.sbuf < { b with share := b.share ++ [e] : Block }.used)

/-! ### Signatures (R327-R329) -/

/-- The number of an operation in a signature. -/
def AOp.num (o : AOp) : Nat := o.code.toNat

/-- What an entry's signature hashes (R327): the VA, the size, the kind and operation, and the data unless it is
approximate. Equal lists give equal signatures and the model lets unequal lists differ (log 23).
[log 23: DEDUCED, unsafe] -/
def Entry.key (e : Entry) : List Nat :=
  let k := match e.kind with
    | .store => [0, 0]
    | .red op t => [1, op.code.toNat * 32 + t.code.toNat]
    | .ltag a _ => [2, if a then 1 else 0]
    | .obj a => [3, if a then 1 else 0]
  [e.va, e.bytes.length] ++ k ++ (if e.appr then [] else e.bytes.map BitVec.toNat)

/-- The block whose core holds the compare unit of a copy: the leading copy (R328). -/
def Block.lead (b : Block) : Nat := if b.trailing then b.partner.getD b.bid else b.bid

/-- An entry that has matched: the leading copy may perform its own, the trailing copy's is dropped (R329). -/
def State.matched (s : State) (lead trail eidLead eidTrail : Nat) : State :=
  let s := s.modBlock lead fun b =>
    { b with share := b.share.map fun e => if e.eid == eidLead then { e with matched := true } else e
             handed := b.handed.map fun e => if e.eid == eidLead then { e with matched := true } else e }
  s.modBlock trail fun b =>
    { b with share := b.share.filter (fun e => e.eid != eidTrail)
             handed := b.handed.filter (fun e => e.eid != eidTrail)
             commits := b.commits.map fun c => { c with set := c.set.map (fun l => l.filter (· != eidTrail)) } }

/-- Signature n of a thread of a paired copy reaches the compare unit (R327, R328, R331); one whose store never enters the share is an
empty key. A candidate event of the injector when the copy leads (R353). -/
def State.signed (s : State) (b : Block) (tid n eid : Nat) (key : List Nat) : State :=
  match b.partner with
  | none => s
  | some other =>
    let lead := b.lead
    let p := if b.trailing || key.isEmpty then (false, s) else s.candidate 1 (dieOf b.core)
    let key := if p.1 then 2 ^ 64 :: key else key
    let s := p.2
    match s.block? lead with
    | none => s
    | some l =>
      match l.sigs.find? (fun x => x.side != b.trailing && x.tid == tid && x.n == n) with
      | none =>
        s.modBlock lead fun l => { l with sigs := l.sigs ++ [{ side := b.trailing, tid := tid, n := n, eid := eid, key := key }] }
      | some x =>
        let s := s.modBlock lead fun l =>
          { l with sigs := l.sigs.filter (fun y => !(y.side == x.side && y.tid == x.tid && y.n == x.n)) }
        if x.key == key then
          (if b.trailing then s.matched lead b.bid x.eid eid else s.matched lead other eid x.eid)
        else s.consumes lead 0x90 0

/-- The signature of an entry that enters a paired copy's share. -/
def State.sign (s : State) (b : Block) (e : Entry) : State :=
  match e.sig with
  | none => s
  | some n => s.signed b e.tid n e.eid e.key

/-- Whether an entry is an LTAG that stands in the share, to the line of pa. -/
def Entry.tags (e : Entry) (pa : Nat) : Bool :=
  e.filled && e.pa / 128 == pa / 128 && (match e.kind with | .ltag .. => true | _ => false)

/-- An entry stands in the share, filled, with its signature (R248, R287, R327). Later stores of the block to a line that it tags merge
into it (R254), those too that entered before a faulted LTAG took its place. -/
def State.enter (s : State) (bid : Nat) (e : Entry) : State :=
  match s.block? bid with
  | none => s
  | some b =>
    let front := b.share.takeWhile (fun x => x.eid != e.eid)
    let e := { e with merged := (b.handed ++ front).any (fun x => x.tags e.pa), filled := true }
    let after := (b.share.drop (front.length + 1)).map fun x =>
      if x.filled && e.tags x.pa then { x with merged := true } else x
    let s := s.modBlock bid fun b => { b with share := front ++ e :: after }
    let s := s.promote b.vf (0, e.va / 128) bid e.tid (some bid)
    s.sign b e

/-- A reserved place is released (R248): a fault 0x12. -/
def State.releasePlace (s : State) (bid : Nat) (eid : Option Nat) : State :=
  match eid with
  | none => s
  | some e => s.modBlock bid fun b => { b with share := b.share.filter (fun x => x.eid != e || x.filled) }

/-! ### Asynchronous faults and records (R242-R247, R346) -/

/-- A fault found after issue waits in the thread for its next issue; a second one of a thread that still waits is dropped
(R346, log 24). The operation's flag completes. In a paired launch its signature never comes (R331).
[log 24: DEDUCED, unsafe] [log 35: DEDUCED, unsafe] -/
def State.lateFault (s : State) (acc : Acc) (code : Nat) : State :=
  let s := match acc.sig, s.block? acc.bid with
    | some n, some b => s.signed b acc.tid n 0 []
    | _, _ => s
  s.modBoth acc.bid acc.tid acc.wid fun t =>
    let f : AsyncFault := { code := BitVec.ofNat 8 code, addr := acc.addr, last := acc.last, site := acc.site }
    { t.endFlag acc.flag with
      park := match t.park with | .spill => .running | .commitWait => .running | p => p
      fault := match t.fault with | some g => some g | none => some f }

/-- KIND of a fault record (R244). -/
def MemK.recKind : MemK → Nat
  | .load .. | .bget .. | .acq .. | .lnch .. | .refillRet | .refillRej _ => 0
  | .ltag _ => 2
  | .home e _ => (match e.kind with | .ltag .. => 2 | _ => 1)
  | _ => 1

/-- Whether an access takes a place in the share (R248). -/
def MemK.enters : MemK → Bool
  | .store .. | .red .. | .ltag _ | .spillRet _ | .spillRej _ => true
  | _ => false

/-- What a leaf must allow for an access (R241). -/
def MemK.why (k : MemK) : Why := if k.recKind == 0 then .read else .write

/-- A failing granule of a function: the serial of its pending record of the same cause, or of a new one (R243, R244). lane:
the bit set in LANES. -/
def State.faultRecord (s : State) (vf page cause kind lane : Nat) (spo where_ launch : Word) : Word × State :=
  let v := s.vf vf
  match v.frecs.find? (fun r => r.page == page && r.cause == cause && !r.answered) with
  | some r =>
    let same := s.pktFaults.contains (vf, r.seq)
    (r.seq, if same then
        s.setVf vf { v with frecs := v.frecs.map fun q =>
          if q.seq == r.seq then { q with lanes := q.lanes ||| BitVec.ofNat 32 (lane) } else q }
      else s)
  | none =>
    let n := (v.frecs.filter (fun r => !r.written)).length
    let seq := v.fqtail + BitVec.ofNat 32 n
    let r : FRec :=
      { seq := seq, page := page, cause := cause, kind := kind, lanes := BitVec.ofNat 32 lane, spo := spo,
        where_ := where_, launch := launch, written := false, answered := false }
    (seq, { s.setVf vf { v with frecs := v.frecs ++ [r] } with pktFaults := s.pktFaults ++ [(vf, seq)] })

/-- A record that belongs to no packet is written at once, as far as the ring has room (R245). -/
def State.settleRecords (s : State) : State := s.endPacket

/-- The access waits in the operand log, attached to a fault record (R242, R243). -/
def State.pageFault (s : State) (b : Block) (acc : Acc) (cause : Nat) : State :=
  let w := whereWord b.core (quarterOf acc.tid) b.ridx
  let p := s.faultRecord b.vf (acc.a / 4096 * 4096) cause acc.kind.recKind (2 ^ laneOf acc.tid) acc.site.word w
    (s.launchHandle b.launch)
  let q := p.2.newId
  let o : OpEntry :=
    { id := q.1, vf := b.vf, seq := p.1, core := b.core, acc := some acc, waiter := .access q.1, replay := false, bad := false }
  { q.2 with oplog := q.2.oplog ++ [o] }

/-! ### Operations that complete later -/

/-- A pending operation. -/
def State.addPend (s : State) (acc : Acc) (k : PendK) : State :=
  { s with pend := s.pend ++ [{ id := acc.wid, bid := acc.bid, tid := acc.tid, flag := acc.flag, kind := k, site := acc.site,
                                addr := acc.addr, last := acc.last, acc := some acc }] }

/-- As addPend, for both copies of a pair when the operation is performed once for both (R330). -/
def State.addPendBoth (s : State) (acc : Acc) (k : PendK) : State :=
  let s := s.addPend acc k
  match s.block? acc.bid with
  | none => s
  | some b =>
    match b.partner with
    | none => s
    | some p =>
      let q := s.newId
      q.2.addPend { acc with bid := p, wid := q.1 } k

/-- The registers a value of n bytes goes to: one, or a pair for 8 bytes (R107, R296). -/
def regWrites (d : G) (n v : Nat) (ty : TBit) : List (Nat × Reg) :=
  if d == 0xFF#8 then []
  else
    (d.toNat, ⟨BitVec.ofNat 32 v, ty⟩)
      :: (if n == 8 then [((next d 1).toNat, ⟨BitVec.ofNat 32 (v / 2 ^ 32), ty⟩)] else [])

/-- Whether an ordering releases, and acquires (R80, R292). -/
def releases (o : Ord) : Bool := o == .rel || o == .acqrel
def acquires (o : Ord) : Bool := o == .acq || o == .acqrel

/-- What a performed atomic leaves and learns (R286, R292): the release of its word when it releases or follows a FENCE.rel, and
what it makes known when it acquires, and to a later FENCE.acq. -/
def State.atomSync (s : State) (acc : Acc) (core space a : Nat) (ord : Ord) (sc : Scope) : Know × List Heard × State :=
  let hs := s.heard space a
  let fenced := match s.thread? acc.bid acc.tid with | some t => t.fenced | none => none
  let rel (sc : Scope) (k : Know) : Release :=
    { space := space, a := a, bid := acc.bid, core := core, sc := sc, obj := false, know := k }
  let s := if releases ord then s.release (rel sc acc.know) else s
  let s := match fenced with
    | some (sc, k) => s.release (rel sc k)
    | none => s
  let s := if acquires ord then s.acquireAll acc.bid core else s
  (if acquires ord then knowOf hs sc acc.bid core else Know.none, hs, s)

/-- A read-modify-write that changed memory counts as a store for the spin detector, one that changed nothing as a load of its
line (R53, R55).
[log 88: DEDUCED, safe] -/
def State.atomSpin (s : State) (acc : Acc) (changed : Bool) (line : Nat × Nat) : State :=
  s.modBoth acc.bid acc.tid acc.wid fun t =>
    if changed then
      { t with mode := if t.mode == .demoted then .normal else t.mode, spin := { t.spin with dirty := true, idle := 0 } }
    else { t with spin := { t.spin with
      loaded := if t.spin.loaded.contains line then t.spin.loaded else t.spin.loaded ++ [line] } }

/-- An access sent to another package waits in the operand log for the response (R406). -/
def State.sendAcc (s : State) (b : Block) (acc : Acc) (pkg adr : Nat) (op : BitVec 7) (data : List Byte) (a : Bool := false)
    (bad : Bool := false) : State :=
  let p := s.newId
  let o : OpEntry :=
    { id := p.1, vf := b.vf, seq := 0, core := b.core, acc := some acc, waiter := .access p.1, replay := false, bad := false }
  ({ p.2 with oplog := p.2.oplog ++ [o] } : State).send b.vf pkg op adr data a (.access p.1) bad

/-- The bytes of a store's entry as a message carries them. -/
def atomData (op : AOp) (t : Ty) (v cmp : Nat) : List Byte :=
  bytesOf 1 op.code.toNat ++ bytesOf 1 t.code.toNat ++ bytesOf 8 v ++ bytesOf 8 cmp

/-- An operation that a paired launch performs once makes the block non-restartable (R330). -/
def State.onceDone (s : State) (b : Block) : State :=
  if b.partner.isSome then s.modBlock b.bid fun b => { b with blocked := true } else s

/-- Where the home act of a checked access goes: its own package's line when the die reaches it, another package, or a translation
failure with cause 4 of an access that the firewall turns away now (R383). -/
def State.atHome (s : State) (b : Block) (acc : Acc) (pa : Nat) (here : State → State) (op : BitVec 7) (data : List Byte) : State :=
  match s.target pa with
  | .damask pkg win ofs => (s.onceDone b).sendAcc b { acc with homed := true } pkg (win * 2 ^ 32 + ofs) op data
  | _ =>
    let r := s.reach (dieOf b.core) pa
    if r.1 then here (r.2.keepOld acc.bid acc.tid acc.wid acc.a pa acc.n)
    else (r.2.pageFault b { acc with homed := true } 4).settleRecords

/-- A returning atomic at its global home (R292, R294). -/
def State.atomHome (s : State) (b : Block) (acc : Acc) (pa : Nat) (d : G) (op : AOp) (t : Ty) (v cmp : Nat) (ord : Ord) (sc : Scope) :
    State :=
  let r := (s.eccLine b pa false).rmwHome b.vf b.core pa op t v cmp acc.a acc.bid acc.tid
  let s := (r.2.watchGlobal 6 2 acc.a acc.n b acc.team acc.site).onceDone b
  let q := (s.atomSpin acc (aopNew op t r.1 v cmp != r.1) (0, acc.a / 128)).atomSync acc b.core 0 pa ord sc
  q.2.2.addPendBoth acc (.regs (regWrites d (t.bits / 8) r.1 .P) q.1 q.2.1)

/-- A returning atomic at its bank (R294, R296); its target block may have gone since its issue, which is fault 0x15 (R260). -/
def State.atomBank (s : State) (b : Block) (acc : Acc) (d : G) (op : AOp) (t : Ty) (v cmp : Nat) (ord : Ord) (sc : Scope) : State :=
  match s.block? acc.owner with
  | none => s.lateFault acc 0x15
  | some o =>
    if !o.resident || o.killed then s.lateFault acc 0x15
    else
      let r := s.rmwBank acc.owner acc.a op t v cmp acc.bid acc.tid
      let s := r.2.watchScr 6 (if acc.owner == acc.bid then 2 else 3) o acc.a acc.n b acc.team acc.site
      let q := (s.atomSpin acc (aopNew op t r.1 v cmp != r.1) (1 + acc.owner, acc.a / 128)).atomSync acc b.core (1 + acc.owner) acc.a
        ord sc
      q.2.2.addPend acc (.regs (regWrites d (t.bits / 8) r.1 .P) q.1 q.2.1)

/-- REL's object write at its home (R300). -/
def State.relHome (s : State) (b : Block) (acc : Acc) (pa : Nat) (v : DWord) (add : Bool) : State :=
  let old := ofBytes (s.readMem pa 8)
  let n := if add then (old + v.toNat) % 2 ^ 64 else v.toNat
  let s := s.writeHome b.vf b.core pa (bytesOf 8 n) acc.a acc.bid acc.tid
  ((s.watchGlobal 5 1 acc.a 8 b acc.team acc.site).onceDone b).addPendBoth acc .nothing

/-- The object write that a deterministic block hands over, as one more entry of its thread (R387). -/
def Acc.objEntry (acc : Acc) (pa : Nat) (v : DWord) (add : Bool) : Entry :=
  { eid := acc.wid, tid := acc.tid, kind := .obj add, va := acc.a, bytes := bytesOf 8 v.toNat, filled := true,
    pa := pa, merged := false, appr := false, site := acc.site, addr := acc.addr, last := acc.last,
    wid := acc.wid, sig := none, matched := true, bad := false, team := acc.team }

/-- A RED or atomic to a scratchpad bank and the returning atomic or object write at a global home, once every commit before it is
performed (R287, R292, R294, R300).
[log 50: DEDUCED, unsafe] [log 51: DEDUCED, unsafe] -/
def State.performHome (s : State) (acc : Acc) : State :=
  match s.block? acc.bid with
  | none => s
  | some b =>
    if b.trailing && acc.pa.isSome then s
    else
    match acc.kind, acc.pa with
    | .atom d op t v cmp ord sc, some pa =>
      s.atHome b acc pa (fun s => s.atomHome b acc pa d op t v cmp ord sc) opAtom (atomData op t v cmp)
    | .atom d op t v cmp ord sc, none => s.atomBank b acc d op t v cmp ord sc
    | .rel v add _, some pa =>
      if b.shape.det then
        ((s.setBlock { b with handed := b.handed ++ [acc.objEntry pa v add] }).onceDone b).addPendBoth acc .nothing
      else
        s.atHome b acc pa (fun s => s.relHome b acc pa v add) opStore (bytesOf 8 v.toNat ++ bytesOf 1 (if add then 1 else 0))
    | .rel .., none => s.addPendBoth acc .nothing
    | _, _ => s

/-! ### Commits (R288) -/

/-- A thread that waited for a commit runs on, in the image of the region start too (R341). -/
def State.unpark (s : State) (bid tid oid : Nat) : State :=
  s.modBoth bid tid oid (fun t => match t.park with | .commitWait => { t with park := .running } | _ => t)

/-- The image of a block's threads as they stand (R341).
[log 65: DEDUCED, unsafe] -/
def Block.snapshot (b : Block) (mark : Nat) (useVolt : Bool) : Image :=
  { threads := b.threads, dither := b.dither, volt := b.volt, useVolt := useVolt, mark := mark, gangs := b.gangs }

/-- Whether a block has an entry in a replay queue of its core (R337, R288). -/
def State.inReplay (s : State) (b : Block) : Bool :=
  (s.core b.core).quarters.any (fun q => q.2.queue.any (fun e => e.1 == b.bid))

/-- A FENCE whose commit is performed: the thread runs on; acquiring drops its L1 lines (R292, R303). -/
def State.endFence (s : State) (bid tid oid : Nat) (acq : Bool) : State :=
  match s.block? bid with
  | none => s
  | some b =>
    let f (t : Thread) : Thread :=
      match t.park with
      | .fence ord sc _ =>
        { t with park := .running
                 fenced := if releases ord then some (sc, t.know.own bid tid s.ids) else t.fenced
                 know := if acq then t.know.join (knowOf t.read sc bid b.core) else t.know }
      | _ => t
    let s := s.modBoth bid tid oid f
    if acq then s.dropL1 b.core else s

/-- CKPT's commit is performed: the restart point is recorded in a paired launch, and the threads run on (R332). -/
def State.endCkpt (s : State) (bid oid : Nat) : State :=
  match s.block? bid with
  | none => s
  | some b =>
    let f (t : Thread) : Thread := match t.park with | .ckpt _ => { t with park := .running } | _ => t
    let s := (List.range b.threads.length).foldl (fun s i => s.modBoth bid i oid f) s
    s.modBlock bid fun b =>
      if b.partner.isSome then { b with ckpt := b.snapshot s.ids true, retries := 0, byCommit := true, forced := false, blocked := false } else b

/-- What follows a performed commit, but for a store that waited to enter (R177, R287, R292, R303, R332). -/
def State.continue (s : State) (bid : Nat) (c : Commit) : State :=
  match c.cont with
  | .flag tid f => s.modBoth bid tid c.cid (fun t => t.endFlag f)
  | .access acc => s.performHome acc
  | .fence tid acq => s.endFence bid tid c.cid acq
  | .csig tid h v =>
    match s.block? bid with
    | none => s
    | some b => (if b.trailing then s else (s.addCounter b.vf h v).onceDone b).unpark bid tid c.cid
  | .exit _ => s.modBlock bid (fun b => { b with exits := b.exits - 1 })
  | .store _ => s
  | .save => s
  | .ckpt => s.endCkpt bid c.cid

/-- A block whose commit begins: the image is taken and a new region begins (R289, R341). -/
def State.newRegion (s : State) (b : Block) (c : Commit) : Block :=
  let isStore := match c.cont with | .store _ => true | _ => false
  { b with
    image := b.snapshot s.ids false
    byCommit := if c.explicit then true else if isStore then b.byCommit else false
    forced := if c.explicit then false else if isStore then true else b.forced
    regStore := false, regAvset := false, regSysw := false, regCmd := false, regCyc := s.clkOf b.core }

/-- Whether a block hands a commit's set over at once: in a deterministic launch, but for a paired block, whose entries match first
(R326, R329, R387). -/
def Block.handsOver (b : Block) : Bool := b.shape.det && b.partner.isNone

/-- The commit at the head takes its set E (R288, R341, R387). A paired block's save commits what has matched (R335).
[log 29: DEDUCED, unsafe] [log 65: DEDUCED, unsafe] -/
def State.takeSet (s : State) (b : Block) (c : Commit) : State :=
  let es : List Entry := match c.cont with
    | .save => if b.partner.isSome then b.share.filter (fun e => e.matched) else b.share
    | _ => b.share
  s.setBlock { s.newRegion b c with
    handed := if b.handsOver then b.handed ++ b.share else b.handed
    share := if b.handsOver then [] else b.share
    commits := { c with set := some (if b.handsOver then [] else es.map (fun e => e.eid)) } :: b.commits.tail }

/-- The matched set of a paired deterministic block's commit goes to the ticket unit (R326). -/
def State.handOver (s : State) (b : Block) (c : Commit) (set : List Nat) : State :=
  s.setBlock { b with
    handed := b.handed ++ b.share.filter (fun e => set.contains e.eid)
    share := b.share.filter (fun e => !set.contains e.eid)
    commits := { c with set := some [] } :: b.commits.tail }

/-- The thread a commit belongs to; 1024 when it is the block's. -/
def Cont.tid : Cont → Nat
  | .flag t _ => t
  | .access a => a.tid
  | .fence t _ => t
  | .csig t _ _ => t
  | .exit t => t
  | .store a => a.tid
  | .save => 1024
  | .ckpt => 1024

/-- An entry that waited for a forced commit enters the share (R287). -/
def Acc.entry (acc : Acc) (eid : Nat) : Option Entry :=
  let mk (k : EKind) (bytes : List Byte) (appr : Bool) : Entry :=
    { eid := eid, tid := acc.tid, kind := k, va := acc.a, bytes := bytes, filled := false, pa := acc.pa.getD 0,
      merged := false, appr := appr, site := acc.site, addr := acc.addr, last := acc.last, wid := acc.wid, sig := acc.sig,
      matched := false, bad := false, team := acc.team }
  match acc.kind with
  | .store bs appr => some (mk .store bs appr)
  | .red op t v => some (mk (.red op t) v false)
  | .ltag a => some (mk (.ltag a false) [] false)
  | .spillRet w => some (mk .store (bytesOf 8 w.toNat) false)
  | .spillRej w => some (mk .store (bytesOf 8 w.toNat) false)
  | _ => none

/-- An access has entered the share, or ended without: its flag counts down, and a thread that waited for its spill runs on
(R155). -/
def State.entered (s : State) (acc : Acc) : State :=
  s.modBoth acc.bid acc.tid acc.wid fun t =>
    let t := t.endFlag acc.flag
    match t.park with
    | .spill => { t with park := .running }
    | _ => t

/-- Whether a commit of a trailing copy completes (R329): the leading copy's corresponding commit point has, or there is room for what
waits. -/
def State.trailDone (s : State) (b : Block) (c : Commit) : Bool :=
  if c.explicit then
    match b.partner with
    | none => true
    | some p =>
      match s.block? p with
      | some l => decide (b.ncommit.get 0 c.cont.tid < l.ncommit.get 0 c.cont.tid)
      | none => true
  else
    match c.cont with
    | .store acc => (match acc.entry acc.wid with | some e => !b.overflows e || b.share.isEmpty | none => true)
    | _ => true

/-- What a block's commits do next without an entry being performed. -/
inductive CommitAct where
  | wait
  | take (c : Commit)
  | hand (c : Commit) (set : List Nat)
  | done (c : Commit)

/-- A block's commits are performed one at a time (R288); those of a trailing copy perform nothing (R329). -/
def State.commitAct (s : State) (b : Block) : CommitAct :=
  if b.trailing then (match b.commits.find? (s.trailDone b) with | some c => .done c | none => .wait)
  else
    match b.commits with
    | [] => .wait
    | c :: _ =>
      match c.set with
      | none =>
        if b.share.any (fun e => !e.filled) || s.inReplay b || !b.errs.isEmpty || b.phase == .saving 1 then .wait else .take c
      | some [] => .done c
      | some set =>
        if b.shape.det && b.partner.isSome && b.share.all (fun e => e.matched || !set.contains e.eid) then .hand c set else .wait

/-- A commit leaves the block's list and counts. -/
def State.finished (s : State) (b : Block) (c : Commit) : State :=
  let b := if b.trailing then s.newRegion b c else b
  (s.setBlock { b with
      commits := b.commits.filter (fun x => x.cid != c.cid)
      ncommit := if c.explicit then b.ncommit.set c.cont.tid (b.ncommit.get 0 c.cont.tid + 1) else b.ncommit }).count
    (dieOf b.core) (dKey 5) 1

/-- What waited for a forced commit goes on (R287): its entry enters the share, or takes its place there while the access itself still
waits (R248); another forced commit when there is no room yet. -/
def State.afterForced (s : State) (bid : Nat) (c : Commit) (acc : Acc) : State :=
  match s.block? bid, acc.entry acc.wid with
  | some b, some e =>
    if b.overflows e && !b.share.isEmpty then s.modBlock bid fun b => { b with commits := b.commits ++ [{ c with set := none }] }
    else if acc.pa.isSome then ((s.enter bid e).unpark bid acc.tid c.cid).entered acc
    else
      let waits := s.oplog.any (fun o => match o.acc with | some a => a.bid == bid && a.eid == some acc.wid | none => false)
      (if waits then s.modBlock bid fun b => { b with share := b.share ++ [e] } else s).unpark bid acc.tid c.cid
  | _, _ => s

/-- Commits of a block go on as far as they can without an entry being performed (R288). The fuel bounds the commits that
complete at once. -/
def State.advance (bid : Nat) : Nat → State → State
  | 0, s => s
  | n + 1, s =>
    match s.block? bid with
    | none => s
    | some b =>
      match s.commitAct b with
      | .wait => s
      | .take c => State.advance bid n (s.takeSet b c)
      | .hand c set => State.advance bid n (s.handOver b c set)
      | .done c =>
        let s := s.finished b c
        match c.cont with
        | .store acc => State.advance bid n (s.afterForced bid c acc)
        | _ => State.advance bid n (s.continue bid c)

/-- Fuel for commits that complete at once. -/
def commitFuel : Nat := 4096

/-- A commit of a block at a scope (R287, R288): queued behind the block's earlier ones. -/
def State.commit (s : State) (bid : Nat) (sc : Scope) (explicit : Bool) (k : Cont) : State :=
  let p := s.newId
  let c : Commit := { cid := p.1, scope := sc, explicit := explicit, set := none, cont := k }
  State.advance bid commitFuel (p.2.modBlock bid fun b => { b with commits := b.commits ++ [c] })

end Sys2Proof.Machine
end

