-- ==== Sys2Proof/Machine/Access.lean ====
section
/-! DEFINITION. The memory unit: a lane's access from its checks to its completion, page faults and replays (R233-R250, R284,
R296-R300). Acc holds everything an access needs, so that a replay does what the issue would have done (R242). -/

namespace Sys2Proof.Machine

/-! ### Places in the share (R248, R287) -/

/-- An entry waits for a forced commit (R287): its thread is held. -/
def State.forceFirst (s : State) (b : Block) (acc : Acc) : State :=
  let s := s.modThread acc.bid acc.tid fun t => if t.park == .running then { t with park := .commitWait } else t
  (s.count (dieOf b.core) (dKey 6) 1).commit acc.bid .dev false (.store acc)

/-- An access that must wait, with the place it takes in the share. -/
def Acc.placed (acc : Acc) : Acc := if acc.kind.enters then { acc with eid := some (acc.eid.getD acc.wid) } else acc

/-- The place of an access that waits is reserved in the share (R248), after a forced commit when it would overflow (R287). -/
def State.reserve (s : State) (acc : Acc) : State :=
  match acc.eid, acc.entry acc.wid, s.block? acc.bid with
  | none, some e, some b =>
    if b.overflows e && !b.share.isEmpty && !b.shape.det then s.forceFirst b acc
    else s.modBlock acc.bid (fun b => { b with share := b.share ++ [e] })
  | _, _, _ => s

/-- An access waits in the operand log without a record: a load until the reserved places it overlaps are filled or released (R248), any
until the transfer of its page is over (R396). -/
def State.waitPlace (s : State) (b : Block) (acc : Acc) : State :=
  let q := s.newId
  let o : OpEntry :=
    { id := q.1, vf := b.vf, seq := 0, core := b.core, acc := some acc, waiter := .place, replay := true, bad := false }
  { q.2 with oplog := q.2.oplog ++ [o] }

/-! ### The checks of an access to memory (R237, R254, R298, R299, R309) -/

/-- What translation and the type checks of an access give. ask: the line's tag stands at another package. -/
inductive Prep where
  | go (s : State) (acc : Acc) (data : List Byte) (ty : TBit)
  | ask (s : State) (acc : Acc) (pkg adr : Nat)
  | paged (s : State) (cause : Nat)
  | wait (s : State)
  | fault (code : Nat)

/-- The fault of an access by the tag that its line has at the home (R237, R298, R299, R309).
[log 99: DEDUCED, unsafe] -/
def MemK.tagFault (k : MemK) (lt tag : TBit) : Option Nat :=
  match k with
  | .load .. => if tag != lt then some 0x21 else none
  | .store _ appr => if (tag == .A) != appr then some 0x21 else none
  | .acq .. | .refillRet | .refillRej _ | .spillRet _ | .spillRej _ | .red .. | .atom .. | .rel .. => if tag == .A then some 0x21 else none
  | .bget _ | .lnch _ | .ltag _ | .home .. => none

/-- Whether an access reads through its block's share (R284, R248); LNCH and ACQ read at the home (R38, R299). -/
def MemK.viaShare : MemK → Bool
  | .load .. | .bget _ | .refillRet | .refillRej _ => true
  | _ => false

/-- The checks of an access whose line stands in this package at pa (R237, R254).
[log 99: DEDUCED, unsafe] -/
def State.typedHere (s : State) (b : Block) (acc : Acc) (pa : Nat) : Prep :=
  let acc := { acc with pa := some pa }
  let tag := s.tag pa
  match acc.kind.tagFault acc.lt tag with
  | some f => .fault f
  | none =>
    match acc.kind with
    | .load _ _ _ nl1 _ =>
      let r := s.loadBytes b acc.tid acc.know acc.a pa acc.n nl1
      .go r.2.2 acc (acc.overlay r.1) r.2.1
    | .bget _ | .refillRet | .refillRej _ =>
      let r := s.loadBytes b acc.tid acc.know acc.a pa acc.n false
      .go r.2.2 acc (acc.overlay r.1) r.2.1
    | .lnch _ =>
      let bs := acc.overlay (s.readMem pa acc.n)
      if (launchShape bs).isNone then .fault 0x70 else .go s acc bs tag
    | .acq .. => .go s acc (acc.overlay (s.readMem pa 8)) .P
    | .ltag a => if a && !(s.target pa).tagged then .fault 0x13 else .go s acc [] tag
    | _ => .go s acc [] tag

/-- The checks of an access whose line stands at pa. The tag of another package's line comes with the response to a load, or to a
request that asks for it before a store's or an atomic's check. -/
def State.typed (s : State) (b : Block) (acc : Acc) (pa : Nat) : Prep :=
  if acc.kind.viaShare && b.reserved acc.tid acc.wid acc.a acc.n then .wait s
  else
    match s.target pa with
    | .damask pkg win ofs =>
      (match acc.kind with
       | .home .. => .go s { acc with pa := some pa } [] .P
       | k => if k.loads then .go s { acc with pa := some pa } [] .P else .ask s { acc with pa := some pa } pkg (win * 2 ^ 32 + ofs))
    | _ => s.typedHere b acc pa

/-- Translation of an access, then its checks (R250). -/
def State.prepare (s : State) (b : Block) (acc : Acc) : Prep :=
  let p := s.translate (dieOf b.core) b.vf acc.a acc.kind.why
  match p.1 with
  | .error c => if c == waitCause then .wait p.2 else .paged p.2 c
  | .ok pa => p.2.typed b acc pa

/-! ### Carrying an access out -/

/-- The bytes a load found, in the order of its elements (R234). -/
def MemK.ordered : MemK → List Byte → List Byte
  | .load _ _ _ _ true, bs => swapHalves bs
  | _, bs => bs

/-- The registers a load writes: N elements of a type, each extended (R12, R250). -/
def ldRegs (d : G) (t : Ty) (ty : TBit) : Nat → List Byte → Nat → List (Nat × Reg)
  | 0, _, _ => []
  | n + 1, bs, k =>
    let sz := t.bits / 8
    let v := ofBytes (bs.take sz)
    let rest := fun w => ldRegs d t ty n (bs.drop sz) (k + w)
    if d == 0xFF#8 then []
    else if sz == 8 then
      ((next d k).toNat, ⟨BitVec.ofNat 32 v, ty⟩) :: ((next d (k + 1)).toNat, ⟨BitVec.ofNat 32 (v / 2 ^ 32), ty⟩) :: rest 2
    else
      let x := if t.isSigned then wrapInt 32 (intOf t v) else v
      ((next d k).toNat, ⟨BitVec.ofNat 32 x, ty⟩) :: rest 1

end Sys2Proof.Machine

namespace Sys2Proof

/-- Elements of an access. -/
def VCnt.num : VCnt → Nat
  | .v1 => 1
  | .v2 => 2
  | .v4 => 4

end Sys2Proof

namespace Sys2Proof.Machine

/-- An entry enters the share, after a forced commit when it would overflow (R287, R388). -/
def State.store (s : State) (acc : Acc) (e : Entry) : State :=
  match s.block? acc.bid with
  | none => s
  | some b =>
    if acc.eid.isNone && b.overflows e && !b.shape.det then s.forceFirst b acc
    else
      let s := (s.enter acc.bid e).entered acc
      State.advance acc.bid commitFuel s

/-- Entries have been performed: they leave the share and their commit's set, and the block's commits go on (R288). -/
def State.entriesDone (s : State) (bid : Nat) (eids : List Nat) : State :=
  State.advance bid commitFuel (s.modBlock bid fun b =>
    { b with share := b.share.filter (fun e => !eids.contains e.eid), handed := b.handed.filter (fun e => !eids.contains e.eid),
             commits := b.commits.map fun c => { c with set := c.set.map (fun l => l.filter (fun x => !eids.contains x)) } })

/-- An entry of a commit as an access at its home. -/
def homeAcc (b : Block) (e : Entry) (waits : Bool) : Acc :=
  { bid := b.bid, tid := e.tid, kind := .home e waits, space := 0, owner := 0, o := 0, q := e.va, a := e.va, n := e.bytes.length,
    lt := .P, flag := none, site := e.site, addr := e.addr, last := e.last, word := 0, img := 0, eid := none, wid := e.wid,
    pa := some e.pa, know := Know.none, pkt := 0, sig := none, homed := true, kept := [], team := e.team }

/-- The entries that merge into the one of entry e, which its commit performs as one act (R287, R294): the stores and LTAGs of its line
among the commit's set. -/
def Block.lineOf (b : Block) (e : Entry) : List Entry :=
  let set := match b.commits.head? with | some c => c.set.getD [] | none => []
  let rest := (b.share.dropWhile (fun x => x.eid != e.eid)).drop 1
  if e.line?.isNone || !b.share.any (fun x => x.eid == e.eid) then [e]
  else e :: (rest.filter (fun x => set.contains x.eid && x.line? == e.line? && x.pa / 128 == e.pa / 128))

/-- What an entry sends to another package: operation and data (R236, R406).
[log 22: PRESUMED, unsafe] -/
def Entry.message (e : Entry) : BitVec 7 × List Byte :=
  match e.kind with
  | .store => (opStore, e.bytes)
  | .red op t => (opAtom, atomData op t (ofBytes e.bytes) 0)
  | .obj add => (opStore, e.bytes ++ bytesOf 1 (if add then 1 else 0))
  | .ltag .. => (opLtag, [1#8])

/-- The tag a message of an entry says its line has: a store merged into an LTAG finds that LTAG's. -/
def Entry.tagBit (es : List Entry) (e : Entry) : Bool :=
  match (es.takeWhile (fun x => x.eid != e.eid)).reverse.find? (fun x => match x.kind with | .ltag .. => true | _ => false), e.kind with
  | _, .ltag a _ => a
  | some x, _ => (match x.kind with | .ltag a _ => a | _ => e.appr)
  | none, _ => e.appr

/-- The first of a line's entries, and what merges into it, are performed at their home (R288); a line of another package is sent there,
and at system scope the commit waits for the answers. Entries that cannot reach their home wait in the operand log (R383, R392).
[log 33: DEDUCED, unsafe] -/
def State.performOne (s : State) (b : Block) (es : List Entry) (sys : Bool) : State :=
  match es with
  | [] => s
  | e :: _ =>
    match s.target e.pa with
    | .damask pkg win ofs =>
      let at_ (x : Entry) : Nat := win * 2 ^ 32 + ofs / 128 * 128 + x.pa % 128
      let s := es.foldl (fun s x => s.sendAcc b (homeAcc b x sys) pkg (at_ x) x.message.1 x.message.2 (x.tagBit es) x.bad) s
      if sys then s else s.entriesDone b.bid (es.map (fun x => x.eid))
    | _ =>
      let r := s.reach (dieOf b.core) e.pa
      if r.1 then (r.2.performEntries b es).entriesDone b.bid (es.map (fun x => x.eid))
      else (r.2.pageFault b (homeAcc b e true) 4).settleRecords

/-- Whether an entry waits for its home. -/
def State.waitsHome (s : State) (bid eid : Nat) : Bool :=
  s.oplog.any fun o => match o.acc with
    | some a => a.bid == bid && (match a.kind with | .home e _ => e.eid == eid | _ => false)
    | none => false

/-- Whether an earlier entry of the same line, and block, still waits at its home or for its answer: entries of one line keep their order
(R14, R288). -/
def State.lineWaits (s : State) (bid : Nat) (e : Entry) : Bool :=
  s.oplog.any fun o => match o.acc with
    | some a => a.bid == bid && (match a.kind with
      | .home x _ => x.va / 128 == e.va / 128 && x.eid != e.eid && decide (x.wid < e.wid)
      | _ => false)
    | none => false

/-- The scope of an atomic's commit (R287). -/
def atomScope (ord : Ord) (sc : Scope) : Scope := match ord with | .rlx => .dev | _ => sc

/-- What the share gives a load of another package's line as it is sent (R284). -/
def State.keepShare (s : State) (b : Block) (acc : Acc) (pa : Nat) : Acc × State :=
  let p := shareBytes acc.know b.bid acc.tid b.entries acc.n pa s
  let found := (List.range acc.n).filterMap fun i =>
    match p.1.getD i none with
    | some v => if acc.kept.any (fun x => x.1 == acc.a + i) then none else some (acc.a + i, v)
    | none => none
  ({ acc with kept := acc.kept ++ found }, p.2)

/-- A load whose line stands in another package is sent there (R402, R406). -/
def State.sendLoad (s : State) (b : Block) (acc : Acc) (pa pkg adr : Nat) : State :=
  let p := if acc.kind.viaShare then s.keepShare b acc pa else (acc, s)
  p.2.sendAcc b p.1 pkg adr opLoad []

/-- A load that has found its bytes, here or in another package: what it does next (R249, R252, R299, R38, R155). It touches them at
their home (R358); a poisoned line or entry is consumed (R339); earlier loads of the thread that still wait meet what it found (R285). -/
def State.loaded (s : State) (b : Block) (acc : Acc) (data : List Byte) (ty : TBit) (pa : Nat) (bad : Bool) : State :=
  let s := s.watchGlobal 4 0 acc.a acc.n b acc.team acc.site
  let s := (s.eccLine b pa (bad || (acc.kind.viaShare && b.badForward pa acc.n))).keepFound acc.bid acc.tid acc.wid acc.a data
  match acc.kind with
  | .load d t n _ _ => s.addPend acc (.load d t n ty data acc)
  | .bget k => s.addPend acc (.bget k ty data)
  | .acq d _ => (s.acquireObject b acc.a).addPendBoth acc (.regs (regWrites d 8 (ofBytes data) .P) Know.none [])
  | .lnch d => s.addPend acc (.lnch d acc.a data)
  | .refillRet => s.addPend acc (.retIn (BitVec.ofNat 64 (ofBytes data)))
  | .refillRej k => s.addPend acc (.rejIn (BitVec.ofNat 64 (ofBytes data)) k)
  | _ => s

/-- A checked access is carried out (R249, R250, R287, R296-R300). -/
def State.carry (s : State) (acc : Acc) (data : List Byte) (ty : TBit) : State :=
  match s.block? acc.bid, acc.pa with
  | some b, some pa =>
    match acc.kind with
    | .load .. | .bget _ | .acq .. | .lnch _ | .refillRet | .refillRej _ =>
      (match s.target pa with
       | .damask pkg win ofs => s.sendLoad b acc pa pkg (win * 2 ^ 32 + ofs)
       | _ => s.loaded b acc data ty pa false)
    | .home e w =>
      let es := (b.lineOf e).map fun x => { x with pa := pa / 128 * 128 + x.va % 128 }
      s.performOne b es w
    | .store .. | .red .. | .spillRet _ | .spillRej _ =>
      (match acc.entry (acc.eid.getD acc.wid) with
       | some e => s.store acc { e with pa := pa }
       | none => s)
    | .ltag a =>
      (match acc.entry (acc.eid.getD acc.wid) with
       | some e => s.store acc { e with pa := pa, kind := .ltag a ((ty == .A) != a) }
       | none => s)
    | .atom _ _ _ _ _ ord sc => s.commit acc.bid (atomScope ord sc) true (.access acc)
    | .rel _ _ sc => s.commit acc.bid sc true (.access acc)
  | _, _ => s

/-- The tag of another package's line is asked for before a store's, an atomic's or an LTAG's check (R237, R254, R298, R406).
[log 33: DEDUCED, unsafe] -/
def State.askTag (s : State) (b : Block) (acc : Acc) (pkg adr : Nat) : State :=
  (s.sendAcc b acc.placed pkg adr (match acc.kind with | .ltag _ => opLtag | _ => opLoad) []).reserve acc

/-- An access is translated and checked, and goes its way; take is what the machine does as it issues, start what its thread does. -/
def State.sendOff (s : State) (b : Block) (acc : Acc) (take start : State → State) : State :=
  match s.prepare b acc with
  | .go s acc data ty => (start (take s)).carry acc data ty
  | .ask s acc pkg adr => (start (take s)).askTag b acc pkg adr
  | .paged s cause => (start ((take s).pageFault b acc.placed cause)).reserve acc
  | .wait s => ((start (take s)).waitPlace b acc.placed).reserve acc
  | .fault _ => s

/-- A fault found after issue of an access that is performed once for both copies of a pair reaches both (R330).
[log 66: DEDUCED, unsafe] -/
def State.failAccess (s : State) (a : Acc) (code : Nat) : State :=
  let s := s.lateFault a code
  let both : Bool := match a.kind with
    | .atom .. => a.space == 0
    | .acq .. => true
    | .rel .. => true
    | _ => false
  match s.block? a.bid with
  | none => s
  | some b =>
    match b.partner with
    | none => s
    | some p =>
      if both then
        let q := s.newId
        q.2.lateFault { a with bid := p, wid := q.1 } code
      else s

/-- An access that ends in a fault after its issue: its place is released (R248, R346). -/
def State.failLate (s : State) (acc : Acc) (code : Nat) : State :=
  State.advance acc.bid commitFuel ((s.releasePlace acc.bid acc.eid).failAccess acc code)

/-- A waiting access begins again (R242, R247): faults found now are asynchronous. One whose commit is performed only has its act at
the home before it. -/
def State.again (s : State) (acc : Acc) : State :=
  match s.block? acc.bid with
  | none => s
  | some b =>
    if acc.homed && (match acc.kind with | .home .. => false | _ => true) then
      let p := s.translate (dieOf b.core) b.vf acc.a acc.kind.why
      match p.1 with
      | .error c => if c == waitCause then p.2.waitPlace b acc else (p.2.pageFault b acc c).settleRecords
      | .ok pa => p.2.performHome { acc with pa := some pa }
    else
      let acc := { acc with pkt := 0 }
      match s.prepare b acc with
      | .fault f => s.failLate acc f
      | _ => (s.sendOff b acc id id).settleRecords

/-! ### Scratchpad (R229, R237, R254, R257-R260, R296) -/

/-- The type of a scratchpad position (R25). -/
def Block.posType (o : Block) (pos : Nat) : TBit := if pos < o.pbytes then .P else .A

/-- Whether an access to a scratchpad position faults by its type (R237, R298). -/
def scrFault (k : MemK) (ty : TBit) : Option Nat :=
  match k with
  | .store _ appr => if appr then (if ty == .P then some 0x01 else none) else if ty == .A then some 0x21 else none
  | .red .. | .atom .. => if ty == .A then some 0x21 else none
  | .ltag _ | .acq .. | .rel .. => some 0x14
  | _ => none

/-- An access to a scratchpad is performed at its bank (R249); a returning atomic after its commit (R287).
[log 50: DEDUCED, unsafe] -/
def State.carryScr (s : State) (acc : Acc) : State :=
  match s.block? acc.owner, s.block? acc.bid with
  | some o, some b =>
    let ty := o.posType acc.a
    let s := if acc.owner == acc.bid then s else s.count (dieOf b.core) (xKey (clusterOf b.core) 3) 1
    let seen (bit kind : Nat) (s : State) : State := s.watchScr bit kind o acc.a acc.n b acc.team acc.site
    let read (s : State) (k : List Byte → State → State) : State :=
      let r := State.scrBytes acc.know acc.bid acc.tid o acc.n acc.a s
      k r.1 (r.2.eccScr o acc.a acc.n)
    match acc.kind with
    | .load d t n _ _ => read (seen 4 0 s) (fun bs s => s.addPend acc (.load d t n ty bs acc))
    | .bget k => read (seen 4 0 s) (fun bs s => s.addPend acc (.bget k ty bs))
    | .store bs _ =>
      let s := seen 5 1 ((s.writeScr acc.owner acc.a bs (.thread acc.bid acc.tid)).overwritten (1 + acc.owner) acc.a bs.length)
      let s := s.modBlock acc.bid fun b => { b with regStore := true }
      s.modThread acc.bid acc.tid (fun t => t.endFlag acc.flag)
    | .red op t v =>
      let r := s.rmwBank acc.owner acc.a op t (ofBytes v) 0 acc.bid acc.tid
      let s := (seen 6 2 r.2).modBlock acc.bid fun b => { b with regStore := true }
      let changed : Bool := aopNew op t r.1 (ofBytes v) 0 != r.1
      s.modThread acc.bid acc.tid (fun t => (if changed then t.worked else t).endFlag acc.flag)
    | .atom _ _ _ _ _ ord sc => s.commit acc.bid (atomScope ord sc) true (.access acc)
    | _ => s
  | _, _ => s

/-! ### Issue -/

/-- The access a thread's present instruction makes at lane offset o through record img (R233, R242). -/
def State.acc (s : State) (u : Cur) (k : MemK) (o : Int) (n : Nat) (lt : TBit) (img : Rec) : Acc :=
  { bid := u.b.bid, tid := u.tid, kind := k, space := 0, owner := 0, o := o, q := (recPos img o n).getD 0, a := 0, n := n, lt := lt,
    flag := u.t.flagOf, site := u.t.site, addr := u.t.pc, last := u.t.lastSlot, word := (s.codeWord u.b u.t.pc).getD 0, img := img,
    eid := none, wid := s.ids, pa := none, know := u.t.know.own u.b.bid u.tid s.ids,
    pkt := if s.memo.isSome then s.packets else 0, sig := none, homed := false, kept := [], team := s.crew }

/-- The access with its signature's number, in a paired launch (R327). -/
def Acc.signs (acc : Acc) (b : Block) (t : Thread) : Acc :=
  { acc with sig := if b.partner.isSome && acc.kind.enters then some t.nsig else none }

/-- The thread counts the signature an access gives. -/
def Thread.countSig (t : Thread) (acc : Acc) : Thread := if acc.sig.isSome then { t with nsig := t.nsig + 1 } else t

/-- The loads of a thread that have not completed and overlap bytes of a later access of it keep what they found (R285). -/
def State.closeLoads (s : State) (acc : Acc) : State :=
  { s with pend := s.pend.map fun p => match p.kind, p.acc with
      | .load d t n ty bs x, some y =>
        if y.bid == acc.bid && y.tid == acc.tid && y.space == acc.space && y.owner == acc.owner && decide (y.a < acc.a + acc.n)
            && decide (acc.a < y.a + y.n)
        then { p with kind := .load d t n ty bs { x with pa := none }, acc := some { y with pa := none } } else p
      | _, _ => p }

/-- The thread's own state as an access issues: the flag counts it (R46), the spin detector notes a loaded line or a store
(R53, R54). line: the line loaded, none when the access reaches none. A reduction counts when it changes memory (R53), at its bank or
home.
[log 88: DEDUCED, safe] -/
def Thread.noteAccess (t : Thread) (flag : Option Nat) (k : MemK) (line : Option (Nat × Nat)) : Thread :=
  let t := t.addFlag flag
  match k, line with
  | .load .., some l | .bget .., some l | .acq .., some l => { t with spin := { t.spin with
      loaded := if t.spin.loaded.contains l then t.spin.loaded else t.spin.loaded ++ [l] } }
  | .store .., some _ | .ltag _, some _ | .rel .., _ => { t with spin := { t.spin with dirty := true, idle := 0 } }
  | _, _ => t

/-- A demoted thread that stores is promoted (R55). -/
def Thread.notePromote (t : Thread) (k : MemK) (line : Option (Nat × Nat)) : Thread :=
  match k, line with
  | .store .., some _ | .ltag _, some _ | .rel .., some _ => if t.mode == .demoted then { t with mode := .normal } else t
  | _, _ => t

/-- What a clamped access does (R233, R252, R254, R298-R300): zeros for a load, the zero record for BGET, nothing for a store; REL
commits. -/
def State.clampedAccess (s : State) (acc : Acc) : State :=
  match acc.kind with
  | .load d t n _ _ =>
    s.addPend acc (.regs (ldRegs d t acc.lt n.num (List.replicate (n.num * (t.bits / 8)) 0) 0) Know.none [])
  | .bget k => s.addPend acc (.bget k .P (List.replicate 16 0))
  | .atom d _ t _ _ _ _ => s.addPend acc (.regs (regWrites d (t.bits / 8) 0 .P) Know.none [])
  | .acq d _ => s.addPend acc (.regs (regWrites d 8 0 .P) Know.none [])
  | .rel _ _ sc => s.commit acc.bid sc true (.flag acc.tid acc.flag)
  | _ => s.modThread acc.bid acc.tid (fun t => t.endFlag acc.flag)

/-- The entry an access would make takes a deterministic block past SBUF: fault 0x60 (R388). -/
def Block.detFull (b : Block) (acc : Acc) : Bool :=
  b.shape.det && (match acc.entry acc.wid with | some e => b.overflows e | none => false)

/-- Whether a record names cluster scratchpad in a deterministic launch: fault 0x60 (R389). -/
def Block.detSpace (b : Block) (r : Rec) : Bool := b.shape.det && recSpace r == 2

/-- The fault an access takes at issue before anything is done: its record in a deterministic launch (R389), its place (R233), its
place's type (R237, R250), the share of a deterministic launch (R388).
[log 40: DEDUCED, unsafe] [log 41: DEDUCED, unsafe] -/
def State.accessFault (s : State) (b : Block) (acc : Acc) (loc : Located) : Option Nat :=
  if b.detSpace acc.img then some 0x60
  else
    match loc with
    | .fault f => some f
    | .scr o pos =>
      match s.block? o with
      | none => none
      | some x => scrFault acc.kind (x.posType pos)
    | .global a =>
      (match s.prepare b { acc with a := a } with
       | .fault f => some f
       | _ => if b.detFull { acc with a := a } then some 0x60 else none)
    | _ => none

/-- The state whose numbers begin after the present access's. -/
def State.issued (s : State) : State := { s with ids := s.ids + 1 }

/-- An access of the issuing thread at the place loc, which takes no fault at issue: the thread retires the instruction, and the
access goes its way. -/
def State.access (s : State) (u : Cur) (c : Ctl) (acc : Acc) (loc : Located) : State :=
  let start (acc : Acc) (line : Option (Nat × Nat)) (s : State) : State :=
    let t := ((u.t.noteAccess acc.flag acc.kind line).notePromote acc.kind line).countSig acc
    (s.setThread u.b.bid u.tid t).retire u.b u.tid (u.t.notePromote acc.kind line) c 1
  match loc with
  | .fault _ => s
  | .clamped => (start acc none s.issued).clampedAccess acc
  | .absent => (start acc none s.issued).lateFault acc 0x15
  | .scr o pos =>
    let acc := { acc with space := 1, owner := o, a := pos }
    (start acc (some (1 + o, pos / 128)) (s.issued.closeLoads acc)).carryScr acc
  | .global a =>
    let acc := { acc with a := a }.signs u.b u.t
    s.sendOff u.b acc (fun s => s.issued.closeLoads acc) (start acc (some (0, a / 128)))

/-- A memory instruction: its checks, its place, its access (R249, R250). -/
def execAccess (c : Ctl) (s : State) (k : Cur → Checks) (place : Cur → Located) (acc : Cur → Acc) : Out :=
  execWith c s
    (fun u => { k u with fault := match (k u).fault with
      | some f => some f
      | none => s.accessFault u.b (acc u) (place u) })
    (fun u => s.access u c (acc u) (place u))

end Sys2Proof.Machine
end

