-- ==== Sys2Proof/Machine/Collective.lean ====
section
/-! DEFINITION. Collectives: arrivals, mismatches, and what the rendezvous unit writes (R9-R11, R62-R64, R66, R67, R159-R164). -/

namespace Sys2Proof.Machine

/-! ### Arrival (R62, R63) -/

/-- Whether two arrivals with one sequence number carry one signature (R62, R159). -/
def Arrival.same (x y : Arrival) : Bool := x.sig == y.sig && x.mask == y.mask

/-- Whether an arrival's mask names a lane. -/
def Arrival.names (x : Arrival) (lane : Nat) : Bool := x.mask.getLsbD lane

/-- Whether x is tied to a mismatch with y (R63): same number, other signature, one's mask names the other's lane. -/
def Arrival.clashes (x y : Arrival) : Bool :=
  x.seq == y.seq && x.oid != y.oid && !x.same y && (x.names y.lane || y.names x.lane)

/-- One round of R63: arrivals that clash, or whose mask names the lane of one that took the fault, take it. An arrival that only the
mask of a faulted one names stands, whatever its signature.
[log 90: DEDUCED, unsafe] -/
def badRound (l : List Arrival) : List Arrival :=
  l.map fun x => if x.bad then x else { x with bad := l.any (fun y => (!y.bad && x.clashes y)
    || (y.bad && y.seq == x.seq && y.lane != x.lane && x.names y.lane)) }

/-- Rounds until nothing changes: at most one per arrival. -/
def badRounds : Nat → List Arrival → List Arrival
  | 0, l => l
  | n + 1, l => badRounds n (badRound l)

/-- An arrival takes fault 0x30: asynchronous; its flag completes and nothing is written (R63). The image of the region start keeps
its own arrivals pending (R341). -/
def State.badArrival (s : State) (bid : Nat) (x : Arrival) : State :=
  s.modThread bid x.tid fun t =>
    let f : AsyncFault := { code := 0x30, addr := x.addr, last := x.last, site := x.site }
    { t.endFlag x.flag with fault := match t.fault with | some g => some g | none => some f }

/-- An arrival joins its gang's; those that now mismatch take the fault (R63). -/
def State.arrive (s : State) (bid gang : Nat) (x : Arrival) : State :=
  match s.block? bid with
  | none => s
  | some b =>
    match b.gangs[gang]? with
    | none => s
    | some g =>
      let old := g.arrivals.filter (fun y => !(y.bad && y.lane == x.lane && y.seq == x.seq)) ++ [x]
      let new := badRounds old.length old
      let s := s.modBlock bid (fun b => { b with gangs := b.gangs.set gang { g with arrivals := new } })
      let fresh := new.filter (fun y => y.bad && old.any (fun z => z.oid == y.oid && !z.bad))
      fresh.foldl (fun s y => s.badArrival bid y) s

/-- What a collective's instruction brings: its signature, mask and contribution. -/
structure Brings where
  sig  : CSig
  mask : Word
  lo   : Reg
  hi   : Reg
  idx  : Nat
  d    : Nat
  ps   : PF

/-- A collective (R62, R151): the mask register must be P-typed whatever the guard; the other sources are checked when the guard is
true; then a mask without the own lane gives fault 0x30, so that an A-typed source with such a mask gives 0x20; then the thread arrives.
[log 89: DEDUCED, unsafe] -/
def execCollective (c : Ctl) (s : State) (m : List (G × Nat)) (k : Cur → Checks) (f : Cur → Brings) : Out :=
  match s.cur with
  | none => .refused .noThread
  | some u =>
    let k := k u
    let x := f u
    let g := u.t.guard c
    .next (
      if !({ k with uses := m ++ k.uses }).ranges u.t then s.syncFault u.b u.tid u.t 0x01
      else if k.guardBad u.t c then s.syncFault u.b u.tid u.t 0x20
      else if m.any u.t.tainted then s.syncFault u.b u.tid u.t 0x20
      else if g && k.tainted u.t then s.syncFault u.b u.tid u.t 0x20
      else if !x.mask.getLsbD (laneOf u.tid) then s.syncFault u.b u.tid u.t 0x30
      else
        let flag := if g then u.t.flagOf else none
        let a : Arrival :=
          { seq := u.t.seq, lane := laneOf u.tid, tid := u.tid, sig := x.sig, mask := x.mask, guard := g, lo := x.lo,
            hi := x.hi, idx := x.idx, d := x.d, ps := x.ps, flag := flag, site := u.t.site, addr := u.t.pc,
            last := u.t.lastSlot, bad := false, oid := s.ids }
        let t := { u.t.addFlag flag with seq := u.t.seq + 1, spin := { u.t.spin with dirty := true, idle := 0 } }
        (({ s with ids := s.ids + 1 } : State).done u c 1 t).arrive u.b.bid (gangOf u.tid) a)

/-- A contribution of nothing. -/
def noReg : Reg := ⟨0, .P⟩

end Sys2Proof.Machine

namespace Sys2Proof

/-- The registers a mask specification names, and the mask (R82). -/
def MaskSpec.reads : MaskSpec → List (G × Nat)
  | .reg c => [(c, 1)]
  | .run .. => []
def MaskSpec.mask (t : Machine.Thread) : MaskSpec → Word
  | .reg c => t.val c
  | .run lsz first => BitVec.ofNat 32 ((2 ^ 2 ^ lsz.toNat - 1) * 2 ^ first.toNat)

end Sys2Proof

namespace Sys2Proof.Machine

/-! ### The instructions (R160) -/

/-- RDV (R160, R162). -/
def execRdv (c : Ctl) (m : G) (s : State) : Out :=
  execCollective c s [(m, 1)] (fun _ => precise [] [] [])
    (fun u => { sig := .rdv, mask := u.t.val m, lo := noReg, hi := noReg, idx := 0, d := 255, ps := 7 })

/-- RDV with an immediate mask. -/
def execRdvI (c : Ctl) (mask : Word) (s : State) : Out :=
  execCollective c s [] (fun _ => precise [] [] [])
    (fun _ => { sig := .rdv, mask := mask, lo := noReg, hi := noReg, idx := 0, d := 255, ps := 7 })

/-- A shuffle (R67, R160, R161): the value may be A-typed. -/
def execShuffle (which : Nat) (c : Ctl) (d a b m : G) (wide : Bool) (ps : PF) (s : State) : Out :=
  let n := wideN wide
  execCollective c s [(m, 1)]
    (fun _ => { uses := [(d, n), (a, n), (b, 1)], taint := [(b, 1)], ptaint := [], ap := false, fault := none })
    (fun u => { sig := .shuffle which wide, mask := u.t.val m, lo := u.t.reg a, hi := u.t.reg (next a 1),
                idx := u.t.nat b % 32, d := d.toNat, ps := ps })

/-- GSHF: from a named lane (R161). -/
def execGshf (c : Ctl) (d a b m : G) (wide : Bool) (ps : PF) (s : State) : Out := execShuffle 0 c d a b m wide ps s
/-- GSHX: from the lane at an XOR distance (R161). -/
def execGshx (c : Ctl) (d a b m : G) (wide : Bool) (ps : PF) (s : State) : Out := execShuffle 1 c d a b m wide ps s
/-- GSHU: from a lane below (R161). -/
def execGshu (c : Ctl) (d a b m : G) (wide : Bool) (ps : PF) (s : State) : Out := execShuffle 2 c d a b m wide ps s
/-- GSHD: from a lane above (R161). -/
def execGshd (c : Ctl) (d a b m : G) (wide : Bool) (ps : PF) (s : State) : Out := execShuffle 3 c d a b m wide ps s

/-- What a ballot, any or all brings: the predicate's value. -/
def Cur.vote (u : Cur) (sig : CSig) (mask : Word) (d : Nat) (pa : PF) : Brings :=
  { sig := sig, mask := mask, lo := noReg, hi := noReg, idx := if (u.t.pred pa).val then 1 else 0, d := d, ps := 7 }

/-- GBAL (R66). -/
def execGbal (c : Ctl) (d : G) (pa : PF) (m : G) (s : State) : Out :=
  execCollective c s [(m, 1)] (fun _ => precise [(d, 1)] [] [pa]) (fun u => u.vote .ballot (u.t.val m) d.toNat pa)
/-- GBAL with an immediate mask (R66). -/
def execGbalI (c : Ctl) (d : G) (pa : PF) (mask : Word) (s : State) : Out :=
  execCollective c s [] (fun _ => precise [(d, 1)] [] [pa]) (fun u => u.vote .ballot mask d.toNat pa)
/-- GANY (R162). -/
def execGany (c : Ctl) (pd pa : PF) (m : G) (s : State) : Out :=
  execCollective c s [(m, 1)] (fun _ => precise [] [] [pa]) (fun u => u.vote .any (u.t.val m) pd.toNat pa)
/-- GANY with an immediate mask (R162). -/
def execGanyI (c : Ctl) (pd pa : PF) (mask : Word) (s : State) : Out :=
  execCollective c s [] (fun _ => precise [] [] [pa]) (fun u => u.vote .any mask pd.toNat pa)
/-- GALL (R162). -/
def execGall (c : Ctl) (pd pa : PF) (m : G) (s : State) : Out :=
  execCollective c s [(m, 1)] (fun _ => precise [] [] [pa]) (fun u => u.vote .all (u.t.val m) pd.toNat pa)
/-- GALL with an immediate mask (R162). -/
def execGallI (c : Ctl) (pd pa : PF) (mask : Word) (s : State) : Out :=
  execCollective c s [] (fun _ => precise [] [] [pa]) (fun u => u.vote .all mask pd.toNat pa)

/-- Registers a fold type takes (R107). -/
def foldN (t : Ty) : Nat := if t.bits == 64 then 2 else 1

/-- GRED (R163). -/
def execGred (c : Ctl) (ap : Bool) (d a : G) (t : Ty) (op : FoldOp) (m : MaskSpec) (s : State) : Out :=
  execCollective c s m.reads (fun _ => approx ap [(d, foldN t)] [(a, foldN t)])
    (fun u => { sig := .red ap t op, mask := m.mask u.t, lo := u.t.reg a, hi := u.t.reg (next a 1), idx := 0, d := d.toNat, ps := 7 })

/-- GSCN (R11, R163). -/
def execGscn (c : Ctl) (ap : Bool) (d a : G) (t : Ty) (op : FoldOp) (excl : Bool) (m : MaskSpec) (s : State) : Out :=
  execCollective c s m.reads (fun _ => approx ap [(d, foldN t)] [(a, foldN t)])
    (fun u => { sig := .scan ap t op excl, mask := m.mask u.t, lo := u.t.reg a, hi := u.t.reg (next a 1), idx := 0, d := d.toNat, ps := 7 })

/-- GMAT (R164): the value must be P-typed. -/
def execGmat (c : Ctl) (d a : G) (wide : Bool) (m : MaskSpec) (s : State) : Out :=
  execCollective c s m.reads (fun _ => precise [(d, 1)] [(a, wideN wide)] [])
    (fun u => { sig := .mat wide, mask := m.mask u.t, lo := u.t.reg a, hi := u.t.reg (next a 1), idx := 0, d := d.toNat, ps := 7 })

/-! ### Completion (R63, R161-R164) -/

/-- The neutral value of a fold (R163). -/
def neutral (op : FoldOp) (t : Ty) : Nat :=
  if t.isInt then
    match op with
    | .add | .or | .xor => 0
    | .and => 2 ^ t.bits - 1
    | .min => wrapInt t.bits (intMax t)
    | .max => wrapInt t.bits (intMin t)
  else
    match op with
    | .add => signBit t
    | .min => signBit t - 1
    | _ => 2 * signBit t - 1

/-- One exact step of a fold (R163). -/
def foldStep (op : FoldOp) (t : Ty) (a c : Nat) : Nat :=
  match op with
  | .add => if t.isInt then (a + c) % 2 ^ t.bits else rne t (sumF .rne [decodeF t a, decodeF t c])
  | .min => if rank t c < rank t a then c else a
  | .max => if rank t a < rank t c then c else a
  | .and => a &&& c
  | .or => a ||| c
  | .xor => a ^^^ c

/-- A step of an approximate fold: a member of the envelope of a sum; at level 8 any bits of a minimum or maximum (R163).
[log 14: DEDUCED, unsafe] [log 36: DEDUCED, unsafe] -/
def foldAp (level : Nat) (op : FoldOp) (t : Ty) (a c free : Nat) : Nat :=
  match op with
  | .add => envelope level t (foldStep op t a c) free
  | _ => if level == 8 then free % 2 ^ t.bits else foldStep op t a c

/-- The fold over lanes from i (R163): the value before and after each lane. -/
def foldLanes (ap : Bool) (level : Nat) (op : FoldOp) (t : Ty) (mask : Word) (con : Nat → Option Nat) (free : Nat) :
    Nat → Nat → Nat → List (Nat × Nat)
  | 0, _, _ => []
  | n + 1, i, acc =>
    if mask.getLsbD i then
      let c := (con i).getD (neutral op t)
      let new := if ap then foldAp level op t acc c (Config.freeWord (free + i)).toNat else foldStep op t acc c
      (acc, new) :: foldLanes ap level op t mask con free n (i + 1) new
    else (acc, acc) :: foldLanes ap level op t mask con free n (i + 1) acc

/-- The value an arrival contributes, of a width in bits. -/
def Arrival.value (x : Arrival) (bits : Nat) : Nat := (x.lo.val.toNat + x.hi.val.toNat * 2 ^ 32) % 2 ^ bits

/-- The source lane of a shuffle (R161). -/
def sourceLane (which lane n : Nat) : Nat :=
  match which with
  | 0 => n
  | 1 => lane ^^^ n
  | 2 => if lane < n then lane else lane - n
  | _ => if 31 < lane + n then lane else lane + n

/-- What the completion of a group writes into the thread of one participant x (R161-R164); ps are the participants. -/
def Arrival.finish (x : Arrival) (level free : Nat) (ps : List Arrival) (t : Thread) : Thread :=
  let d : G := BitVec.ofNat 8 x.d
  let pd : PF := BitVec.ofNat 3 x.d
  let at_ (l : Nat) : Option Arrival := ps.find? (fun y => y.lane == l && y.guard)
  let wr (bits v : Nat) (ty : TBit) : Thread :=
    let t := t.setReg d ⟨BitVec.ofNat 32 v, ty⟩
    if bits == 64 then t.setReg (next d 1) ⟨BitVec.ofNat 32 (v / 2 ^ 32), ty⟩ else t
  if !x.guard then t
  else
    match x.sig with
    | .rdv => t
    | .shuffle which wide =>
      (match at_ (sourceLane which x.lane x.idx) with
       | some y =>
         let t := t.setReg d y.lo
         (if wide then t.setReg (next d 1) y.hi else t).setPred x.ps ⟨true, .P⟩
       | none => (wr (if wide then 64 else 32) 0 .P).setPred x.ps ⟨false, .P⟩)
    | .ballot => wr 32 (ps.foldl (fun v y => if y.guard && y.idx == 1 then v + 2 ^ y.lane else v) 0) .P
    | .any => t.setPred pd ⟨ps.any (fun y => y.guard && y.idx == 1), .P⟩
    | .all => t.setPred pd ⟨ps.all (fun y => !y.guard || y.idx == 1), .P⟩
    | .red ap ty op =>
      let l := foldLanes ap level op ty x.mask (fun i => (at_ i).map (·.value ty.bits)) free 32 0 (neutral op ty)
      wr ty.bits ((l.getLast?.map (·.2)).getD 0) (tyOf ap)
    | .scan ap ty op excl =>
      let l := foldLanes ap level op ty x.mask (fun i => (at_ i).map (·.value ty.bits)) free 32 0 (neutral op ty)
      let p := l.getD x.lane (0, 0)
      wr ty.bits (if excl then p.1 else p.2) (tyOf ap)
    | .mat wide =>
      let w := if wide then 64 else 32
      wr 32 (ps.foldl (fun v y => if y.guard && y.value w == x.value w then v + 2 ^ y.lane else v) 0) .P

/-- Whether a lane of a gang holds a live thread. -/
def Block.laneLive (b : Block) (gang lane : Nat) : Bool :=
  match b.thread? (32 * gang + lane) with
  | some t => t.life == .live
  | none => false

/-- The arrivals an arrival meets. -/
def Gang.group (g : Gang) (x : Arrival) : List Arrival :=
  g.arrivals.filter (fun y => y.seq == x.seq && !y.bad && y.same x)

/-- Whether an arrival can complete: each lane its mask names holds no live participant or an equal arrival, and no lane of the
mask took fault 0x30 (R63). -/
def Block.canMeet (b : Block) (gang : Nat) (g : Gang) (x : Arrival) : Bool :=
  !x.bad && (List.range 32).all fun l =>
    !x.names l || (g.group x).any (fun y => y.lane == l)
      || (!b.laneLive gang l && !g.arrivals.any (fun y => y.seq == x.seq && y.bad && y.lane == l))

/-- The arrivals that complete leave a gang. -/
def Gang.without (g : Gang) (done : List Arrival) : Gang :=
  { g with arrivals := g.arrivals.filter (fun x => !done.any (fun y => y.oid == x.oid)) }

/-- A gang's completed collectives in an image: each completes there too where every arrival it met was made before the image was
taken; one that met a newer arrival waits there for it to be made again (R341).
[log 37: DEDUCED, unsafe] -/
def Image.meet (img : Image) (gang level : Nat) (free : Nat) (g : Gang) (done : List Arrival) : Image :=
  let old := done.filter (fun x => (g.group x).all (fun y => decide (y.oid < img.mark)))
  { img with
    gangs := img.gangs.modify gang (fun g => g.without old)
    threads := old.foldl (fun (ts : List Thread) x => ts.modify x.tid (fun t =>
      (Thread.noteChange t (x.finish level free (g.group x) t)).endFlag x.flag)) img.threads }

/-- RENDEZVOUS_COMPLETE (R63): the arrivals with one sequence number that can complete do.
[log 36: DEDUCED, unsafe] -/
def execRendezvousComplete (bid gang : Nat) (seq : BitVec 16) (s : State) : Out :=
  match s.block? bid with
  | none => .next s
  | some b =>
    match b.gangs[gang]? with
    | none => .next s
    | some g =>
      let done := g.arrivals.filter (fun x => x.seq == seq && b.canMeet gang g x)
      let s := s.modBlock bid fun b => { b with
        gangs := b.gangs.modify gang (fun g => g.without done)
        image := b.image.meet gang b.level s.free g done
        ckpt := b.ckpt.meet gang b.level s.free g done }
      let s := done.foldl (fun s x => s.modThread bid x.tid (fun t =>
        (Thread.noteChange t (x.finish b.level s.free (g.group x) t)).endFlag x.flag)) s
      .next { s with free := s.free + 32 }

end Sys2Proof.Machine
end

