-- ==== Sys2Proof/Machine/Future.lean ====
section
/-! DEFINITION. Handles and tokens: issuing a command, FTST, FWT and FCAN (R86, R165-R168, R228, R279). -/

namespace Sys2Proof.Machine

/-! ### Commands and their handles (R165, R166) -/

/-- Serial numbers count modulo this (R166). -/
def serials : Nat := 2 ^ 26

/-- A command takes the block's next serial: the core holds its status among the 256 most recent (R166). -/
def Block.takeSerial (b : Block) (cmd : Nat) (rel : Bool) : Block :=
  let x : Stat := { serial := b.serial, cmd := cmd, status := none, rel := rel, lines := [] }
  { b with serial := (b.serial + 1) % serials, stats := (x :: b.stats).take 256 }

/-- The handle an engine command names becomes pending (R86, R165). -/
def Thread.nameHandle (t : Thread) (e : Eng) (serial cmd : Nat) : Thread :=
  if e.hw then t.setHand e.h (.pending serial cmd) else t

/-- Whether an engine command names a handle that is pending: the thread parks until it completes (R165). -/
def Thread.handleBusy (t : Thread) (e : Eng) : Bool :=
  e.hw && (match t.hand e.h with | .pending .. => true | _ => false)

/-- The held command with a serial (R166). -/
def Block.stat? (b : Block) (serial : Nat) : Option Stat := b.stats.find? (fun x => x.serial == serial)

/-- A token of a block (R166). -/
def Block.token (b : Block) (serial : Nat) : Word := BitVec.ofNat 32 (2 ^ 31 + b.ridx % 32 * 2 ^ 26 + serial % serials)

/-- Whether a token carries the block's present resident index (R166). -/
def Block.tokenOk (b : Block) (w : Word) : Bool := w.getLsbD 31 && w.toNat / 2 ^ 26 % 32 == b.ridx % 32

/-- The command a token names; none when it has expired (R166). -/
def Block.resolve (b : Block) (w : Word) : Option Stat :=
  let d := (b.serial + serials - w.toNat % serials) % serials
  if 1 ≤ d && d ≤ 256 then b.stat? (w.toNat % serials) else none

/-! ### FTST and FWT (R167) -/

/-- FTST (R167). -/
def execFtst (c : Ctl) (pd : PF) (h : HF) (e : G) (s : State) : Out :=
  execLocal c 1 s (fun _ => precise [(e, 1)] [] [])
    (fun u =>
      let p := match u.t.hand h with
        | .idle => (true, 0#32)
        | .pending n _ => (false, u.b.token n)
        | .complete _ x => (true, u.b.token x.serial)
      (u.t.setPred pd ⟨p.1, .P⟩).setReg e ⟨p.2, .P⟩)

/-- A thread that reads the end of a command at once: its core's L1 drops the command's lines with status 0 (R293). -/
def State.readNow (s : State) (u : Cur) (c : Ctl) (d : G) (x : Stat) : State :=
  let s := s.done u c 1 (u.t.futureRead d x)
  if x.status == some 0 then
    s.modCore u.b.core fun k => { k with l1 := k.l1.filter (fun l => !(l.vf == u.b.vf && x.lines.contains l.key)) }
  else s

/-- A status that names no command (R165). -/
def bareStat (st : Byte) : Stat := { serial := 0, cmd := 0, status := some st, rel := false, lines := [] }

/-- FWT on the command x (R167): its status when it has one, else the thread's flag counts until it does. -/
def State.await (s : State) (u : Cur) (c : Ctl) (d : G) (x : Stat) : State :=
  let u := { u with t := { u.t with spin := { u.t.spin with dirty := true, idle := 0 } } }
  match x.status with
  | some _ => s.readNow u c d x
  | none =>
    let w : Fwt := { oid := s.ids, tid := u.tid, d := d, serial := x.serial, flag := u.t.flagOf }
    (({ s with ids := s.ids + 1 } : State).done u c 1 (u.t.addFlag u.t.flagOf)).modBlock u.b.bid fun b =>
      { b with fwts := b.fwts ++ [w] }

/-- FWT on a handle (R167). -/
def execFwt (c : Ctl) (d : G) (h : HF) (s : State) : Out :=
  execWith c s (fun _ => precise [(d, 1)] [] []) fun u =>
    s.await u c d (match u.t.hand h with
      | .idle => bareStat 3
      | .complete st x => { x with status := some st }
      | .pending n cmd => (u.b.stat? n).getD { bareStat 0 with serial := n, cmd := cmd, status := none })

/-- FWT on a token (R166, R167): one that does not carry the block's index gives fault 0x31. -/
def execFwtToken (c : Ctl) (d t : G) (s : State) : Out :=
  execWith c s
    (fun u => { precise [(d, 1)] [(t, 1)] [] with fault := if u.b.tokenOk (u.t.val t) then none else some 0x31 })
    (fun u => s.await u c d ((u.b.resolve (u.t.val t)).getD (bareStat 4)))

/-! ### FCAN (R168, R228, R279) -/

/-- An engine accepts a command, or drops it before: its clause flag counts down (R181, R208, R269). -/
def State.accepted (s : State) (bid tid oid : Nat) (f : Option Nat) : State := s.modBoth bid tid oid (fun t => t.endFlag f)

/-- The cancellation of a command of a block, by its number (R168): one that has not started completes cancelled; a running one is
marked.
[log 46: DEDUCED, safe] -/
def State.cancelCmd (s : State) (bid cmd : Nat) : State :=
  match s.xq.find? (fun c => c.id == cmd && c.bid == bid) with
  | some c =>
    if !c.accepted then (s.accepted bid c.tid c.id c.flag).endXfer c 2 []
    else if c.kind.ring.isSome then s.cancelRound c
    else { s with xq := s.xq.map fun x => if x.id == cmd then { x with cancel := true } else x }
  | none =>
    let core := s.coreOf bid
    match (s.core core).mq.find? (fun c => c.id == cmd && c.bid == bid) with
    | some c =>
      if c.started.isSome then
        s.modCore core fun k => { k with mq := k.mq.map fun x => if x.id == cmd then { x with cancel := true } else x }
      else
        let s := if c.accepted then s else s.accepted bid c.tid c.id c.flag
        (s.modCore core (·.giveBack c)).completeCmd bid c.serial cmd 2 false []
    | none => { s with ccols := s.ccols.map fun c => if c.id == cmd && c.bid == bid then { c with cancel := true } else c }

/-- FCAN on a handle (R167, R168). -/
def execFcan (c : Ctl) (h : HF) (s : State) : Out :=
  execWith c s (fun _ => precise [] [] []) fun u =>
    let s := s.done u c 1 u.t
    match u.t.hand h with
    | .pending _ cmd => s.cancelCmd u.b.bid cmd
    | _ => s

/-- FCAN on a token (R166-R168). -/
def execFcanToken (c : Ctl) (t : G) (s : State) : Out :=
  execWith c s
    (fun u => { precise [] [(t, 1)] [] with fault := if u.b.tokenOk (u.t.val t) then none else some 0x31 })
    (fun u =>
      let s := s.done u c 1 u.t
      match u.b.resolve (u.t.val t) with
      | some x => if x.status.isNone then s.cancelCmd u.b.bid x.cmd else s
      | none => s)

end Sys2Proof.Machine
end

