-- ==== Sys2Proof/Machine/Matrix.lean ====
section
/-! DEFINITION. The matrix engine and the accumulator store: MOP, ALD, AST, AZR, their acceptance and completion
(R182-R186, R192, R195-R197, R200-R228). -/

namespace Sys2Proof.Machine

/-! ### Issuing an engine command (R86, R165, R208, R269) -/

/-- An engine command of the issuing thread: a pending handle makes the thread wait; else the command takes a serial, its flag
counts, and add puts it into its queue. full: the queue has no room, and the thread parks until it is accepted.
[log 78: DEDUCED, unsafe] -/
def State.command (s : State) (u : Cur) (c : Ctl) (e : Eng) (full : Bool) (add : Nat → Nat → State → State) : State :=
  if u.t.handleBusy e then (s.setThread u.b.bid u.tid { u.t with park := .handle e.h }).popIssue
  else
    let id := s.ids
    let t := (u.t.addFlag u.t.flagOf).nameHandle e u.b.serial id
    let t := if full then { t with park := .engineQueue id } else t
    let s := ({ s with ids := s.ids + 1 } : State).done u c 1 t
    add id u.b.serial (s.modBlock u.b.bid (·.takeSerial id e.rel))

/-- A command is accepted: its flag counts down and the thread that waited for room runs on (R181, R208, R269).
[log 78: DEDUCED, unsafe] -/
def State.acceptFlag (s : State) (bid tid id : Nat) (f : Option Nat) : State :=
  s.modBoth bid tid id fun t =>
    let t := t.endFlag f
    match t.park with
    | .engineQueue n => if n == id then { t with park := .running } else t
    | _ => t

/-- An acquire wider than block scope in a deterministic launch (R222, R269). -/
def detAcquire (e : Eng) (det : Bool) : Option Nat := if det && e.acq && e.sc != .blk then some 0x60 else none

/-- What the engine must read new for a command of a thread (R185): the thread's stores before it, and with an acquire what the
thread knows. -/
def engineKnow (acq : Bool) (bid tid id : Nat) (k : Know) : Know :=
  { floor := if acq then k.floor else 0, writes := (bid, tid, id) :: (if acq then k.writes else []),
    cmds := if acq then k.cmds else [] }

/-- The thread number an engine reads as: no thread's (R185). -/
def engineTid : Nat := 2000

/-! ### The instructions (R221, R222) -/

/-- Entries of a core's matrix queue (R208). -/
def mqDepth : Nat := 16
def Core.mqFull (c : Core) : Bool := decide (mqDepth ≤ (c.mq.filter (fun m => m.accepted)).length)

/-- The offset of a matrix operand (R221). -/
def matrixOffset (g : Word) (disp : BitVec 12) : Int := (g + 64 * disp.signExtend 32).toInt

/-- A matrix command joins its core's queue. -/
def State.matrix (s : State) (u : Cur) (c : Ctl) (kind : MCmdK) (e : Eng) (img : Rec) (off : Int) (rows : Word) : State :=
  s.command u c e (s.core u.b.core).mqFull fun id serial s =>
    let m : MCmd :=
      { id := id, bid := u.b.bid, tid := u.tid, kind := kind, e := e, img := img, off := off, rows := rows, serial := serial,
        flag := u.t.flagOf, site := u.t.site, accepted := false, tab := [],
        know := engineKnow e.acq u.b.bid u.tid id u.t.know, cancel := false, after := [],
        par := none, range := [], took := [], refused := false, started := none, team := s.crew }
    s.modCore u.b.core fun k => { k with mq := k.mq ++ [m] }

/-- The checks of a matrix command (R222). -/
def matrixChecks (u : Cur) (e : Eng) (r : List (G × Nat)) : Checks :=
  { precise [] r [] with fault := detAcquire e u.b.shape.det }

/-- MOP (R221-R223). -/
def execMop (c : Ctl) (e : Eng) (m : MOpnd) (s : State) : Out :=
  execWith c s (fun u => matrixChecks u e [(m.off, 1)])
    (fun u => s.matrix u c .mop e (u.t.buf m.rec_) (matrixOffset (u.t.val m.off) m.disp) 0)

/-- ALD (R221, R222, R224). -/
def execAld (c : Ctl) (e : Eng) (m : MOpnd) (r : G) (t : Ty) (s : State) : Out :=
  execWith c s (fun u => matrixChecks u e [(m.off, 1), (r, 1)])
    (fun u => s.matrix u c (.ald t) e (u.t.buf m.rec_) (matrixOffset (u.t.val m.off) m.disp) (u.t.val r))

/-- AST (R186, R221, R222, R225). -/
def execAst (c : Ctl) (e : Eng) (m : MOpnd) (ai : Bool) (rm : Rm) (r : G) (t : Ty) (s : State) : Out :=
  execWith c s (fun u => matrixChecks u e [(m.off, 1), (r, 1)])
    (fun u => s.matrix u c (.ast t ai rm) e (u.t.buf m.rec_) (matrixOffset (u.t.val m.off) m.disp) (u.t.val r))

/-- AZR (R221, R222, R226). -/
def execAzr (c : Ctl) (e : Eng) (r : G) (s : State) : Out :=
  execWith c s (fun u => matrixChecks u e [(r, 1)]) (fun u => s.matrix u c .azr e 0 0 (u.t.val r))

/-! ### Acceptance (R183, R208) -/

/-- Whether a command waiting at a core can be accepted: the queue has room, and no command that reached the core before it waits
(R208). -/
def Core.canAccept (k : Core) (m : MCmd) : Bool :=
  !m.accepted && !k.mqFull && !(k.mq.takeWhile (fun x => x.id != m.id)).any (fun x => !x.accepted)

/-- The core whose queue holds a matrix command, with the command. -/
def State.matrixCmd? (s : State) (cmd : Nat) : Option (Nat × MCmd) :=
  s.cores.findSome? fun p => (p.2.mq.find? (fun m => m.id == cmd)).map (fun m => (p.1, m))

/-! ### The accumulator store (R215-R217, R226) -/

/-- The holder of a row. -/
def Core.rowOf (k : Core) (r : Nat) : Option (Nat × List Word) :=
  match k.rows.find? (fun x => x.1 == r) with
  | some x => some x.2
  | none => none

/-- An element of a row; a free row reads 0. -/
def Core.elem (k : Core) (r j : Nat) : Nat := match k.rowOf r with | some (_, l) => (l.getD j 0).toNat | none => 0

/-- Whether rows first to first + n - 1 hold one of another block, or one that the block does not hold (R217). -/
def Core.rowsTaken (k : Core) (bid first n : Nat) : Bool :=
  (List.range n).any fun i => match k.rowOf (first + i) with | some (b, _) => b != bid | none => false
def Core.rowsMissing (k : Core) (bid first n : Nat) : Bool :=
  (List.range n).any fun i => match k.rowOf (first + i) with | some (b, _) => b != bid | none => true

/-- A row of the store written for a block: the elements it writes hold no error any more. -/
def Core.setRow (k : Core) (bid r : Nat) (l : List Word) (written : Nat → Bool := fun _ => true) : Core :=
  { k with rows := (r, bid, l) :: k.rows.filter (fun x => x.1 != r)
           badElems := k.badElems.filter (fun e => !(e.1 == r && written e.2)) }

/-- Free rows of a range are taken hold of, reading 0 (R217). -/
def Core.claim (k : Core) (bid first : Nat) : Nat → Core
  | 0 => k
  | n + 1 =>
    let k := Core.claim k bid first n
    match k.rowOf (first + n) with
    | some _ => k
    | none => k.setRow bid (first + n) (List.replicate 128 0)

/-! ### Operands (R182, R184, R192, R195-R197, R204, R209, R212) -/

/-- What the engine reads of a command's block: n bytes from pos.
[log 45: DEDUCED, safe] -/
def State.engineBytes (s : State) (b : Block) (m : MCmd) (pos n : Nat) : List Byte × State :=
  let p := State.scrBytes { m.know with cmds := m.know.cmds ++ b.asts } m.bid engineTid b n pos s
  (p.1, p.2.eccRange b pos n)

/-- The code of element (r, k) of a tile of R rows and K elements in plane layout (R182). -/
def planeCode (bs : List Byte) (rows k planes r i : Nat) : Nat :=
  (List.range planes).foldl (fun v p =>
    let y := (bs.getD (p * (rows * k / 8) + r * (k / 8) + i / 8) 0).toNat
    v + y / 2 ^ (i % 8) % 2 * 2 ^ p) 0

/-- The own plane count of an operand type (R196). -/
def planesOf : Ty → Nat
  | .e2m1 | .lq2 => 4
  | .e3m2 | .e2m3 => 6
  | .f16 | .bf16 => 16
  | _ => 8

/-- Whether a declared plane count is allowed (R195, R196). -/
def planesOk (t : Ty) (p : Nat) : Bool :=
  match t with
  | .n8 => p ≤ 8
  | .s8 => p != 1 && p ≤ 8
  | t => p == 0 || p == planesOf t

/-- Small floats of the engine (R210). -/
def smallFloat (t : Ty) : Bool := [Ty.e2m1, .e3m2, .e2m3, .e4m3, .e5m2].contains t
def smallInt (t : Ty) : Bool := t == .n8 || t == .s8

/-- Whether the engine accepts an operand pair (R210). -/
def pairOk (ta tb : Ty) : Bool :=
  (smallFloat ta && (smallFloat tb || tb == .lq2)) || (ta == tb && (ta == .f16 || ta == .bf16)) || (smallInt ta && smallInt tb)

/-- Whether an operand pair reads scales (R201). -/
def pairScales (ta : Ty) : Bool := smallFloat ta

/-- The parameter block (R212). -/
structure Params where
  aoff  : Nat
  boff  : Nat
  sa    : Nat
  sb    : Nat
  m     : Nat
  n     : Nat
  k     : Nat
  crow  : Nat
  ta    : Ty
  tb    : Ty
  pa    : Nat
  pb    : Nat
  zero  : Bool
  tri   : Bool
  tkeep : Bool
  diag  : Int
  tconst : Word

/-- The parameter block's fields; none when check 1 of R213 fails. -/
def readParams (bs : List Byte) : Option Params :=
  let w := ofBytes bs
  let at_ (lo n : Nat) : Nat := w / 2 ^ (8 * lo) % 2 ^ (8 * n)
  match Ty.ofCode (BitVec.ofNat 5 (at_ 0x18 1)), Ty.ofCode (BitVec.ofNat 5 (at_ 0x19 1)) with
  | some ta, some tb =>
    let f := at_ 0x1C 1
    let p : Params :=
      { aoff := at_ 0 4, boff := at_ 4 4, sa := at_ 8 4, sb := at_ 12 4, m := at_ 0x10 2, n := at_ 0x12 2, k := at_ 0x14 2,
        crow := at_ 0x16 2, ta := ta, tb := tb, pa := at_ 0x1A 1, pb := at_ 0x1B 1, zero := f % 2 == 1,
        tri := f / 2 % 2 == 1, tkeep := f / 4 % 2 == 1, diag := intOf .s16 (at_ 0x1E 2),
        tconst := BitVec.ofNat 32 (at_ 0x20 4) }
    let mult (x lo hi : Nat) : Bool := x % 32 == 0 && lo ≤ x && x ≤ hi
    if at_ 0x18 1 < 32 && at_ 0x19 1 < 32 && f < 8 && at_ 0x1D 1 == 0 && at_ 0x24 28 == 0 && p.aoff % 128 == 0 && p.boff % 128 == 0
        && mult p.m 32 512 && mult p.n 32 128 && mult p.k 32 16384 && p.crow + p.m ≤ 512 && pairOk ta tb
        && planesOk ta p.pa && planesOk tb p.pb && (!p.tkeep || p.tri) then
      some { p with pa := if p.pa == 0 then planesOf ta else p.pa, pb := if p.pb == 0 then planesOf tb else p.pb }
    else none
  | _, _ => none

/-- Bytes of operands A and B (R209). -/
def Params.abytes (p : Params) : Nat := p.m * p.k * p.pa / 8
def Params.bbytes (p : Params) : Nat := if p.tb == .lq2 then p.n * p.k / 4 else p.n * p.k * p.pb / 8
/-- Bytes of the scale tiles of A and B (R204). -/
def Params.sabytes (p : Params) : Nat := (p.m + 127) / 128 * (p.k / 32) * 128
def Params.sbbytes (p : Params) : Nat := (p.n + 127) / 128 * (p.k / 32) * 128

/-- The status of the first check of R213 after the first that fails; 0 when none does.
[log 97: DEDUCED, unsafe] -/
def Params.check (p : Params) (k : Core) (b : Block) : Nat :=
  if b.pbytes < p.aoff + p.abytes || b.pbytes < p.boff + p.bbytes then 0x41
  else if k.rowsTaken b.bid p.crow p.m then 0x42
  else if pairScales p.ta && (p.sa % 128 != 0 || p.sb % 128 != 0 || b.pbytes < p.sa + p.sabytes || b.pbytes < p.sb + p.sbbytes) then 0x40
  else 0

/-- What the engine has read of the operands. -/
structure Operands where
  a  : List Byte
  b  : List Byte
  sa : List Byte
  sb : List Byte
  tab : List DWord

/-- An integer element of declared precision p (R195). -/
def declared (t : Ty) (p c : Nat) : Int := if t == .s8 && 2 ^ (p - 1) ≤ c then (c : Int) - 2 ^ p else c

/-- Weight k of column j of an LQ2 operand as an odd integer (R184, R197). -/
def Params.weight (p : Params) (o : Operands) (j k : Nat) : Int :=
  let at_ := 2 * (p.k / 8 * j + k / 8)
  let idx := (o.b.getD at_ 0).toNat + 256 * (o.b.getD (at_ + 1) 0).toNat
  let e := (o.tab.getD (idx % 512 / 4) 0).toNat / 2 ^ (16 * (idx % 4)) % 2 ^ 16
  (lq2Weights idx e).getD (k % 8) 0

/-- The value of element (i, k) of A and (k, j) of B as a float (R189, R197). -/
def Params.aval (p : Params) (o : Operands) (i k : Nat) : FVal := decodeF p.ta (planeCode o.a p.m p.k p.pa i k)
def Params.bval (p : Params) (o : Operands) (j k : Nat) : FVal :=
  if p.tb == .lq2 then (ofInt (p.weight o j k)).scale (-1) else decodeF p.tb (planeCode o.b p.n p.k p.pb j k)

/-- The scale of row or column r for K-block b in scale tiles (R204). -/
def scaleByte (p : Params) (bs : List Byte) (r b : Nat) : Nat :=
  (bs.getD (128 * (r / 128 * (p.k / 32) + b) + 32 * (r % 4) + r % 128 / 4) 0).toNat

/-- One K-block of one result element of a floating pair (R200). -/
def Params.blockF (p : Params) (o : Operands) (i j : Nat) (acc b : Nat) : Nat :=
  let sc : Option Int :=
    if pairScales p.ta then
      match scaleE (scaleByte p o.sa i b), scaleE (scaleByte p o.sb j b) with
      | some x, some y => some (x + y)
      | _, _ => none
    else some 0
  match sc with
  | none => 0x7FC00000
  | some e =>
    let s := sumF .rne ((List.range 32).map fun k => (p.aval o i (32 * b + k)).mul (p.bval o j (32 * b + k)))
    let s := match s with
      | .num _ 0 _ => .num false 0 0
      | s => s.scale e
    rne .f32 (sumF .rne [decodeF .f32 acc, s])

/-- One K-block of one result element of an integer pair (R201). -/
def Params.blockI (p : Params) (o : Operands) (i j : Nat) (acc b : Nat) : Nat :=
  let s : Int := (List.range 32).foldl (fun s k =>
    s + declared p.ta p.pa (planeCode o.a p.m p.k p.pa i (32 * b + k))
      * declared p.tb p.pb (planeCode o.b p.n p.k p.pb j (32 * b + k))) 0
  wrapInt 32 ((acc : Int) + s)

/-- A result element from its accumulator (R200, R201, R214). -/
def Params.result (p : Params) (o : Operands) (old i j : Nat) : Nat :=
  if p.tri && decide (p.diag < (j : Int) - i) then (if p.tkeep then old else p.tconst.toNat)
  else
    (List.range (p.k / 32)).foldl (fun acc b => if smallInt p.ta then p.blockI o i j acc b else p.blockF o i j acc b)
      (if p.zero then 0 else old)

/-- Whether a MOP computes element (i, j) from what it holds: no masked one, in a sub-tile that the engine came to (R214, R228). -/
def Params.reads (p : Params) (run : Nat → Nat → Bool) (i j : Nat) : Bool :=
  !p.zero && decide (i < p.m) && decide (j < p.n) && run (i / 32) (j / 32) && !(p.tri && decide (p.diag < (j : Int) - i))

/-- A MOP's rows written (R212, R214); run tells of a 32 by 32 sub-tile whether the engine came to it (R228). -/
def Params.rows (p : Params) (o : Operands) (k : Core) (bid : Nat) (run : Nat → Nat → Bool) : Nat → Core
  | 0 => k
  | i + 1 =>
    let k' := Params.rows p o k bid run i
    let row := (List.range 128).map fun j =>
      let old := k.elem (p.crow + i) j
      BitVec.ofNat 32 (if j < p.n && run (i / 32) (j / 32) then p.result o old i j else old)
    k'.setRow bid (p.crow + i) row fun j => decide (j < p.n) && run (i / 32) (j / 32) && !(p.tri && p.tkeep && decide (p.diag < (j : Int) - i))

/-! ### Where ALD and AST reach (R222, R224, R225) -/

/-- The position of n bytes at a matrix operand's offset: none gives status 0x41 (R222). The bytes follow one another from the place of
the offset, through a record of several rows or a swizzled one too.
[log 98: DEDUCED, unsafe] -/
def MCmd.place (m : MCmd) (b : Block) (n : Nat) : Option Nat :=
  if recSpace m.img != 1 || m.off % 64 != 0 || m.off < 0 then none
  else
    match recPos m.img m.off 1 with
    | none => none
    | some q => if q + n ≤ b.pbytes then some q else none

/-- First row and count of a row register; none gives status 0x41 (R221, R222). -/
def rowRange (w : Word) : Option (Nat × Nat) :=
  let n := w.toNat
  let first := n % 512
  let cnt := n / 2 ^ 16 % 512 + 1
  if n / 512 % 128 == 0 && n / 2 ^ 25 == 0 && first + cnt ≤ 512 then some (first, cnt) else none

/-- Element e of a row of b-bit elements in the packed form (R192). -/
def packedCode (bs : List Byte) (bits e : Nat) : Nat :=
  (List.range bits).foldl (fun v i =>
    let x := bits * e + i
    v + (bs.getD (x / 8) 0).toNat / 2 ^ (x % 8) % 2 * 2 ^ i) 0

/-- Codes of b bits packed into bytes (R192). -/
def packCodes (bits : Nat) (l : List Nat) : List Byte :=
  let v := l.foldr (fun c acc => c % 2 ^ bits + 2 ^ bits * acc) 0
  bytesOf (l.length * bits / 8) v

/-- The element an ALD loads for a code (R224). -/
def aldElem (t : Ty) (c : Nat) : Nat := if t.isInt then wrapInt 32 (intOf t c) else rne .f32 (decodeF t c)

/-- The code an AST stores for an element (R186, R225). -/
def astCode (t : Ty) (ai : Bool) (rm : Rm) (ph i j c : Nat) : Nat :=
  cvtBits t (if ai then .s32 else .f32) rm false (dither (i + ph) j) c % 2 ^ t.bits

/-! ### Acceptance (R183, R208, R217) -/

/-- What a command finds of the rows of its range when it is accepted. -/
structure Verdict where
  range   : List Nat
  refused : Bool
  par     : Option (List Byte)

/-- Rows first to first + n - 1. -/
def rowList (first n : Nat) : List Nat := (List.range n).map (first + ·)

/-- The rows of a command's range and whether status 0x42 is due (R213, R217); a command that another check rejects has none. A MOP's
parameter block is read now, for good when no earlier command and no acquire of its block stands before it (R185, R208, R212).
[log 45: DEDUCED, safe] -/
def State.verdict (s : State) (core : Nat) (m : MCmd) (b : Block) (first_ : Bool) : Verdict × State :=
  let k := s.core core
  let none_ : Verdict := { range := [], refused := false, par := none }
  let of (taken : Bool) (first n : Nat) (par : Option (List Byte)) : Verdict :=
    { range := if taken then [] else rowList first n, refused := taken, par := par }
  match m.kind with
  | .mop =>
    (match m.place b 64 with
     | none => (none_, s)
     | some q =>
       let r := s.engineBytes b m q 64
       let par := if first_ then some r.1 else none
       match readParams r.1 with
       | none => ({ none_ with par := par }, r.2)
       | some p =>
         let st := p.check k b
         (if st == 0 || st == 0x42 then of (st == 0x42) p.crow p.m par else { none_ with par := par }, r.2))
  | .ald t =>
    (match rowRange m.rows with
     | none => (none_, s)
     | some (first, cnt) =>
       if (m.place b (cnt * 16 * t.bits)).isNone then (none_, s) else (of (k.rowsTaken b.bid first cnt) first cnt none, s))
  | .azr =>
    (match rowRange m.rows with
     | none => (none_, s)
     | some (first, cnt) => (of (k.rowsTaken b.bid first cnt) first cnt none, s))
  | .ast .. =>
    (match rowRange m.rows with
     | none => (none_, s)
     | some (first, cnt) => ({ none_ with refused := k.rowsMissing b.bid first cnt }, s))

/-- MATRIX_ACCEPT (R183, R208, R217, R289): the command takes hold of the free rows of its range. -/
def execMatrixAccept (cmd : Nat) (s : State) : Out :=
  match s.matrixCmd? cmd with
  | none => .next s
  | some (core, m) =>
    match s.block? m.bid with
    | none => .next s
    | some b =>
      if !(s.core core).canAccept m then .next s
      else
        let after := if m.e.acq then b.commits.map (fun c => c.cid) else []
        let v := s.verdict core m b (after.isEmpty && !(s.core core).mq.any (fun x => x.accepted && x.bid == m.bid))
        let s := v.2
        let k := s.core core
        let m' := { m with
          accepted := true, tab := (List.range 128).map (k.lqt.get 0), after := after, par := v.1.par, range := v.1.range
          took := v.1.range.filter (fun r => (k.rowOf r).isNone), refused := v.1.refused }
        let k := m'.took.foldl (fun k r => k.claim b.bid r 1) k
        let acc := k.mq.filter (fun x => x.accepted)
        let rest := k.mq.filter (fun x => !x.accepted && x.id != cmd)
        let s := s.setCore core { k with mq := acc ++ [m'] ++ rest }
        .next ((s.modBlock m.bid (fun b => { b with regCmd := true })).acceptFlag m.bid m.tid m.id m.flag)

/-! ### Starting (R203, R208, R228) -/

/-- The status with which an AST is rejected; 0 when none is due (R217, R222). -/
def State.astStatus (s : State) (core : Nat) (m : MCmd) (b : Block) (t : Ty) : Nat :=
  match rowRange m.rows with
  | none => 0x41
  | some (first, cnt) =>
    if (m.place b (cnt * 16 * t.bits)).isNone then 0x41
    else if m.refused || (s.core core).rowsMissing b.bid first cnt then 0x42 else 0

/-- The engine starts a command: an AST.rs takes the block's dither phase, which advances (R186, R203). -/
def State.startMatrix (s : State) (core : Nat) (m : MCmd) (b : Block) : State :=
  let s := s.modCore core fun k =>
    { k with mq := k.mq.map fun x => if x.id == m.id then { x with started := some b.dither } else x }
  match m.kind with
  | .ast t _ .rs => if s.astStatus core m b t == 0 then s.modBlock b.bid (fun b => { b with dither := (b.dither + 1) % 8 }) else s
  | _ => s

/-- The number from which on a block's commands are cancelled when it rolls back (R331, R340). -/
def Block.regionMark (b : Block) : Nat := if b.partner.isNone then b.image.mark else b.ckpt.mark

/-- Whether a block, or its copy, is to roll back (R331, R340). -/
def State.erring (s : State) (b : Block) : Bool :=
  !b.errs.isEmpty || (match b.partner.bind s.block? with | some x => !x.errs.isEmpty | none => false)

/-- Whether a command's acquire is done: the commits that stood before it are performed, and at system scope their homes in other packages
have answered (R293).
[log 48: DEDUCED, unsafe] -/
def State.acquired (s : State) (b : Block) (e : Eng) (after : List Nat) : Bool :=
  !b.commits.any (fun c => after.contains c.cid) && !(e.acq && e.sc == .sys && s.homeWaits b.bid)

/-- Whether an accepted command is its block's oldest and its acquire is done (R208, R293); of a block that is to roll back, one that the
rollback does not cancel.
[log 48: DEDUCED, unsafe] -/
def State.canRun (s : State) (core : Nat) (m : MCmd) : Bool :=
  m.accepted
    && (match (s.core core).mq.find? (fun x => x.bid == m.bid && x.accepted) with | some x => x.id == m.id | none => false)
    && (match s.block? m.bid with
        | some b => s.acquired b m.e m.after && (m.started.isSome || !s.erring b || decide (m.id < b.regionMark))
        | none => false)

/-- A core's matrix engine starts the next command, or not yet, by a free choice (R228).
[log 46: DEDUCED, safe] -/
def State.settleEngine (s : State) (core : Nat) : State :=
  let q := (s.core core).mq
  if q.any (fun m => m.started.isSome) then s
  else
    match q.find? (s.canRun core) with
    | none => s
    | some m =>
      match s.block? m.bid with
      | none => s
      | some b =>
        let p := s.coin
        if p.1 then p.2.startMatrix core m b else p.2

/-! ### Completion (R208, R213, R216-R228) -/

/-- A matrix command leaves its queue and completes (R165); the rows of a killed block are free once it has none left (R228). -/
def State.endMatrix (s : State) (core : Nat) (m : MCmd) (status : Nat) : State :=
  let s := (s.modCore core fun k => { k with mq := k.mq.filter (fun x => x.id != m.id) }).completeCmd m.bid m.serial m.id status
    (m.e.rel && m.e.sc != .thread) []
  match s.block? m.bid with
  | some b => if b.killed && !(s.core core).mq.any (fun x => x.bid == m.bid) then s.freeRows core m.bid else s
  | none => s

/-- A command of the matrix engine that an error has hit, in an element of the store (0x91) or a checksum (0x93): the engine drops it, and
the block is handled by R219, R220 and R340; its handle does not complete. -/
def State.matrixError (s : State) (core : Nat) (m : MCmd) (code : Nat) : State :=
  (s.modCore core fun k => { k with mq := k.mq.filter (fun x => x.id != m.id) }).consumes m.bid code (coreIsland core)

/-- n candidate events of a target, until one is hit (R353). -/
def State.candidateMany (tgt die : Nat) : Nat → State → Bool × State
  | 0, s => (false, s)
  | n + 1, s =>
    let p := s.candidate tgt die
    if p.1 then p else State.candidateMany tgt die n p.2

/-- Whether a command that reads some elements of n rows meets an uncorrectable error in one (R219); each row is a candidate event of the
injector (R353).
[log 31: DEDUCED, unsafe] -/
def State.rowError (s : State) (core n : Nat) (reads : Nat → Nat → Bool) : Bool × State :=
  if (s.core core).badElems.any (fun e => reads e.1 e.2) then (true, s) else State.candidateMany 2 (dieOf core) n s

/-- The sub-tiles a MOP computes (R211, R214). -/
def Params.subtiles (p : Params) : Nat :=
  ((List.range (p.m / 32)).map fun i => ((List.range (p.n / 32)).filter fun j =>
    !(p.tri && decide (p.diag < ((32 * j : Nat) : Int) - ((32 * i + 31 : Nat) : Int)))).length).foldl (· + ·) 0

/-- The checksum comparisons of a MOP (R220): 64 for each K-block of each computed sub-tile. -/
def Params.checksums (p : Params) : Nat := 64 * (p.k / 32) * p.subtiles

/-- The parameter block of a MOP: as the engine read it at acceptance, or as it reads it now. -/
def State.mopParams (s : State) (b : Block) (m : MCmd) (q : Nat) : List Byte × State :=
  match m.par with
  | some bs => (bs, s)
  | none => s.engineBytes b m q 64

/-- The status of a MOP whose parameter block is read (R213). -/
def MCmd.mopStatus (m : MCmd) (p : Params) (k : Core) (b : Block) : Nat :=
  let st := p.check k b
  if m.refused && st != 0x41 then 0x42 else st

/-- MOP performed (R209-R214, R219, R220, R223, R228). A MOP's checksum comparisons are candidates of the injector (R353). -/
def State.runMop (s : State) (core : Nat) (m : MCmd) (b : Block) : State :=
  match m.place b 64 with
  | none => s.endMatrix core m 0x41
  | some q =>
    let r := s.mopParams b m q
    match readParams r.1 with
    | none => r.2.endMatrix core m 0x41
    | some p =>
      let st := m.mopStatus p (s.core core) b
      if st != 0 then r.2.endMatrix core m st
      else
        let a := r.2.engineBytes b m p.aoff p.abytes
        let c := a.2.engineBytes b m p.boff p.bbytes
        let x := if pairScales p.ta then c.2.engineBytes b m p.sa p.sabytes else ([], c.2)
        let y := if pairScales p.ta then x.2.engineBytes b m p.sb p.sbbytes else ([], x.2)
        let o : Operands := { a := a.1, b := c.1, sa := x.1, sb := y.1, tab := m.tab }
        let run (i j : Nat) : Bool := !m.cancel || (Config.freeWord (y.2.free + 4 * i + j)).getLsbD 0
        let s := { y.2 with free := y.2.free + 64 }
        let e := s.rowError core (if p.zero then 0 else p.m) (fun r j => decide (p.crow ≤ r) && p.reads run (r - p.crow) j)
        if e.1 then e.2.matrixError core m 0x91
        else
          let f := State.candidateMany 3 (dieOf core) p.checksums e.2
          if f.1 then f.2.matrixError core m 0x93
          else
            let k := (f.2.core core).claim b.bid p.crow p.m
            (f.2.setCore core (p.rows o k b.bid run p.m)).endMatrix core m (if m.cancel then 2 else 0)

/-- How many rows a command comes to before a cancellation (R228). -/
def State.rowsDone (s : State) (m : MCmd) (cnt : Nat) : Nat × State := if m.cancel then s.pick (cnt + 1) else (cnt, s)

/-- ALD performed (R217, R222, R224). -/
def State.runAld (s : State) (core : Nat) (m : MCmd) (b : Block) (t : Ty) : State :=
  match rowRange m.rows with
  | none => s.endMatrix core m 0x41
  | some (first, cnt) =>
    match m.place b (cnt * 16 * t.bits) with
    | none => s.endMatrix core m 0x41
    | some q =>
      if m.refused || (s.core core).rowsTaken b.bid first cnt then s.endMatrix core m 0x42
      else
        let r := s.engineBytes b m q (cnt * 16 * t.bits)
        let n := r.2.rowsDone m cnt
        let k := (n.2.core core).claim b.bid first cnt
        let k := (List.range n.1).foldl (fun k i =>
          k.setRow b.bid (first + i) ((List.range 128).map fun j =>
            BitVec.ofNat 32 (aldElem t (packedCode r.1 t.bits (128 * i + j))))) k
        (n.2.setCore core k).endMatrix core m (if m.cancel then 2 else 0)

/-- AST performed (R186, R203, R217, R219, R222, R225, R227), with the dither phase of its start. -/
def State.runAst (s : State) (core : Nat) (m : MCmd) (b : Block) (t : Ty) (ai : Bool) (rm : Rm) : State :=
  match s.astStatus core m b t, rowRange m.rows with
  | 0, some (first, cnt) =>
    (match m.place b (cnt * 16 * t.bits) with
     | none => s.endMatrix core m 0x41
     | some q =>
       let n := s.rowsDone m cnt
       let e := n.2.rowError core n.1 (fun r _ => decide (first ≤ r) && decide (r < first + n.1))
       if e.1 then e.2.matrixError core m 0x91
       else
         let k := e.2.core core
         let ph := m.started.getD b.dither
         let row (i : Nat) : List Byte :=
           packCodes t.bits ((List.range 128).map fun j => astCode t ai rm ph i j (k.elem (first + i) j))
         let bs := ((List.range n.1).map row).flatten
         let s := (e.2.writeScr b.bid q bs (.engine m.id)).watchScr 7 5 b q bs.length b m.team m.site
         let s := s.modBlock b.bid fun b => { b with asts := m.id :: b.asts }
         s.endMatrix core m (if m.cancel then 2 else 0))
  | st, _ => s.endMatrix core m st

/-- AZR performed (R226). -/
def State.runAzr (s : State) (core : Nat) (m : MCmd) (b : Block) : State :=
  match rowRange m.rows with
  | none => s.endMatrix core m 0x41
  | some (first, cnt) =>
    if m.refused || (s.core core).rowsTaken b.bid first cnt then s.endMatrix core m 0x42
    else
      let n := s.rowsDone m cnt
      let k := (n.2.core core).claim b.bid first cnt
      let k := (List.range n.1).foldl (fun k i => k.setRow b.bid (first + i) (List.replicate 128 0)) k
      (n.2.setCore core k).endMatrix core m (if m.cancel then 2 else 0)

/-- A command that the engine has started is performed. -/
def State.runMatrix (s : State) (core : Nat) (m : MCmd) (b : Block) : State :=
  match m.kind with
  | .mop => s.runMop core m b
  | .ald t => s.runAld core m b t
  | .ast t ai rm => s.runAst core m b t ai rm
  | .azr => s.runAzr core m b

/-- MATRIX_COMPLETE (R208, R213-R228): a command that has not started starts first.
[log 45: DEDUCED, safe] -/
def execMatrixComplete (cmd : Nat) (s : State) : Out :=
  match s.matrixCmd? cmd with
  | none => .next s
  | some (core, m) =>
    match s.block? m.bid with
    | none => .next s
    | some b =>
      if !s.canRun core m then .next s
      else if m.started.isSome then .next (s.runMatrix core m b)
      else .next ((s.startMatrix core m b).runMatrix core { m with started := some b.dither } b)

end Sys2Proof.Machine
end

