-- ==== Sys2Proof/Machine/Control.lean ====
section
/-! DEFINITION. Repetition, branches, calls, EXIT, rejoin regions, YLD and SLEEP (R40, R50, R53-R61, R70, R91, R153-R158). -/

namespace Sys2Proof.Machine

/-! ### RPT (R70, R91) -/

/-- The amount of a step code (R91). -/
def stepOf (c : BitVec 2) : Nat :=
  match c.toNat with
  | 0 => 0
  | 1 => 1
  | 2 => 2
  | _ => 4

/-- Whether fields d, a, b and c of an opcode can name general registers (R70, R81-R84); none for the classes B, E and S and for
another RPT, which may not be repeated (R91). -/
def repeatable (op : Nat) : Option (Bool × Bool × Bool × Bool) :=
  match op with
  | 0x06 | 0x03 => some (true, false, false, false)
  | 0x07 => some (false, true, false, false)
  | 0x08 => some (false, false, false, false)
  | 0x04 | 0x11 | 0x13 => some (true, true, true, false)
  | 0x05 | 0xCB | 0xCC => some (true, false, false, false)
  | 0x1A | 0x56 | 0x66 => some (false, true, true, false)
  | 0x2A | 0x76 => some (false, true, false, false)
  | 0xB1 | 0xB9 | 0xBB | 0xF1 => some (false, false, false, false)
  | 0xB6 => some (true, false, false, true)
  | 0xB7 => some (true, false, false, false)
  | 0xB8 | 0xBA => some (false, false, false, true)
  | 0x50 | 0x52 | 0xF0 => some (false, true, false, false)
  | 0x51 => some (true, false, false, false)
  | 0x02 | 0x19 | 0x33 | 0x3A | 0x3B | 0x3C | 0x67 | 0x68 | 0x90 | 0x92 | 0xF2 => some (true, true, false, false)
  | 0x80 | 0x81 | 0x82 | 0x83 | 0x84 | 0x85 | 0x86 | 0x87 => some (true, true, false, false)
  | 0xBC | 0xBD | 0xBE => some (true, true, false, true)
  | 0x16 | 0x38 | 0x39 | 0x63 | 0x8B | 0x8F | 0x93 | 0xB2 | 0xB3 | 0xB4 | 0xB5 | 0xF3 => some (true, true, true, true)
  | 0xC0 | 0xC1 | 0xD2 | 0xD3 | 0xD4 => some (true, false, true, false)
  | 0xC2 => some (true, false, false, false)
  | 0xC3 | 0xC4 | 0xC5 | 0xC6 => some (false, false, true, false)
  | 0xCD => some (false, false, true, true)
  | 0xD0 | 0xD1 => some (true, false, true, true)
  | _ =>
    if op == 0x01 || (0xA0 ≤ op && op ≤ 0xAA) || (0xC8 ≤ op && op ≤ 0xCA) || (0xD5 ≤ op && op ≤ 0xDD)
        || (0xE0 ≤ op && op ≤ 0xEC) then none
    else if (0x20 ≤ op && op ≤ 0x2F) || (0x40 ≤ op && op ≤ 0x4F) || (0x70 ≤ op && op ≤ 0x7F) || op == 0x0A || op == 0x9B then
      some (true, true, false, false)
    else some (true, true, true, false)

/-- Whether field f can be stepped n times by st: it names a general register and no index reaches gz or `.regs` (R70).
[log 34: DEDUCED, safe] -/
def stepFits (regs n st : Nat) (general : Bool) (f : BitVec 8) : Bool :=
  st == 0 || (general && decide (f.toNat + (n - 1) * st < 255) && decide (f.toNat + (n - 1) * st < regs))

/-- ENDR between predicates names no general register (R323): its form stands in mod. -/
def endrPredicate (f : Fields) : Bool := f.op == 0xF2#8 && f.md == 1#3

/-- A gang fold or matrix whose members are a run of lanes has no mask register in c (R82). -/
def runMask (f : Fields) : Bool := (f.op == 0xBC#8 || f.op == 0xBD#8 || f.op == 0xBE#8) && f.x.getLsbD 8

/-- Whether RPT of n repetitions may precede the word w (R70, R91).
[log 34: DEDUCED, safe] -/
def rptFits (regs n sd sa sb sc : Nat) (w : DWord) : Bool :=
  let f := Fields.unpack w
  match repeatable f.op.toNat with
  | none => false
  | some g =>
    let p := !endrPredicate f
    stepFits regs n sd (g.1 && p) f.d && stepFits regs n sa (g.2.1 && p) f.a && stepFits regs n sb (g.2.2.1 && p) f.b
      && stepFits regs n sc (g.2.2.2 && p && !runMask f) f.c

/-- RPT (R70, R91): the next word issues n times; RPT has no packet of its own, so the thread stays at the head of its packet. -/
def execRpt (n : BitVec 6) (sd sa sb sc : BitVec 2) (s : State) : Out :=
  match s.cur with
  | none => .refused .noThread
  | some u =>
    let k := n.toNat + 1
    let bad := match s.codeWord u.b (u.t.pc + 8) with
      | none => true
      | some w => !rptFits u.t.regs.length k (stepOf sd) (stepOf sa) (stepOf sb) (stepOf sc) w
    if u.t.lastSlot || bad then .next (s.syncFault u.b u.tid u.t 0x01)
    else
      let r : Rpt := { n := k, k := 0, sd := stepOf sd, sa := stepOf sa, sb := stepOf sb, sc := stepOf sc }
      .next (s.setThread u.b.bid u.tid { u.t with rpt := some r, pc := u.t.pc + 8, slot := u.t.slot + 1, seen := [] })

/-! ### Transfers (R53, R71, R153, R154) -/

/-- The header of the clause that holds the thread's instruction. -/
def Thread.base (t : Thread) : Addr := t.pc - BitVec.ofNat 57 (8 * t.slot)

/-- A target by a displacement in clause words (R85, R153). -/
def Thread.target (t : Thread) (imm : Word) : Addr := t.base + 8 * imm.signExtend 57

/-- The spin detector at a taken branch (R53, R54): clk is the cycle.
[log 94: DEDUCED, unsafe] -/
def Thread.spun (t : Thread) (dest : Addr) (clk : Nat) : Thread :=
  if t.pc < dest then t
  else if t.spin.branch == some (dest, t.pc) then
    let idle := if t.spin.dirty then 0 else t.spin.idle + 1
    let sp := { t.spin with idle := idle, dirty := false, loaded := [] }
    if 2 ≤ idle && t.mode == .normal then
      { t with mode := .demoted, spin := { sp with watched := t.spin.loaded.take 4, since := clk } }
    else { t with spin := sp }
  else { t with spin := { t.spin with branch := some (dest, t.pc), dirty := false, idle := 0, loaded := [] } }

/-- The thread at a header (R71). -/
def Thread.goTo (t : Thread) (dest : Addr) : Thread := { t with pc := dest, slot := 0, rpt := none }

/-- The return entry after the present slot (R154). -/
def Thread.returnEntry (t : Thread) : DWord :=
  BitVec.ofNat 64 ((if t.lastSlot then 2 ^ 63 else 0) + (if t.lastSlot then 0 else (t.slot + 1) % 8 * 2 ^ 57) + (t.pc + 8).toNat)

/-- The thread at the place a return entry names (R71, R154). -/
def Thread.resume (t : Thread) (w : DWord) : Thread :=
  let h := w.getLsbD 63
  { t with pc := w.setWidth 57, slot := if h then 0 else w.toNat / 2 ^ 57 % 8, rehdr := true, rpt := none }

/-- A taken transfer of the issuing thread, changed to t. -/
def State.doneAt (s : State) (u : Cur) (c : Ctl) (t : Thread) : State :=
  (s.setThread u.b.bid u.tid t).retireAt u.b u.tid u.t c

/-- BRA (R153). -/
def execBra (c : Ctl) (imm : Word) (s : State) : Out :=
  execWith c s (fun _ => precise [] [] []) fun u =>
    let dest := u.t.target imm
    s.doneAt u c ((u.t.spun dest (s.clkOf u.b.core)).goTo dest)

/-- BRX (R153). -/
def execBrx (c : Ctl) (a : G) (imm : Word) (stride : BitVec 2) (s : State) : Out :=
  execWith c s (fun _ => precise [] [(a, 1)] []) fun u =>
    let dest := u.t.target imm + BitVec.ofNat 57 (2 ^ (4 + stride.toNat) * u.t.nat a)
    s.doneAt u c ((u.t.spun dest (s.clkOf u.b.core)).goTo dest)

/-! ### The stacks' spills and refills (R155) -/

/-- An 8-byte access to the thread-local record at an offset (R18, R155). -/
def State.tlsAcc (s : State) (u : Cur) (k : MemK) (o : Nat) : Acc := { s.acc u k o 8 .P u.t.tls with flag := none }.signs u.b u.t
def State.tlsPlace (s : State) (u : Cur) (o : Nat) : Located := s.locate u.b u.tid u.t.tls o 8 8

/-- Depth of the stacks on the chip and in memory (R155). -/
def retDepth : Nat := 16
def rejDepth : Nat := 8
def spillDepth : Nat := 256

/-- Offset of spill slot k of the rejoin stack. -/
def rejSlot (k : Nat) : Nat := 0x800 + 8 * k

/-- A rejoin entry in memory. -/
def rejWord (e : Nat × Word) : DWord := BitVec.ofNat 64 (e.1 % 16 * 2 ^ 32 + e.2.toNat)

/-- A spill or refill of the issuing thread: start retires the instruction; the thread is parked until it is done. A spill is a store
for the spin detector (R53, R55). -/
def State.tlsAccess (s : State) (u : Cur) (acc : Acc) (loc : Located) (start : State → State) : State :=
  let start (s : State) : State := (start s).modThread u.b.bid u.tid
    (fun t => { (if acc.kind.enters then t.worked else t).countSig acc with park := .spill })
  match loc with
  | .global a =>
    let acc := { acc with a := a }
    s.sendOff u.b acc (fun s => s.issued.closeLoads acc) start
  | _ => s

/-- The fault a spill or refill takes at issue: 0x10 beyond the record or past slot 255 (R155), 0x21 at an A line. -/
def State.tlsFault (s : State) (u : Cur) (k : MemK) (n o : Nat) : Option Nat :=
  if spillDepth ≤ n then some 0x10 else s.accessFault u.b (s.tlsAcc u k o) (s.tlsPlace u o)

/-- The oldest return entry leaves for memory when the stack is full (R155). -/
def Thread.retOldest (t : Thread) : Option DWord := if t.ret.length < retDepth then none else t.ret.getLast?
/-- The oldest rejoin entry leaves for memory when the stack is full (R155). -/
def Thread.rejOldest (t : Thread) : Option (Nat × Word) := if t.rej.length < rejDepth then none else t.rej.getLast?

/-- The fault of a push of a return entry. -/
def State.callFault (s : State) (u : Cur) : Option Nat :=
  match u.t.retOldest with
  | none => none
  | some w => s.tlsFault u (.spillRet w) u.t.retSp (8 * u.t.retSp)

/-- A call to a target: the push, its spill, the transfer (R154, R155). -/
def State.callTo (s : State) (u : Cur) (c : Ctl) (dest : Addr) : State :=
  let e := u.t.returnEntry
  match u.t.retOldest with
  | none => s.doneAt u c ({ u.t with ret := e :: u.t.ret }.goTo dest)
  | some w =>
    s.tlsAccess u (s.tlsAcc u (.spillRet w) (8 * u.t.retSp)) (s.tlsPlace u (8 * u.t.retSp)) fun s =>
      s.doneAt u c ({ u.t with ret := e :: u.t.ret.dropLast, retSp := u.t.retSp + 1 }.goTo dest)

/-- CALL (R153-R155). -/
def execCall (c : Ctl) (imm : Word) (s : State) : Out :=
  execWith c s (fun u => { precise [] [] [] with fault := s.callFault u }) fun u => s.callTo u c (u.t.target imm)

/-- CALLR (R153): a pair that is no code address gives fault 0x02. -/
def execCallr (c : Ctl) (a : G) (s : State) : Out :=
  execWith c s
    (fun u => { precise [] [(a, 2)] [] with
      fault := if (u.t.pair a).toNat % 8 != 0 || (u.t.pair a).toNat / 2 ^ 57 != 0 then some 0x02 else s.callFault u })
    fun u => s.callTo u c ((u.t.pair a).setWidth 57)

/-- RET (R153-R155). -/
def execRet (c : Ctl) (s : State) : Out :=
  execWith c s
    (fun u => { precise [] [] [] with
      fault := match u.t.ret with
        | _ :: _ => none
        | [] => if u.t.retSp == 0 then some 0x02 else s.tlsFault u .refillRet 0 (8 * (u.t.retSp - 1)) })
    fun u =>
      match u.t.ret with
      | e :: rest => s.doneAt u c ({ u.t with ret := rest }.resume e)
      | [] =>
        s.tlsAccess u (s.tlsAcc u .refillRet (8 * (u.t.retSp - 1))) (s.tlsPlace u (8 * (u.t.retSp - 1))) fun s =>
          s.done u c 1 { u.t with retSp := u.t.retSp - 1 }

/-- EXIT (R40, R59, R156): the thread leaves its gang's masks, and the block commits at system scope (R287). -/
def execExit (c : Ctl) (s : State) : Out :=
  execWith c s (fun _ => precise [] [] []) fun u =>
    let s := s.done u c 1 { u.t with life := .exited }
    let s := s.modBlock u.b.bid fun b => { b.leaveGang u.tid with exits := b.exits + 1 }
    s.commit u.b.bid .sys true (.exit u.tid)

/-! ### Rejoin regions (R57-R61, R157) -/

/-- The live lanes of a thread's gang (R57). -/
def Block.liveMask (b : Block) (g : Nat) : Word :=
  (List.range 32).foldl (fun m l =>
    match b.thread? (32 * g + l) with
    | some t => if t.life == .live then m ||| laneBit l else m
    | none => m) 0

/-- A gang's masks changed. -/
def Block.modGang (b : Block) (g : Nat) (f : Gang → Gang) : Block := { b with gangs := b.gangs.modify g f }

/-- Clears a lane's bits in the masks of id. -/
def Gang.clear (g : Gang) (id lane : Nat) : Gang :=
  { g with arrival := g.arrival.modify id (· &&& ~~~laneBit lane), gone := g.gone.modify id (· &&& ~~~laneBit lane) }
/-- A lane arrives at id. -/
def Gang.arrive (g : Gang) (id lane : Nat) : Gang := { g with arrival := g.arrival.modify id (· ||| laneBit lane) }
/-- A lane is gone from id. -/
def Gang.leave (g : Gang) (id lane : Nat) : Gang := { g with gone := g.gone.modify id (· ||| laneBit lane) }

/-- The fault of a push of a rejoin entry. -/
def State.rjpFault (s : State) (u : Cur) : Option Nat :=
  match u.t.rejOldest with
  | none => none
  | some e => s.tlsFault u (.spillRej (rejWord e)) u.t.rejSp (rejSlot u.t.rejSp)

/-- RJP's effect with the gang mask m (R57). -/
def State.rjpWith (s : State) (u : Cur) (c : Ctl) (id : Nat) (m : Word) : State :=
  let e : Nat × Word := (id, m &&& u.b.liveMask (gangOf u.tid))
  let s := s.modBlock u.b.bid (fun b => b.modGang (gangOf u.tid) (·.clear id (laneOf u.tid)))
  match u.t.rejOldest with
  | none => s.done u c 1 { u.t with rej := e :: u.t.rej }
  | some o =>
    s.tlsAccess u (s.tlsAcc u (.spillRej (rejWord o)) (rejSlot u.t.rejSp)) (s.tlsPlace u (rejSlot u.t.rejSp)) fun s =>
      s.done u c 1 { u.t with rej := e :: u.t.rej.dropLast, rejSp := u.t.rejSp + 1 }

/-- RJP with an immediate mask (R57, R157). -/
def execRjp (c : Ctl) (id : BitVec 4) (mask : Word) (s : State) : Out :=
  execWith c s (fun u => { precise [] [] [] with fault := s.rjpFault u }) fun u => s.rjpWith u c id.toNat mask

/-- RJP with a mask in a register (R57, R157). -/
def execRjpReg (c : Ctl) (id : BitVec 4) (r : G) (s : State) : Out :=
  execWith c s (fun u => { precise [] [(r, 1)] [] with fault := s.rjpFault u }) fun u => s.rjpWith u c id.toNat (u.t.val r)

/-- The expected mask of a region is covered (R58). -/
def Gang.covers (g : Gang) (id : Nat) (expected : Word) : Bool :=
  expected &&& ~~~(g.arrival.getD id 0 ||| g.gone.getD id 0) == 0

/-- The timeout of a rejoin (R26, R60). -/
def Shape.timeout (p : Shape) : Nat := if p.rjto == 0 then 4096 else p.rjto

/-- A thread whose RJW id has popped the entry e (R58): it discards another region, or arrives and parks. -/
def Block.rejoin (b : Block) (tid id : Nat) (e : Nat × Word) : Block :=
  if e.1 != id then b.modGang (gangOf tid) (·.leave e.1 (laneOf tid))
  else
    (b.modGang (gangOf tid) (·.arrive id (laneOf tid))).modThread tid fun t =>
      { t with park := .rjw id e.2 b.shape.timeout }

/-- An instruction that makes the iteration of the spin detector a working one (R53). -/
def Thread.busy (t : Thread) : Thread := { t with spin := { t.spin with dirty := true, idle := 0 } }

/-- RJW (R58, R157). -/
def execRjw (c : Ctl) (id : BitVec 4) (s : State) : Out :=
  execWith c s
    (fun u => { precise [] [] [] with
      fault := if u.t.rej.isEmpty && u.t.rejSp != 0 then s.tlsFault u (.refillRej id.toNat) 0 (rejSlot (u.t.rejSp - 1)) else none })
    fun u =>
      match u.t.rej with
      | e :: rest => (s.done u c 1 { u.t.busy with rej := rest }).modBlock u.b.bid (·.rejoin u.tid id.toNat e)
      | [] =>
        if u.t.rejSp == 0 then s.done u c 1 u.t.busy
        else
          s.tlsAccess u (s.tlsAcc u (.refillRej id.toNat) (rejSlot (u.t.rejSp - 1))) (s.tlsPlace u (rejSlot (u.t.rejSp - 1))) fun s =>
            s.done u c 1 { u.t.busy with rejSp := u.t.rejSp - 1 }

/-- BRK of n entries on the chip (R59): the entries left, the ids popped, and what remains to pop. -/
def popRej : Nat → List (Nat × Word) → List Nat × List (Nat × Word) × Nat
  | 0, r => ([], r, 0)
  | n + 1, [] => ([], [], n + 1)
  | n + 1, e :: r =>
    let p := popRej n r
    (e.1 :: p.1, p.2)

/-- The ids' gone bits of a lane are set (R59). -/
def Block.discard (b : Block) (tid : Nat) (ids : List Nat) : Block :=
  b.modGang (gangOf tid) fun g => ids.foldl (fun g id => g.leave id (laneOf tid)) g

/-- The code of a refill for BRK with n entries still to pop; below 16 the code is RJW's id. -/
def brkCode (n : Nat) : Nat := 16 + n

/-- BRK (R59, R157): entries in memory are refilled and popped one by one. -/
def execBrk (c : Ctl) (n : BitVec 4) (s : State) : Out :=
  execWith c s
    (fun u => { precise [] [] [] with
      fault :=
        let p := popRej n.toNat u.t.rej
        if p.2.2 != 0 && u.t.rejSp != 0 then s.tlsFault u (.refillRej (brkCode p.2.2)) 0 (rejSlot (u.t.rejSp - 1)) else none })
    fun u =>
      let p := popRej n.toNat u.t.rej
      let fin (s : State) (t : Thread) : State := (s.done u c 1 t).modBlock u.b.bid (·.discard u.tid p.1)
      if p.2.2 != 0 && u.t.rejSp != 0 then
        s.tlsAccess u (s.tlsAcc u (.refillRej (brkCode p.2.2)) (rejSlot (u.t.rejSp - 1))) (s.tlsPlace u (rejSlot (u.t.rejSp - 1))) fun s =>
          fin s { u.t with rej := p.2.1, rejSp := u.t.rejSp - 1 }
      else fin s { u.t with rej := p.2.1 }

/-- A refilled return entry: the thread resumes there (R154, R155).
[log 35: DEDUCED, unsafe] -/
def State.retRefilled (s : State) (bid tid oid : Nat) (w : DWord) : State :=
  s.modBoth bid tid oid (fun t => { t.resume w with park := .running })

/-- A refilled rejoin entry (R58, R59, R155): code below 16 is RJW's id, else BRK goes on.
[log 35: DEDUCED, unsafe] -/
def State.rejRefilled (s : State) (bid tid : Nat) (p : Pend) (w : DWord) (code : Nat) : State :=
  let e : Nat × Word := (w.toNat / 2 ^ 32 % 16, w.setWidth 32)
  let s := s.modBoth bid tid p.id (fun t => { t with park := .running })
  if code < 16 then s.modBlock bid (·.rejoin tid code e)
  else
    let s := s.modBlock bid (·.discard tid [e.1])
    let n := code - 17
    match s.block? bid, s.thread? bid tid with
    | some b, some t =>
      if n == 0 || t.rejSp == 0 then s
      else
        let s := s.modThread bid tid (fun t => { t with rejSp := t.rejSp - 1, park := .spill })
        match s.locate b tid t.tls (rejSlot (t.rejSp - 1)) 8 8 with
        | .global a =>
          { s with ids := s.ids + 1 }.again
            { bid := bid, tid := tid, kind := .refillRej (brkCode n), space := 0, owner := 0, o := rejSlot (t.rejSp - 1), q := a, a := a,
              n := 8, lt := .P, flag := none, site := p.site, addr := p.addr, last := p.last, word := 0, img := t.tls, eid := none,
              wid := s.ids, pa := none, know := t.know.own bid tid s.ids, pkt := 0, sig := none, homed := false, kept := [],
              team := [(bid, tid)] }
        | _ => s.modThread bid tid (fun t => { t with park := .running })
    | _, _ => s

/-! ### YLD and SLEEP (R158) -/

/-- The issuing thread's tenure as lead ends (R50, R158). -/
def State.endTenure (s : State) (b : Block) (tid : Nat) : State :=
  s.modCore b.core fun c =>
    let q := quarterOf tid
    let x := c.quarters.get Quarter.reset q
    if x.lead == some (b.bid, tid) then { c with quarters := c.quarters.set q { x with lead := none, tenure := 0 } } else c

/-- YLD (R158). -/
def execYld (c : Ctl) (s : State) : Out :=
  execWith c s (fun _ => precise [] [] []) fun u => (s.done u c 1 u.t).endTenure u.b u.tid

/-- SLEEP (R158): SLEEP 0 acts as YLD. -/
def execSleep (c : Ctl) (n : BitVec 26) (s : State) : Out :=
  execWith c s (fun _ => precise [] [] []) fun u =>
    if n == 0 then (s.done u c 1 u.t).endTenure u.b u.tid
    else (s.done u c 1 u.t.busy).modThread u.b.bid u.tid (fun t => { t with park := .sleep n.toNat })

end Sys2Proof.Machine
end

