-- ==== Sys2Proof/Machine/MemInstr.lean ====
section
/-! DEFINITION. LD, ST, BSET, BGET, BCHK, LTAG and PREF (R249-R255). -/

namespace Sys2Proof

/-- Bytes of one element of a memory type (R250). -/
def Ty.bytes (t : Ty) : Nat := t.bits / 8

/-- Registers n elements of a type take (R250). -/
def memRegs (t : Ty) (n : VCnt) : Nat := n.num * (if t.bits == 64 then 2 else 1)

end Sys2Proof

namespace Sys2Proof.Machine

/-- The place of a lane's access through record k at b + disp (R233). -/
def State.placeOf (s : State) (u : Cur) (k : BF) (b : G) (disp : BitVec 16) (n al : Nat) : Located :=
  s.locate u.b u.tid (u.t.buf k) (offsetOf (u.t.val b) disp.toInt) n al

/-- A lane's access through record k at b + disp (R233, R242). -/
def State.accOf (s : State) (u : Cur) (m : MemK) (k : BF) (b : G) (disp : BitVec 16) (n : Nat) (lt : TBit) : Acc :=
  s.acc u m (offsetOf (u.t.val b) disp.toInt) n lt (u.t.buf k)

/-- Whether the two 16-byte chunks of a 32-byte access change places: each is swizzled by itself (R234, log 25), and both stay in the
aligned 32 bytes.
[log 25: DEDUCED, unsafe] -/
def Located.swaps (n : Nat) : Located → Bool
  | .global a => n == 32 && a % 32 == 16
  | .scr _ a => n == 32 && a % 32 == 16
  | _ => false

/-- The aligned bytes an access takes once its chunks are swizzled.
[log 25: DEDUCED, unsafe] -/
def Located.chunks (n : Nat) : Located → Located
  | .global a => .global (a / n * n)
  | .scr o a => .scr o (a / n * n)
  | l => l

/-- The type a load through a record gives where it is clamped, and requires in spaces 0 and 3 (R233, R237). -/
def loadTy (r : Rec) : TBit := if recSpace r == 1 || recSpace r == 2 then .P else recLt r

/-- LD (R249, R250). -/
def execLd (c : Ctl) (d : G) (k : BF) (b : G) (t : Ty) (n : VCnt) (cache : Cache) (disp : BitVec 16) (s : State) : Out :=
  let sz := n.num * t.bytes
  execAccess c s
    (fun _ => { uses := [(d, memRegs t n), (b, 1)], taint := [(b, 1)], ptaint := [], ap := false, fault := none })
    (fun u => (s.placeOf u k b disp sz sz).chunks sz)
    (fun u => s.accOf u (.load d t n (cache == .nl1) ((s.placeOf u k b disp sz sz).swaps sz)) k b disp sz (loadTy (u.t.buf k)))

/-- The bytes a store takes from its registers: the low bytes of each register or pair (R12, R250). -/
def storeBytes (th : Thread) (t : Ty) : Nat → G → List Byte
  | 0, _ => []
  | n + 1, d =>
    let v := if t.bits == 64 then (th.pair d).toNat else th.nat d
    bytesOf t.bytes v ++ storeBytes th t n (next d (if t.bits == 64 then 2 else 1))

/-- ST and ST.a (R90, R249, R250): the data of ST.a must be A-typed and its record of spaces 0 and 3 declare A lines. -/
def execSt (c : Ctl) (ap : Bool) (d : G) (k : BF) (b : G) (t : Ty) (n : VCnt) (_cache : Cache) (disp : BitVec 16)
    (s : State) : Out :=
  let sz := n.num * t.bytes
  let m := memRegs t n
  execAccess c s
    (fun u =>
      let r := u.t.buf k
      let allA := (List.range m).all (fun i => (u.t.reg (next d i)).ty == .A)
      { uses := [(d, m), (b, 1)], taint := if ap then [(b, 1)] else [(d, m), (b, 1)], ptaint := [], ap := ap,
        fault := if ap && (!allA || ((recSpace r == 0 || recSpace r == 3) && !recA r)) then some 0x01 else none })
    (fun u => (s.placeOf u k b disp sz sz).chunks sz)
    (fun u =>
      let bs := storeBytes u.t t n.num d
      s.accOf u (.store (if (s.placeOf u k b disp sz sz).swaps sz then swapHalves bs else bs) ap) k b disp sz .P)

/-- The record image four registers hold (R251). -/
def Thread.record (t : Thread) (d : G) : Rec := t.pair (next d 2) ++ t.pair d

/-- BSET (R251): an invalid image gives fault 0x14. -/
def execBset (c : Ctl) (d : G) (k : BF) (s : State) : Out :=
  execLocal c 1 s
    (fun u => { precise [] [(d, 4)] [] with fault := if recOk (u.t.record d) then none else some 0x14 })
    (fun u => u.t.setBuf k (u.t.record d))

/-- BGET (R252): what it reads is checked when it arrives. -/
def execBget (c : Ctl) (kd k : BF) (b : G) (disp : BitVec 16) (s : State) : Out :=
  execAccess c s (fun _ => precise [] [(b, 1)] [])
    (fun u => s.placeOf u k b disp 16 16)
    (fun u => s.accOf u (.bget kd) k b disp 16 .P)

/-- Whether R233 finds an access in bounds and aligned (R253); for space 2 the record's own bounds and the alignment. -/
def State.inBounds (s : State) (u : Cur) (r : Rec) (o : Int) (n : Nat) : Bool :=
  if recSpace r == 2 then
    match recPos r o n with
    | none => false
    | some q => (q - recBase r / 2 ^ 19 * 2 ^ 19) % n == 0
  else
    match s.locate u.b u.tid r o n n with
    | .global _ => true
    | .scr .. => true
    | _ => false

/-- BCHK (R253). -/
def execBchk (c : Ctl) (p : PF) (k : BF) (b : G) (t : Ty) (n : VCnt) (disp : BitVec 16) (s : State) : Out :=
  execLocal c 1 s (fun _ => precise [] [(b, 1)] [])
    (fun u => u.t.setPred p ⟨s.inBounds u (u.t.buf k) (offsetOf (u.t.val b) disp.toInt) (n.num * t.bytes), .P⟩)

/-- A line's first byte. -/
def Located.line : Located → Located
  | .global a => .global (a / 128 * 128)
  | l => l

/-- LTAG (R254): scratchpad spaces give fault 0x14, after 0x60 of a record of space 2 in a deterministic launch (R389). -/
def execLtag (c : Ctl) (k : BF) (b : G) (appr : Bool) (disp : BitVec 16) (s : State) : Out :=
  execAccess c s
    (fun u =>
      let r := u.t.buf k
      { precise [] [(b, 1)] [] with fault := if u.b.detSpace r then some 0x60 else if recSpace r == 1 || recSpace r == 2 then some 0x14 else none })
    (fun u => (s.placeOf u k b disp 128 128).line)
    (fun u => s.accOf u (.ltag appr) k b disp 128 .P)

/-- PREF (R255): where a load would fault it does nothing; a line of global memory enters the issuing core's L1.
[log 39: DEDUCED, safe] -/
def State.prefetch (s : State) (u : Cur) (r : Rec) (l2 : Bool) (loc : Located) : State :=
  match loc with
  | .global a =>
    let p := s.translate (dieOf u.b.core) u.b.vf a .read
    (match p.1 with
     | .ok pa => if l2 || p.2.tag pa != recLt r then s else (p.2.lineFor u.b.core u.b.vf a pa false).2.2
     | .error _ => s)
  | _ => s

/-- PREF (R255).
[log 39: DEDUCED, safe] -/
def execPref (c : Ctl) (k : BF) (b : G) (l2 : Bool) (disp : BitVec 16) (s : State) : Out :=
  execWith c s (fun _ => precise [] [(b, 1)] [])
    (fun u => (s.prefetch u (u.t.buf k) l2 (s.placeOf u k b disp 1 1)).done u c 1 u.t)

end Sys2Proof.Machine
end

