-- ==== Sys2Proof/Machine/Order.lean ====
section
/-! DEFINITION. ATOM, RED, ACQ, REL, BIND, FENCE, BAR, CMT and CKPT (R286, R292, R296-R305, R332), and the operations of a
paired launch that the leading copy performs once (R330). -/

namespace Sys2Proof.Machine

/-! ### Paired presentation (R330) -/

/-- An operation presented by the trailing copy's thread is compared with the leading copy's (R330, R331); a candidate event of
the injector (R353). -/
def State.compare (s : State) (b : Block) (key : List Nat) (o : Offer) : Bool × State :=
  let p := s.candidate 1 (dieOf b.core)
  (!p.1 && o.key == key, p.2)

/-- The trailing copy presents an operation; cmd is its command's number. -/
def State.present (s : State) (b : Block) (tid : Nat) (key : List Nat) (cmd : Nat) : State :=
  s.modBlock b.lead fun l => { l with offers := l.offers ++ [{ side := true, tid := tid, key := key, cmd := cmd }] }

/-- An operation of a paired block that is performed once (R330): act performs it, for the leading copy once the trailing one has
presented the same; trail is what the trailing copy does to present it. The leading thread waits and issues again. act learns the
trailing copy's command. -/
def State.once (s : State) (u : Cur) (key : List Nat) (act : Option Nat → State → State)
    (trail : State → State) : State :=
  match u.b.partner with
  | none => act none s
  | some _ =>
    if u.b.trailing then trail s
    else
      match u.b.offers.find? (fun o => o.tid == u.tid) with
      | none => (s.setThread u.b.bid u.tid { u.t with park := .pairPartner }).popIssue
      | some o =>
        let p := s.compare u.b key o
        if p.1 then
          act (some o.cmd) (p.2.modBlock u.b.bid fun b => { b with offers := b.offers.erase o })
        else (p.2.popIssue).consumes u.b.bid 0x90 0

/-- The operands of an access as a presentation compares them (R330). -/
def Acc.key (acc : Acc) (loc : Located) : List Nat :=
  let a := match loc with | .global a => a | _ => 0
  let k : List Nat := match acc.kind with
    | .atom _ op t v cmp _ _ => [op.code.toNat, t.code.toNat, v, cmp]
    | .rel v add _ => [v.toNat, if add then 1 else 0]
    | _ => []
  acc.word.toNat :: a :: k

/-- What the trailing copy does for an access performed by the leading one: the instruction retires with its flag counting, and a
commit point commits (R287, R329, R330). -/
def State.presented (s : State) (u : Cur) (c : Ctl) (acc : Acc) : State :=
  let s := ({ s with ids := s.ids + 1 } : State).done u c 1 (u.t.noteAccess acc.flag acc.kind none)
  match acc.kind with
  | .atom _ _ _ _ _ ord sc => s.commit acc.bid (atomScope ord sc) true (.access { acc with pa := some 0 })
  | .rel _ _ sc => s.commit acc.bid sc true (.access { acc with pa := some 0 })
  | _ => s

/-- A memory instruction that a paired launch performs once when it names global memory (R330). -/
def execOnce (c : Ctl) (s : State) (k : Cur → Checks) (place : Cur → Located) (acc : Cur → Acc) : Out :=
  execWith c s
    (fun u => { k u with fault := match (k u).fault with
      | some f => some f
      | none => s.accessFault u.b (acc u) (place u) })
    (fun u =>
      match place u with
      | .global a =>
        s.once u ((acc u).key (place u))
          (fun _ s => s.access u c { acc u with wid := s.ids } (.global a))
          (fun s => (s.present u.b u.tid ((acc u).key (place u)) 0).presented u c (acc u))
      | l => s.access u c (acc u) l)

/-! ### ATOM and RED (R296-R298) -/

/-- Registers an atomic's operand takes (R296). -/
def atomRegs (op : AOp) (t : Ty) : Nat := (if t.bits == 64 then 2 else 1) * (if op == .cas then 2 else 1)

/-- The value of an operand of a type at g. -/
def Thread.operand (t : Thread) (ty : Ty) (g : G) : Nat := if ty.bits == 64 then (t.pair g).toNat else t.nat g

/-- The value and compare operands (R296): CAS holds the compare value first. -/
def Thread.atomOperands (t : Thread) (op : AOp) (ty : Ty) (v : G) : Nat × Nat :=
  if op == .cas then (t.operand ty (next v (if ty.bits == 64 then 2 else 1)), t.operand ty v) else (t.operand ty v, 0)

/-- ATOM (R296-R298). -/
def execAtom (c : Ctl) (d : G) (k : BF) (b v : G) (op : AOp) (ord : Ord) (sc : Scope) (t : Ty) (s : State) : Out :=
  let n := atomRegs op t
  execOnce c s
    (fun u => { precise [(d, if t.bits == 64 then 2 else 1)] [(b, 1), (v, n)] [] with
      fault := if u.b.shape.det then some 0x60 else none })
    (fun u => s.placeOf u k b 0 t.bytes t.bytes)
    (fun u =>
      let p := u.t.atomOperands op t v
      s.accOf u (.atom d op t p.1 p.2 ord sc) k b 0 t.bytes .P)

/-- RED (R296-R298). -/
def execRed (c : Ctl) (k : BF) (b v : G) (op : AOp) (t : Ty) (s : State) : Out :=
  execAccess c s (fun _ => precise [] [(b, 1), (v, if t.bits == 64 then 2 else 1)] [])
    (fun u => s.placeOf u k b 0 t.bytes t.bytes)
    (fun u => s.accOf u (.red op t (bytesOf t.bytes (u.t.operand t v))) k b 0 t.bytes .P)

/-! ### ACQ, REL and BIND (R299-R302) -/

/-- The object of a sync instruction is a global word: other spaces give fault 0x14 (R299), after 0x60 of a record of space 2 in a
deterministic launch (R389).
[log 41: DEDUCED, unsafe] -/
def Block.objectFault (b : Block) (r : Rec) : Option Nat :=
  if b.detSpace r then some 0x60 else if recSpace r == 0 then none else some 0x14

/-- ACQ (R299). -/
def execAcq (c : Ctl) (d : G) (k : BF) (b : G) (sc : Scope) (disp : BitVec 16) (s : State) : Out :=
  execOnce c s
    (fun u => { precise [(d, 2)] [(b, 1)] [] with
      fault := if u.b.shape.det && sc != .blk then some 0x60 else u.b.objectFault (u.t.buf k) })
    (fun u => s.placeOf u k b disp 8 8)
    (fun u => s.accOf u (.acq d sc) k b disp 8 .P)

/-- REL and REL.add (R300). -/
def execRel (c : Ctl) (v : G) (k : BF) (b : G) (sc : Scope) (addv : Bool) (disp : BitVec 16) (s : State) : Out :=
  execOnce c s
    (fun u => { precise [] [(b, 1), (v, 2)] [] with fault := u.b.objectFault (u.t.buf k) })
    (fun u => s.placeOf u k b disp 8 8)
    (fun u => s.accOf u (.rel (u.t.pair v) addv sc) k b disp 8 .P)

/-- The registers BIND reads for its action (R301): all four, or the action alone. -/
def Thread.bindReads (t : Thread) (v : G) : List (G × Nat) :=
  if t.nat (next v 3) == 2 then [(next v 3, 1)] else [(v, 4)]

/-- Free entries of a function's binding table, and the BINDs on their way that take one (R301). -/
def State.bindsFree (s : State) (vf : Nat) : Nat := ((List.range (s.bindCount vf)).filter (fun i => (s.bindEntry vf i).1 == 0)).length
def State.bindsPending (s : State) (vf : Nat) : Nat :=
  (s.pend.filter (fun p => match p.kind with | .bind f _ _ _ act => f == vf && act == 0 | _ => false)).length

/-- The fault of BIND's values: a value outside its limits gives 0x01, then EN = 0 or a full table 0x16 (R301).
[log 38: DEDUCED, unsafe] -/
def State.bindFault (s : State) (u : Cur) (v : G) : Option Nat :=
  let act := u.t.nat (next v 3)
  let base := (u.t.pair v).toNat
  let len := u.t.nat (next v 2)
  let vf := u.b.vf
  if 2 < act || (act != 2 && (base % 128 != 0 || 2 ^ 57 ≤ base || len % 128 != 0 || len == 0)) then some 0x01
  else if !(s.vf vf).bindt.getLsbD 0 then some 0x16
  else if act == 0 && decide (s.bindsFree vf ≤ s.bindsPending vf) then some 0x16
  else none

/-- An operation of the issuing thread that completes later, numbered by the state's next number. -/
def State.later (s : State) (u : Cur) (k : PendK) : State :=
  let p : Pend :=
    { id := s.ids, bid := u.b.bid, tid := u.tid, flag := u.t.flagOf, kind := k, site := u.t.site, addr := u.t.pc,
      last := u.t.lastSlot, acc := none }
  { s with pend := s.pend ++ [p], ids := s.ids + 1 }

/-- A BIND is on its way: it changes the table when its flag completes, in both copies of a pair (R301, R330). -/
def State.bindLater (s : State) (u : Cur) (c : Ctl) (t : Thread) (o base len act : Nat) : State :=
  let s := ((s.done u c 1 t).onceDone u.b).later u (.bind u.b.vf o base len act)
  match u.b.partner with
  | none => s
  | some p => s.later { u with b := { u.b with bid := p } } .nothing

/-- BIND (R301). -/
def execBind (c : Ctl) (v : G) (k : BF) (b : G) (disp : BitVec 16) (s : State) : Out :=
  let place (u : Cur) : Located := s.placeOf u k b disp 8 8
  execWith c s
    (fun u => { uses := [(v, 4), (b, 1)], taint := (b, 1) :: (next v 3, 1) :: u.t.bindReads v, ptaint := [], ap := false,
                fault := match u.b.objectFault (u.t.buf k) with
                  | some f => some f
                  | none =>
                    (match place u with
                     | .fault f => some f
                     | .clamped => none
                     | _ => s.bindFault u v) })
    (fun u =>
      match place u with
      | .global o =>
        let base := (u.t.pair v).toNat
        let len := u.t.nat (next v 2)
        let act := u.t.nat (next v 3)
        let t := u.t.busy.addFlag u.t.flagOf
        let key := [(s.codeWord u.b u.t.pc).getD 0 |>.toNat, o, base, len, act]
        s.once u key (fun _ s => s.bindLater u c t o base len act)
          (fun s => (s.present u.b u.tid key 0).done u c 1 t)
      | _ => s.done u c 1 u.t)

/-! ### FENCE, BAR, CMT, CKPT (R303-R305, R332) -/

/-- FENCE (R303): the thread parks until its earlier accesses are performed. -/
def execFence (c : Ctl) (ord : Ord) (sc : Scope) (s : State) : Out :=
  execWith c s
    (fun u => { precise [] [] [] with fault := if u.b.shape.det && acquires ord && sc != .blk then some 0x60 else none })
    (fun u => s.done u c 1 { u.t with park := .fence ord sc false })

/-- An instruction that parks whatever its guard says (R304, R332); an A-typed guard gives fault 0x20.
[log 91: DEDUCED, unsafe] -/
def execPark (c : Ctl) (s : State) (p : Park) : Out :=
  match s.cur with
  | none => .refused .noThread
  | some u =>
    .next (if (precise [] [] []).guardBad u.t c then s.syncFault u.b u.tid u.t 0x20 else s.done u c 1 { u.t.busy with park := p })

/-- BAR (R304): the thread parks; it arrives once its earlier accesses are performed (R286). -/
def execBar (c : Ctl) (s : State) : Out := execPark c s .bar

/-- CKPT (R332). -/
def execCkpt (c : Ctl) (s : State) : Out := execPark c s (.ckpt false)

/-- CMT (R305). -/
def execCmt (c : Ctl) (sc : Scope) (s : State) : Out :=
  execWith c s (fun _ => precise [] [] [])
    (fun u => (s.done u c 1 (u.t.addFlag u.t.flagOf)).commit u.b.bid sc true (.flag u.tid u.t.flagOf))

/-! ### What a parked thread waits for (R286, R303, R332) -/

/-- Whether every access a thread issued has been performed and completed. -/
def State.idle (s : State) (bid tid : Nat) : Bool :=
  !s.pend.any (fun p => p.bid == bid && p.tid == tid)
    && !s.oplog.any (fun o => match o.acc with | some a => a.bid == bid && a.tid == tid | none => false)
    && (match s.block? bid with
        | none => true
        | some b => !b.commits.any (fun c => match c.cont with
          | .access a => a.tid == tid
          | .store a => a.tid == tid
          | _ => false))

/-- A FENCE whose thread's accesses are performed commits, or acquires at once (R292, R303). -/
def State.settleFence (s : State) (b : Block) (tid : Nat) (t : Thread) : State :=
  match t.park with
  | .fence ord sc false =>
    if !s.idle b.bid tid then s
    else if releases ord then
      (s.setThread b.bid tid { t with park := .fence ord sc true }).commit b.bid sc true (.fence tid (acquires ord))
    else s.endFence b.bid tid s.ids (acquires ord)
  | _ => s

/-- The live threads of a block. -/
def Block.live (b : Block) : List Nat :=
  (List.range b.threads.length).filter fun i => match b.thread? i with | some t => t.life == .live | none => false

/-- Whether every live thread of a block stands arrived at a BAR (R286, R304). -/
def State.barReady (s : State) (b : Block) : Bool :=
  !b.live.isEmpty && b.live.all fun i => match b.thread? i with
    | some t => t.park == .bar && s.idle b.bid i
    | none => false

/-- What the threads of a block make known to each other at a barrier: every store issued before it (R286). -/
def Block.meet (b : Block) (ids : Nat) : Know := { b.threads.foldl (fun k t => k.join t.know) Know.none with floor := ids }

/-- A BAR releases its threads (R286, R304). -/
def State.endBar (s : State) (b : Block) : State :=
  let k := b.meet s.ids
  s.modBlock b.bid fun b => { b with threads := b.threads.map fun t =>
    match t.park with
    | .bar => { t with park := .running, know := k }
    | _ => t }

/-- Whether a thread parked at CKPT has arrived: accesses performed, flags at 0, no pending handle (R332). -/
def State.ckptArrived (s : State) (b : Block) (tid : Nat) (t : Thread) : Bool :=
  match t.park with
  | .ckpt _ =>
    s.idle b.bid tid && t.flags.all (· == 0) && t.hands.all (fun h => match h with | .pending .. => false | _ => true)
  | _ => false

/-- Whether every live thread of a block has arrived at CKPT. -/
def State.ckptReady (s : State) (b : Block) : Bool :=
  !b.live.isEmpty && b.live.all fun i => match b.thread? i with | some t => s.ckptArrived b i t | none => false

/-- The block's commit of a CKPT begins (R332): its threads count as arrived, and every earlier store is known to all. -/
def State.startCkpt (s : State) (b : Block) : State :=
  let k := b.meet s.ids
  let s := s.modBlock b.bid fun b => { b with threads := b.threads.map fun t =>
    match t.park with
    | .ckpt _ => { t with park := .ckpt true, know := k }
    | _ => t }
  s.commit b.bid .dev true .ckpt

/-- Whether a block's CKPT may begin its commit: every thread has arrived, of the other copy too in a paired launch (R332), and
it has not begun. -/
def State.ckptGo (s : State) (b : Block) : Bool :=
  s.ckptReady b && !b.threads.any (fun t => t.park == .ckpt true)
    && (match b.partner with
        | none => true
        | some p => match s.block? p with
          | some x => s.ckptReady x
          | none => false)

end Sys2Proof.Machine
end

