-- ==== Sys2Proof/Machine/Scratch.lean ====
section
/-! DEFINITION. Arrival words: counting, breaking, AINIT, AARV and AWT (R261-R268, R283). -/

namespace Sys2Proof.Machine

/-! ### The word (R261) -/

/-- Fields of an arrival word. -/
def wTgt (w : Nat) : Nat := w / 2 ^ 40 % 2 ^ 24
def wCnt (w : Nat) : Nat := w / 2 ^ 16 % 2 ^ 24
def wGen (w : Nat) : Nat := w / 4 % 2 ^ 14
def wV (w : Nat) : Bool := w / 2 % 2 == 1
def wBrk (w : Nat) : Bool := w % 2 == 1

/-- The word of fields. -/
def mkWord (tgt cnt gen : Nat) (brk : Bool) : Nat :=
  tgt * 2 ^ 40 + cnt * 2 ^ 16 + gen % 2 ^ 14 * 4 + 2 + (if brk then 1 else 0)

/-- An arrival word is read at its bank (R343, R353). -/
def State.eccWord (s : State) (owner pos : Nat) : State :=
  match s.block? owner with
  | some o => s.eccScr o pos 8
  | none => s

/-- The word at a position of a block's allocation. -/
def Block.word (b : Block) (pos : Nat) : Nat := ofBytes (b.bank pos 8)

/-- A word counts events: valid, with a target (R262). -/
def wCounts (w : Nat) : Bool := wV w && wTgt w != 0

/-! ### Waiters (R266, R268) -/

/-- A thread that AWT releases: pD, s.sts when the word is not good, the flag, and what the wake makes it read new. -/
def Thread.awake (t : Thread) (ok : Bool) (sts : Byte) (k : Know) : Thread :=
  match t.park with
  | .awt pd _ _ _ f =>
    { (Thread.noteChange t (t.setPred pd ⟨ok, .P⟩)).endFlag f with
      park := .running, sts := if ok then t.sts else sts, know := if ok then t.know.join k else t.know }
  | _ => t

/-- Whether a thread is parked in AWT on a word. -/
def Thread.waitsOn (t : Thread) (owner pos : Nat) : Bool :=
  match t.park with
  | .awt _ o p _ _ => o == owner && p == pos
  | _ => false

/-- Every waiter on a word is released, in the images of region starts too (R262, R266, R341). -/
def State.wake (s : State) (owner pos : Nat) (ok : Bool) (sts : Byte) : State :=
  { s with blocks := s.blocks.map fun b =>
      let k := s.learn (1 + owner) pos .sys b.bid b.core
      let f (t : Thread) : Thread := if t.waitsOn owner pos then t.awake ok sts k else t
      { b with threads := b.threads.map f, image := { b.image with threads := b.image.threads.map f },
               ckpt := { b.ckpt with threads := b.ckpt.threads.map f } } }

/-- Whether some thread waits on a word. -/
def State.hasWaiter (s : State) (owner pos : Nat) : Bool := s.blocks.any (fun b => b.threads.any (·.waitsOn owner pos))

/-- Whether an accepted command names a word and has lines not landed (R266). -/
def State.hasCommand (s : State) (owner pos : Nat) : Bool :=
  s.xq.any (fun c => c.accepted && c.ended.isNone && c.bid == owner && c.aw == pos
    && (c.kind.ring.isSome || c.lines.any (fun l => !l.landed)))

/-- A word written at its bank.
[log 52: DEDUCED, unsafe] -/
def State.putWord (s : State) (owner pos w : Nat) (by_ : Writer) : State := s.writeScr owner pos (bytesOf 8 w) by_

/-- A counting event of b bytes carrying generation g (R262): whether it was counted, and the state. -/
def State.countWord (s : State) (owner pos b g : Nat) (by_ : Writer) : Bool × State :=
  match s.block? owner with
  | none => (false, s)
  | some o =>
    let s := s.eccScr o pos 8
    let w := o.word pos
    if wCounts w && wGen w == g then
      let t := wCnt w + b
      let n := t / wTgt w
      let s := s.putWord owner pos (mkWord (wTgt w) (t - n * wTgt w) (wGen w + n) (wBrk w)) by_
      (true, if n ≥ 1 then s.wake owner pos true 0 else s)
    else (false, s)

/-- A word broken, keeping its target (R264). -/
def State.breakWord (s : State) (owner pos : Nat) (by_ : Writer) : State :=
  match s.block? owner with
  | none => s
  | some o =>
    let w := o.word pos
    ((s.eccScr o pos 8).putWord owner pos (mkWord (wTgt w) 0 (wGen w + 1) true) by_).wake owner pos false 0x80

/-! ### The instructions (R265-R268) -/

/-- The place of an arrival word: record k, displacement in units of 8 (R265). -/
def State.wordPlace (s : State) (u : Cur) (k : BF) (disp : BitVec 4) (off : G) : Located :=
  s.locate u.b u.tid (u.t.buf k) (offsetOf (u.t.val off) (8 * disp.toNat)) 8 8

/-- The fault a word's place gives at issue (R265, R389). -/
def State.wordFault (s : State) (u : Cur) (k : BF) (loc : Located) : Option Nat :=
  if u.b.shape.det && recSpace (u.t.buf k) == 2 then some 0x60
  else
    match loc with
    | .fault f => some f
    | .global _ => some 0x14
    | .scr o pos =>
      (match s.block? o with
       | none => none
       | some x => if x.posType pos == .A then some 0x21 else none)
    | _ => none

/-- An instruction that finds no target: it retires, and fault 0x15 reaches the thread later (R260, R346). -/
def State.absentWord (s : State) (u : Cur) (c : Ctl) : State :=
  let acc := s.acc u .refillRet 0 8 .P 0
  (s.done u c 1 u.t).lateFault { acc with flag := none } 0x15

/-- AINIT (R266): fault 0x81 while the word is in use; `.force` breaks it instead. -/
def execAinit (c : Ctl) (k : BF) (disp : BitVec 4) (off : G) (tgt : BitVec 24) (force : Bool) (s : State) : Out :=
  execWith c s
    (fun u => { precise [] [(off, 1)] [] with
      fault :=
        match s.wordFault u k (s.wordPlace u k disp off) with
        | some f => some f
        | none =>
          match s.wordPlace u k disp off with
          | .scr o pos =>
            (match s.block? o with
             | some x => if !force && wV (x.word pos) && (s.hasWaiter o pos || s.hasCommand o pos) then some 0x81 else none
             | none => none)
          | _ => none })
    (fun u =>
      match s.wordPlace u k disp off with
      | .scr o pos =>
        let gen := match s.block? o with
          | some x => if force then wGen (x.word pos) + 1 else 0
          | none => 0
        let s := (s.done u c 1 u.t.worked).eccWord o pos
        let s := s.putWord o pos (mkWord tgt.toNat 0 gen force) (.thread u.b.bid u.tid)
        let s := s.modBlock u.b.bid fun b => { b with regStore := true }
        let s := { s with rels := s.rels.filter (fun r => !(r.space == 1 + o && r.a == pos)) }
        if force then s.wake o pos false 0x80 else s
      | .absent => s.absentWord u c
      | _ => s.done u c 1 u.t)

/-- AARV (R262, R267): the thread's stores so far are made known with the count, which carries the word's own generation. -/
def execAarv (c : Ctl) (k : BF) (disp : BitVec 4) (off : G) (bytes : BitVec 24) (s : State) : Out :=
  execWith c s
    (fun u => { precise [] [(off, 1)] [] with fault := s.wordFault u k (s.wordPlace u k disp off) })
    (fun u =>
      match s.wordPlace u k disp off with
      | .scr o pos =>
        let s := s.done u c 1 u.t.worked
        let s := s.release { space := 1 + o, a := pos, bid := u.b.bid, core := u.b.core, sc := .sys, obj := true,
                             know := u.t.know.own u.b.bid u.tid s.ids }
        let gen := match s.block? o with | some x => wGen (x.word pos) | none => 0
        let s := s.modBlock u.b.bid fun b => { b with regStore := true }
        (s.countWord o pos bytes.toNat gen (.thread u.b.bid u.tid)).2
      | .absent => s.absentWord u c
      | _ => s.done u c 1 u.t)

/-- What AWT finds in a word for generation g (R268): pD and s.sts, or none while it must wait. -/
def awtFinds (w : Nat) (g : BitVec 14) : Option (Bool × Byte) :=
  if !wCounts w then some (false, 0x82)
  else if wBrk w then some (false, 0x80)
  else if wGen w != g.toNat then some (true, 0)
  else none

/-- AWT (R268). -/
def execAwt (c : Ctl) (pd : PF) (k : BF) (b e : G) (disp : BitVec 16) (s : State) : Out :=
  let place (u : Cur) : Located := s.locate u.b u.tid (u.t.buf k) (offsetOf (u.t.val b) disp.toInt) 8 8
  execWith c s
    (fun u => { precise [] [(b, 1), (e, 1)] [] with fault := s.wordFault u k (place u) })
    (fun u =>
      let t := { u.t with spin := { u.t.spin with dirty := true, idle := 0 } }
      match place u with
      | .scr o pos =>
        let g : BitVec 14 := (t.val e).setWidth 14
        let f := t.flagOf
        let parked := { t.addFlag f with park := .awt pd o pos g f }
        let w := match s.block? o with | some x => x.word pos | none => 0
        (match awtFinds w g with
         | some (ok, sts) =>
           (s.done u c 1 (parked.awake ok sts (s.learn (1 + o) pos .sys u.b.bid u.b.core))).eccWord o pos
         | none => (s.done u c 1 parked).eccWord o pos)
      | .absent => s.absentWord u c
      | _ => s.done u c 1 (t.setPred pd ⟨false, .P⟩))

end Sys2Proof.Machine
end

