-- ==== Sys2Proof/Machine/Transfer.lean ====
section
/-! DEFINITION. The transfer engine: XCP, XLN, XROT, acceptance, lines, completion, ring rotations and bandwidth tokens
(R180-R182, R262-R264, R269-R283, R293, R330). -/

namespace Sys2Proof.Machine

/-! ### Issue (R269, R272, R275, R277, R330) -/

/-- Entries of a cluster's transfer queue (R269). -/
def xqDepth : Nat := 64

/-- The accepted commands of a cluster's engine. -/
def State.xqOf (s : State) (cl : Nat) : List XCmd :=
  s.xq.filter (fun c => c.accepted && clusterOf (s.coreOf c.bid) == cl)

def State.xqFull (s : State) (cl : Nat) : Bool := decide (xqDepth ≤ (s.xqOf cl).length)

/-- The operands of a transfer command as a presentation compares them (R330). -/
def XK.key : XK → List Nat
  | .lin d s n p => [0, d, s, n, p]
  | .box d p => [1, d, p]
  | .lane d s n => [2, wrapInt 32 d, wrapInt 32 s, n]
  | .rot o n m t => [3, wrapInt 32 o, n, m.toNat, t.toNat]

/-- A transfer command of the issuing thread. One with a global or thread-local destination is performed once in a paired
launch; the trailing copy's command then follows the leading one's (R330). -/
def State.transfer (s : State) (u : Cur) (c : Ctl) (kind : XK) (e : Eng) (drec srec : Rec) (aw : Nat) : State :=
  let glob := kind.ring.isNone && (recSpace drec == 0 || recSpace drec == 3)
  let full := s.xqFull (clusterOf u.b.core)
  let key := (s.codeWord u.b u.t.pc).getD 0 |>.toNat
  let key := [key, drec.toNat, srec.toNat] ++ kind.key
  let make (twin : Option Nat) (s : State) : State :=
    s.command u c e full fun id serial s =>
      let x : XCmd :=
        { id := id, bid := u.b.bid, tid := u.tid, kind := kind, e := e, drec := drec, srec := srec, aw := 8 * aw,
          serial := serial, flag := u.t.flagOf, site := u.t.site, addr := u.t.pc, accepted := false, gen := 0,
          globalDst := glob, lines := [], orphan := false, poison := false, cancel := false, ended := none, after := [],
          turn := false, know := engineKnow e.acq u.b.bid u.tid id u.t.know, pkt := s.packets, twin := twin,
          got := [], paid := 0, bad := none, team := s.crew }
      { s with xq := s.xq ++ [x] }
  if !glob || u.t.handleBusy e then make none s
  else s.once u key make (fun s => s.command u c e false (fun id _ s => s.present u.b u.tid key id))

/-- The checks of a transfer command (R269, R389).
[log 41: DEDUCED, unsafe] -/
def xferChecks (u : Cur) (e : Eng) (recs : List Rec) (r : List (G × Nat)) : Checks :=
  { precise [] r [] with
    fault := if u.b.shape.det && recs.any (fun r => recSpace r == 2) then some 0x60 else detAcquire e u.b.shape.det }

/-- The bytes of a linear copy (R272). -/
def copyBytes (ncode : BitVec 7) : Nat := (1 + ncode.toNat % 8) * 2 ^ (ncode.toNat / 8) * 128

/-- XCP, linear form (R181, R272). -/
def execXcp (c : Ctl) (e : Eng) (drec srec : BF) (ddisp sdisp : BitVec 8) (ncode : BitVec 7) (aw : BitVec 6) (pw : BitVec 3)
    (s : State) : Out :=
  execWith c s (fun u => xferChecks u e [u.t.buf drec, u.t.buf srec] [])
    (fun u => s.transfer u c (.lin (128 * ddisp.toNat) (128 * sdisp.toNat) (copyBytes ncode) pw.toNat) e (u.t.buf drec)
      (u.t.buf srec) aw.toNat)

/-- XCP, descriptor form (R272, R273). -/
def execXcpDesc (c : Ctl) (e : Eng) (drec srec : BF) (desc : BitVec 12) (aw : BitVec 6) (pw : BitVec 3) (s : State) : Out :=
  execWith c s (fun u => xferChecks u e [u.t.buf drec, u.t.buf srec] [])
    (fun u => s.transfer u c (.box (64 * desc.toNat) pw.toNat) e (u.t.buf drec) (u.t.buf srec) aw.toNat)

/-- XLN (R275). -/
def execXln (c : Ctl) (e : Eng) (drec : BF) (gx : G) (srec : BF) (gy : G) (sz : BitVec 2) (aw : BitVec 6) (s : State) : Out :=
  execWith c s (fun u => xferChecks u e [u.t.buf drec, u.t.buf srec] [(gx, 1), (gy, 1)])
    (fun u => s.transfer u c (.lane (u.t.val gx).toInt (u.t.val gy).toInt (4 * 2 ^ sz.toNat)) e (u.t.buf drec) (u.t.buf srec)
      aw.toNat)

/-- XROT (R277). -/
def execXrot (c : Ctl) (e : Eng) (gx : G) (disp : BitVec 12) (n : BitVec 8) (mask : BitVec 4) (aw : BitVec 6)
    (tag : BitVec 3) (s : State) : Out :=
  execWith c s (fun u => xferChecks u e [] [(gx, 1)])
    (fun u => s.transfer u c (.rot ((u.t.val gx).toInt + 128 * disp.toNat) (128 * n.toNat) mask tag) e 0 0 aw.toNat)

/-! ### What a command moves (R180-R182, R270, R273, R274, R276) -/

/-- Bits of an element of a plane-width code (R272). -/
def planeWidth (pw : Nat) : Nat := match pw with | 1 => 4 | 2 => 6 | 3 => 8 | _ => 16

/-- A box: what one command copies (R273, R274). -/
structure Box where
  soff : Nat
  doff : Nat
  e0   : Nat
  e    : List Nat
  s    : List Int
  d    : List Int
  rag  : Bool
  roff : Nat
  pad  : Byte
  pw   : Nat

/-- The box of a linear copy (R181, R274): plane layout takes rows of the source record's extent; none gives status 0x52. -/
def linearBox (r : Rec) (dofs sofs n pw : Nat) : Option Box :=
  if pw == 0 then
    some { soff := sofs, doff := dofs, e0 := n, e := [1, 1, 1, 1], s := [0, 0, 0, 0], d := [0, 0, 0, 0], rag := false, roff := 0,
           pad := 0, pw := 0 }
  else
    let x := recExtent r
    let w := planeWidth pw
    if x == 0 || n % x != 0 || 8 * x % w != 0 || n / x * (8 * x / w) % 8 != 0 then none
    else
      some { soff := sofs, doff := dofs, e0 := x, e := [n / x, 1, 1, 1], s := [x, 0, 0, 0], d := [0, 0, 0, 0], rag := false,
             roff := 0, pad := 0, pw := pw }

/-- The box of a descriptor (R273); none gives status 0x52. -/
def descBox (bs : List Byte) (pw : Nat) : Option Box :=
  let w := ofBytes bs
  let at_ (lo n : Nat) : Nat := w / 2 ^ (8 * lo) % 2 ^ (8 * n)
  let sgn (lo : Nat) : Int := intOf .s32 (at_ lo 4)
  let e := [at_ 0x0C 2, at_ 0x0E 2, at_ 0x10 2, at_ 0x12 2]
  let e0 := at_ 8 4
  let f := at_ 0x39 1
  let rag := f == 1
  let rows := e.foldl (· * ·) 1
  let pwd := planeWidth pw
  if at_ 0x3A 6 != 0 || 1 < f || e.contains 0 || e0 == 0 || 2 ^ 24 ≤ e0 || at_ 0x34 4 % 4 != 0
      || (rag && (e.tail.any (fun x => x != 1) || pw != 0))
      || (pw != 0 && (8 * e0 % pwd != 0 || rows * (8 * e0 / pwd) % 8 != 0)) then none
  else
    some { soff := at_ 0 4, doff := at_ 4 4, e0 := e0, e := e, s := [sgn 0x14, sgn 0x18, sgn 0x1C, sgn 0x20],
           d := [sgn 0x24, sgn 0x28, sgn 0x2C, sgn 0x30], rag := rag, roff := at_ 0x34 4, pad := BitVec.ofNat 8 (at_ 0x38 1),
           pw := pw }

/-- The start offsets of a box's rows, destination and source, in the order of R274, with the dimension-1 index. -/
def Box.rows (x : Box) : List (Nat × Int × Int) :=
  let n (i : Nat) : List Nat := List.range (x.e.getD i 1)
  let st (l : List Int) (i1 i2 i3 i4 : Nat) : Int :=
    l.getD 0 0 * i1 + l.getD 1 0 * i2 + l.getD 2 0 * i3 + l.getD 3 0 * i4
  (n 3).flatMap fun i4 => (n 2).flatMap fun i3 => (n 1).flatMap fun i2 => (n 0).map fun i1 =>
    (i1, (x.doff : Int) + st x.d i1 i2 i3 i4, (x.soff : Int) + st x.s i1 i2 i3 i4)

/-- A source of a copied byte by its record offset, before the records place it: padding, a byte, or bits. -/
inductive Want where
  | pad (b : Byte)
  | byte (o : Int)
  | bits (l : List (Int × Nat))

/-- The bytes of a box: destination offset and what it receives (R182, R274). array gives word i of the ragged offset array;
none when the array decreases. -/
def Box.wants (x : Box) (array : Nat → Nat) : Option (List (Int × Want)) :=
  if x.pw != 0 then
    let w := planeWidth x.pw
    let rs := x.rows
    let k := 8 * x.e0 / w
    let r := rs.length
    let pb := r * k / 8
    some ((List.range (w * pb)).map fun q =>
      let p := q / pb
      let bit (t : Nat) : Int × Nat :=
        let i := 8 * (q % pb) + t
        let row := rs.getD (i / k) (0, 0, 0)
        let sb := w * (i % k) + p
        (row.2.2 + (sb / 8 : Nat), sb % 8)
      ((x.doff : Int) + q, .bits ((List.range 8).map bit)))
  else if x.rag then
    let n := x.e.getD 0 1
    if (List.range n).any (fun i => decide (array (i + 1) < array i)) then none
    else
      some (x.rows.flatMap fun r =>
        let lo := array r.1
        let l := array (r.1 + 1) - lo
        (List.range x.e0).map fun (e : Nat) =>
          (r.2.1 + (e : Int), if e < l then .byte ((x.soff : Int) + (lo : Int) + (e : Int)) else .pad x.pad))
  else
    some (x.rows.flatMap fun r => (List.range x.e0).map fun (e : Nat) => (r.2.1 + (e : Int), .byte (r.2.2 + (e : Int))))

/-- A destination byte through its record: the place or the status (R270).
[log 44: DEDUCED, unsafe] -/
def State.dstByte (s : State) (b : Block) (tid : Nat) (r : Rec) (o : Int) : Except Nat Loc :=
  match s.locate b tid r o 1 1 with
  | .global va => .ok (.global va)
  | .scr ow pos => .ok (.scr ow pos)
  | .absent => .error 0x15
  | _ => .error (if recSpace r == 0 || recSpace r == 3 then 0x51 else 0x50)

/-- A source byte through its record: the place, none for a clamped byte, or the status (R270).
[log 44: DEDUCED, unsafe] -/
def State.srcByte (s : State) (b : Block) (tid : Nat) (r : Rec) (o : Int) : Except Nat (Option Loc) :=
  match s.locate b tid r o 1 1 with
  | .global va => .ok (some (.global va))
  | .scr ow pos => .ok (some (.scr ow pos))
  | .clamped => .ok none
  | .absent => .error 0x15
  | .fault _ => .error 0x51

/-- The statuses of a list, and its values when there is none.
[log 47: DEDUCED, unsafe] -/
def statuses {α : Type} (l : List (Except Nat α)) : List Nat :=
  l.filterMap fun x => match x with | .error e => some e | .ok _ => none

/-- The declared type of a place (R237, R270). -/
def State.locTy (s : State) (r : Rec) (l : Loc) : TBit :=
  match l with
  | .global _ => recLt r
  | .scr ow pos => match s.block? ow with | some x => x.posType pos | none => .P

/-- One move placed by its records. -/
def State.placeMove (s : State) (b : Block) (c : XCmd) (m : Int × Want) : Except Nat (Loc × Src) :=
  match s.dstByte b c.tid c.drec m.1 with
  | .error e => .error e
  | .ok d =>
    match m.2 with
    | .pad v => .ok (d, .pad v)
    | .byte o =>
      (match s.srcByte b c.tid c.srec o with
       | .error e => .error e
       | .ok none => .ok (d, .pad 0)
       | .ok (some l) => .ok (d, .byte o l))
    | .bits os =>
      let xs := os.map fun o => (s.srcByte b c.tid c.srec o.1, o.2)
      match statuses (xs.map (·.1)) with
      | e :: _ => .error e
      | [] => .ok (d, .bits ((os.zip xs).map fun y => match y.2.1 with
          | .ok l => (l.map (fun l => (y.1.1, l)), y.2.2)
          | .error _ => (none, y.2.2)))

/-- Whether a move with a scratchpad part meets two line types (R270), or a plane copy's destination is not the precise part (R274). -/
def State.mixes (s : State) (c : XCmd) (m : Loc × Src) : Bool :=
  let scr (l : Loc) : Bool := match l with | .scr .. => true | .global _ => false
  let one (l : Loc) : Bool := (scr l || scr m.1) && s.locTy c.srec l != s.locTy c.drec m.1
  match m.2 with
  | .pad _ => false
  | .byte _ l => one l
  | .bits ls =>
    !scr m.1 || s.locTy c.drec m.1 == .A || ls.any (fun x => match x.1 with | some l => one l.2 | none => false)

/-- The destination line of a place, as a key. -/
def Loc.line : Loc → Nat × Nat
  | .global va => (0, va / 128)
  | .scr b pos => (1 + b, pos / 128)

/-- Moves grouped by destination line, in order of first appearance (R262). -/
def groupLines (ms : List (Loc × Src)) : List XLine :=
  let keys := ms.foldl (fun a m => if a.contains m.1.line then a else a ++ [m.1.line]) []
  keys.mapIdx fun i k =>
    { idx := i, moves := ms.filter (fun m => m.1.line == k), landed := false, held := false, failed := false, lost := [] }

/-- The moves a copy makes, or the status with which the engine rejects it (R270, R273, R274, R276).
[log 47: DEDUCED, unsafe] -/
def State.plan (s : State) (b : Block) (c : XCmd) : Except Nat (List XLine) × State :=
  let out (ws : List (Int × Want)) : Except Nat (List XLine) :=
    let ms := ws.map (s.placeMove b c)
    let es := statuses ms
    if b.abytes < c.aw + 8 || es.contains 0x50 then .error 0x50
    else if es.contains 0x51 then .error 0x51
    else if es.contains 0x15 then .error 0x15
    else
      let ok := ms.filterMap fun m => match m with | .ok x => some x | .error _ => none
      if b.posType c.aw == .A || ok.any (s.mixes c) then .error 0x21 else .ok (groupLines ok)
  match c.kind with
  | .lin d sofs n pw =>
    (match linearBox c.srec d sofs n pw with
     | none => (.error 0x52, s)
     | some x => (match x.wants (fun _ => 0) with | some ws => (out ws, s) | none => (.error 0x52, s)))
  | .box desc pw =>
    if b.abytes < desc + 64 then (.error 0x52, s)
    else
      let r := State.scrBytes c.know c.bid engineTid b 64 desc s
      (match descBox r.1 pw with
       | none => (.error 0x52, r.2)
       | some x =>
         let n := if x.rag then x.e.getD 0 1 + 1 else 0
         if b.abytes < x.roff + 4 * n then (.error 0x52, r.2)
         else
           let a := State.scrBytes c.know c.bid engineTid b (4 * n) x.roff r.2
           match x.wants (fun i => ofBytes ((a.1.drop (4 * i)).take 4)) with
           | some ws => (out ws, a.2)
           | none => (.error 0x52, a.2))
  | .lane d sofs n =>
    if d % n != 0 || sofs % n != 0 then (.error 0x11, s)
    else (out ((List.range n).map fun (i : Nat) => (d + (i : Int), Want.byte (sofs + (i : Int)))), s)
  | .rot o n m _ =>
    let cores := (List.range 4).filter (fun i => m.getLsbD i)
    (if o < 0 || (b.pbytes : Int) < o + n || b.abytes < c.aw + 8 then .error 0x50
     else if cores.length < 2 || !cores.contains (b.core % 4) then .error 0x54
     else if b.posType c.aw == .A then .error 0x21
     else .ok [], s)

/-! ### Acceptance (R263, R269, R270, R280, R289) -/

/-- The trailing copy's block and its command that follows a command of the leading one (R330). -/
def State.twinOf (s : State) (c : XCmd) : Option (Block × Stat) :=
  match c.twin, s.block? c.bid with
  | some id, some b =>
    (match b.partner with
     | none => none
     | some p => match s.block? p with
       | none => none
       | some x => (x.stats.find? (fun y => y.cmd == id)).map (fun y => (x, y)))
  | _, _ => none

/-- A command completes, and the trailing copy's with it (R165, R330); its held lines' waiters leave with it. -/
def State.finishXfer (s : State) (c : XCmd) (status : Nat) : State :=
  let lines := c.lines.filterMap fun l => match l.moves with | (.global va, _) :: _ => some (va / 128) | _ => none
  let s := { s with oplog := s.oplog.filter (fun o => match o.waiter with | .line id _ _ => id != c.id | _ => true) }
  let s := match s.twinOf c with
    | some (x, y) => s.completeCmd x.bid y.serial y.cmd status c.e.rel lines
    | none => s
  s.endXfer c status lines

/-- Whether a command is a lane copy of the same packet as c (R276). -/
def XCmd.withLane (c x : XCmd) : Bool :=
  match c.kind, x.kind with
  | .lane .., .lane .. => x.pkt == c.pkt && x.addr == c.addr
  | _, _ => false

/-- Whether a rotation's mask names two cores, its own among them: one whose mask does not joins no round (R279).
[log 43: DEDUCED, unsafe] -/
def XK.joins (k : XK) (core : Nat) : Bool :=
  match k with
  | .rot _ _ m _ => m.getLsbD (core % 4) && decide (2 ≤ ((List.range 4).filter (fun i => m.getLsbD i)).length)
  | _ => false

/-- Whether a waiting command can be accepted (R269, R293): its queue has room, no earlier transfer command of its thread, and no lower
lane's copy of its packet (R276), waits, and the commits its acquire waits for are performed; its block is not to roll back.
[log 48: DEDUCED, unsafe] [log 83: DEDUCED, unsafe] -/
def State.canAcceptX (s : State) (c : XCmd) : Bool :=
  match s.block? c.bid with
  | none => false
  | some b =>
    !c.accepted && !s.xqFull (clusterOf b.core)
      && !(s.xq.takeWhile (fun x => x.id != c.id)).any (fun x => !x.accepted && x.bid == c.bid && x.tid == c.tid)
      && !s.xq.any (fun x => !x.accepted && c.withLane x && decide (x.id < c.id))
      && (!c.e.acq || (b.commits.isEmpty && !(c.e.sc == .sys && s.homeWaits b.bid))) && !s.erring b

/-- XFER_ACCEPT (R181, R263, R269, R270, R279, R280, R330): a rotation that a check rejects takes its place in its round, which it rejects
whole. -/
def execXferAccept (cmd : Nat) (s : State) : Out :=
  match s.xq.find? (fun c => c.id == cmd) with
  | none => .next s
  | some c =>
    match s.block? c.bid with
    | none => .next s
    | some b =>
      if !s.canAcceptX c then .next s
      else
        let p := s.plan b c
        let s := p.2.acceptFlag c.bid c.tid c.id c.flag
        let s := match s.twinOf c with | some (x, _) => s.acceptFlag x.bid c.tid (c.twin.getD 0) c.flag | none => s
        let enter (bad : Option Byte) (ls : List XLine) (s : State) : State :=
          let s := s.modBlock c.bid fun b =>
            { b with regCmd := true, byCommit := if c.globalDst then false else b.byCommit
                     blocked := b.blocked || (c.globalDst && b.partner.isSome) }
          let c' := { c with accepted := true, gen := BitVec.ofNat 14 (wGen (b.word c.aw)), lines := ls, bad := bad }
          { s with xq := s.xq.filter (fun x => x.accepted) ++ [c'] ++ s.xq.filter (fun x => !x.accepted && x.id != cmd) }
        .next (match p.1 with
          | .error st => if c.kind.joins b.core then enter (some (BitVec.ofNat 8 st)) [] s else s.finishXfer c st
          | .ok ls => enter none ls s)

/-! ### Lines (R262-R264, R270, R271, R281, R282, R339) -/

/-- Bucket fields of a function (R281). -/
def Vf.refill (v : Vf) : Nat := v.xbkt.toNat % 2 ^ 16
def Vf.depth (v : Vf) : Nat := v.xbkt.toNat / 2 ^ 32 % 2 ^ 24

/-- A token for one line of a function on a die (R281, R282): none while the line must wait.
[log 75: DEDUCED, unsafe] -/
def State.takeToken (s : State) (vf die : Nat) : Option State :=
  let v := s.vf vf
  if v.refill == 0 then some s
  else
    let t := v.tok.get v.depth die
    if 0 < t then some (s.setVf vf { v with tok := v.tok.set die (t - 1) })
    else
      let d := v.debt.get 0 die
      let p := (s.die die).pool
      if d < v.depth && 0 < p then
        some ((s.setVf vf { v with debt := v.debt.set die (d + 1) }).modDie die fun x => { x with pool := x.pool - 1 })
      else none

/-- The source bytes a move reads, each by its offset and its place (R180). -/
def Src.reads : Src → List (Int × Loc)
  | .pad _ => []
  | .byte o l => [(o, l)]
  | .bits l => l.filterMap (·.1)

/-- The source bytes a line reads, and the global bytes it writes. -/
def XLine.reads (ln : XLine) : List (Int × Loc) := (ln.moves.map (fun x => x.2.reads)).flatten
def XLine.writes (ln : XLine) : List Nat := ln.moves.filterMap fun x => match x.1 with | .global va => some va | _ => none

/-- Translations of lines: page, cause and direction of the first failure, or the physical line of each (R271). -/
def State.xlate (src vf : Nat) : List (Nat × Bool) → State → Except (Nat × Nat × Bool) (List (Nat × Nat)) × State
  | [], s => (.ok [], s)
  | (l, w) :: rest, s =>
    let p := s.translate src vf (128 * l) (if w then .write else .read)
    match p.1 with
    | .error c => (.error (128 * l, c, w), p.2)
    | .ok pa =>
      let q := State.xlate src vf rest p.2
      match q.1 with
      | .error e => (.error e, q.2)
      | .ok m => (.ok ((l, pa / 128) :: m), q.2)

/-- The physical line of a virtual line. -/
def physLine (m : List (Nat × Nat)) (l : Nat) : Nat := match m.find? (fun x => x.1 == l) with | some x => x.2 | none => 0

/-- A command ends at a line with a status; its arrival word breaks (R264, R270). -/
def State.failLine (s : State) (c : XCmd) (status : Nat) : State :=
  let s := { s with xq := s.xq.map fun (x : XCmd) => if x.id == c.id then { x with ended := some (BitVec.ofNat 8 status) } else x }
  let s := s.breakWord c.bid c.aw (.engine c.id)
  match s.twinOf c with
  | some (x, y) => s.breakWord x.bid c.aw (.engine y.cmd)
  | none => s

/-- A line of a command marked. -/
def State.modLine (s : State) (cmd idx : Nat) (f : XLine → XLine) : State :=
  { s with xq := s.xq.map fun (x : XCmd) =>
      if x.id == cmd then { x with lines := x.lines.map fun l => if l.idx == idx then f l else l } else x }

/-- A line waits for a reply to its fault record (R271). -/
def State.holdLine (s : State) (b : Block) (c : XCmd) (idx page cause : Nat) (write : Bool) : State :=
  let lane := match c.kind with | .lane .. => true | _ => false
  let kind := if lane then (if write then 7 else 6) else if write then 5 else 4
  let w := whereWord b.core (quarterOf c.tid) b.ridx
  let p := s.faultRecord b.vf (page / 4096 * 4096) cause kind 0 c.site.word w (s.launchHandle b.launch)
  let q := p.2.newId
  let o : OpEntry :=
    { id := q.1, vf := b.vf, seq := p.1, core := b.core, acc := none, waiter := .line c.id idx write, replay := false, bad := false }
  (({ q.2 with oplog := q.2.oplog ++ [o] } : State).modLine c.id idx (fun l => { l with held := true })).settleRecords

/-! ### Reading (R180, R185, R260, R339, R353) -/

/-- The reads that are still to come, of those in ascending order of their offsets; what has been read stands in that order too. -/
def notGot : List (Int × Loc) → List Got → List (Int × Loc)
  | [], _ => []
  | x :: xs, gs =>
    let gs := gs.dropWhile (fun g => decide (g.off < x.1))
    if gs.head?.any (fun g => g.off == x.1) then notGot xs gs else x :: notGot xs gs

/-- The source bytes of a command up to an offset that it has not read, of lines that have not landed, in ascending order (R180). -/
def XCmd.unread (c : XCmd) (top : Int) : List (Int × Loc) :=
  let all := ((c.lines.filter (fun l => !l.landed)).map XLine.reads).flatten
  let up := sortBy (fun x y => decide (x.1 ≤ y.1)) (all.filter (fun x => decide (x.1 ≤ top)))
  notGot (up.foldr (fun x l => if l.head?.any (fun y => y.1 == x.1) then l else x :: l) []) c.got

/-- More bytes read; they stand in ascending order of their offsets. -/
def XCmd.take (c : XCmd) (gs : List Got) : XCmd := { c with got := sortBy (fun x y => decide (x.off ≤ y.off)) (c.got ++ gs) }

/-- What a run of reads has met: the physical line of each line of the VA that can be read here, with whether it is poisoned, and the
granules of scratchpads. -/
structure Reading where
  got   : List Got
  lines : List (Nat × Option (Nat × Bool))
  grans : List (Nat × Nat)

/-- A source line of global memory: its physical line, and whether its data is poisoned, by the injector too (R353); none when it does not
translate now or stands in another package.
[log 31: DEDUCED, unsafe] -/
def State.sourceLine (s : State) (src vf l : Nat) : Option (Nat × Bool) × State :=
  let p := s.translate src vf (128 * l) .read
  match p.1 with
  | .error _ => (none, p.2)
  | .ok pa =>
    match p.2.target pa with
    | .damask .. => (none, p.2)
    | _ =>
      let q := p.2.candidate 2 src
      (some (pa / 128, q.1 || q.2.poisoned.contains (pa / 128)), q.2)

/-- Whether the block of a scratchpad is still on the cluster of block b (R260, R283). -/
def State.onSite (s : State) (b : Block) (ow : Nat) : Bool :=
  ow == b.bid || (match s.block? ow with
    | some x => x.resident && !x.killed && clusterOf x.core == clusterOf b.core
    | none => false)

/-- One source byte is read, when it can be (R185, R293). -/
def State.readSource (b : Block) (c : XCmd) (a : Reading × State) (x : Int × Loc) : Reading × State :=
  match x.2 with
  | .global va =>
    let l := va / 128
    let p : Option (Nat × Bool) × Reading × State := match a.1.lines.find? (fun y => y.1 == l) with
      | some y => (y.2, a)
      | none =>
        let q := a.2.sourceLine (dieOf b.core) b.vf l
        (q.1, { a.1 with lines := (l, q.1) :: a.1.lines }, q.2)
    (match p.1 with
     | none => p.2
     | some (pl, bad) =>
       let g : Got :=
         { off := x.1, val := readByte p.2.2.mem (pl * 128 + va % 128), bad := bad, ty := p.2.2.tag (pl * 128) }
       ({ p.2.1 with got := g :: p.2.1.got }, p.2.2))
  | .scr ow pos =>
    match a.2.block? ow with
    | none => a
    | some o =>
      if !a.2.onSite b ow then a
      else
        let r := a.2.scrByte c.know c.bid engineTid o pos
        let g : Got := { off := x.1, val := r.1, bad := false, ty := o.posType pos }
        let seen := a.1.grans.contains (ow, pos / 128)
        ({ a.1 with got := g :: a.1.got, grans := if seen then a.1.grans else (ow, pos / 128) :: a.1.grans },
          if seen then r.2 else r.2.eccScr o pos 1)

/-- A command reads its source offsets up to those of a line, in ascending order (R180). Bytes whose line does not translate now, and those
of another package, are read for their own line. -/
def State.readUpTo (s : State) (b : Block) (c : XCmd) (ln : XLine) : State :=
  match ln.reads with
  | [] => s
  | x :: xs =>
    let top := xs.foldl (fun m y => if m < y.1 then y.1 else m) x.1
    let r := (c.unread top).foldl (State.readSource b c) ({ got := [], lines := [], grans := [] }, s)
    { r.2 with xq := r.2.xq.map fun y => if y.id == c.id then y.take r.1.got.reverse else y }

/-- A byte that a command has read. -/
def XCmd.gotAt (c : XCmd) (o : Int) : Option Got := c.got.find? (fun g => g.off == o)

/-- The value of a source, read before. -/
def XCmd.value (c : XCmd) : Src → Byte
  | .pad v => v
  | .byte o _ => match c.gotAt o with | some g => g.val | none => 0
  | .bits ls =>
    BitVec.ofNat 8 (ls.foldr (fun x v =>
      let bit := match x.1.bind (fun y => c.gotAt y.1) with | some g => g.val.toNat / 2 ^ x.2 % 2 | none => 0
      bit + 2 * v) 0)

/-! ### Moving a line (R262-R264, R270, R271, R276, R281, R339) -/

/-- A byte an engine writes at its home. -/
def State.putGlobal (s : State) (vf : Nat) (m : List (Nat × Nat)) (va : Nat) (v : Byte) : State :=
  let pa := physLine m (va / 128) * 128 + va % 128
  (((s.writeMem pa [v]).promote vf (0, va / 128) 0 engineTid none).promotePa pa 0 engineTid).overwritten 0 pa 1

/-- One byte of a line written at its home or bank. -/
def State.putByte (s : State) (vf : Nat) (c : XCmd) (m : List (Nat × Nat)) (x : Loc × Byte) : State :=
  match x.1 with
  | .global va => s.putGlobal vf m va x.2
  | .scr ow pos => (s.writeScr ow pos [x.2] (.engine c.id)).overwritten (1 + ow) pos 1

/-- A landed line counts on the command's arrival word (R262, R263), and on the trailing copy's (R330).
[log 42: DEDUCED, unsafe] -/
def State.countLine (s : State) (c : XCmd) (n : Nat) : State :=
  let one (s : State) (bid cmd core : Nat) : Bool × State :=
    (s.release { space := 1 + bid, a := c.aw, bid := bid, core := core, sc := .sys, obj := true,
                 know := { floor := 0, writes := [], cmds := [cmd] } }).countWord bid c.aw n c.gen.toNat (.engine cmd)
  let p := one s c.bid c.id (s.coreOf c.bid)
  let s := { p.2 with xq := p.2.xq.map fun (x : XCmd) => if x.id == c.id then { x with orphan := x.orphan || !p.1 } else x }
  match s.twinOf c with
  | some (x, y) => (one s x.bid y.cmd x.core).2
  | none => s

/-- Whether the blocks whose scratchpads a line touches are still on the cluster (R260, R283). -/
def State.targetsThere (s : State) (b : Block) (ln : XLine) : Bool :=
  let there (l : Loc) : Bool := match l with | .global _ => true | .scr ow _ => s.onSite b ow
  ln.moves.all (fun m => there m.1) && ln.reads.all (fun x => there x.2)

/-- Poison moved or cleared with a line (R339). -/
def State.poisonLine (s : State) (m : List (Nat × Nat)) (ms : List (Loc × Byte)) (bad : Bool) : State :=
  match ms with
  | (.global va, _) :: _ =>
    let l := physLine m (va / 128)
    let p := if ms.length == 128 || bad then s.poisoned.filter (· != l) else s.poisoned
    { s with poisoned := if bad then l :: p else p }
  | (.scr ow pos, _) :: _ =>
    s.modBlock ow fun o =>
      let p := if ms.length == 128 || bad then o.badScr.filter (· != pos / 128) else o.badScr
      { o with badScr := if bad then pos / 128 :: p else p }
  | [] => s

/-- A line an engine writes is matched against the watchpoints (R358). -/
def State.watchLine (s : State) (b : Block) (team : List (Nat × Nat)) (x : Site) (ls : List Loc) : State :=
  match ls with
  | .global _ :: _ =>
    s.watch (clusterOf b.core) 7 5 0 (ls.filterMap fun l => match l with | .global va => some va | _ => none) b team x
  | .scr ow _ :: _ =>
    (match s.block? ow with
     | some o =>
       s.watch (clusterOf o.core) 7 5 1
         (ls.filterMap fun l => match l with | .scr _ p => some (o.lin * 2 ^ 19 + p) | _ => none) b team x
     | none => s)
  | [] => s

/-- Bytes that a line still writes: a higher lane of its packet has written the others (R276). -/
def XLine.written (ln : XLine) (c : XCmd) : List (Loc × Byte) :=
  (ln.moves.filter (fun x => !ln.lost.contains x.1)).map fun x => (x.1, c.value x.2)

/-- Whether a line carries poisoned bytes (R339). -/
def XCmd.carriesBad (c : XCmd) (ln : XLine) : Bool := ln.reads.any fun x => match c.gotAt x.1 with | some g => g.bad | none => false

/-- The bytes a lane copy writes are lost to the lower lanes of its packet that have not landed (R276).
[log 83: DEDUCED, unsafe] -/
def State.coverLanes (s : State) (c : XCmd) (ln : XLine) : State :=
  { s with xq := s.xq.map fun (x : XCmd) =>
      if c.withLane x && decide (x.id < c.id) then { x with lines := x.lines.map fun l => { l with lost := l.lost ++ ln.moves.map (·.1) } }
      else x }

/-- A line has landed: it counts, and one that carried poison ends its command (R262, R339). -/
def State.lineLanded (s : State) (c : XCmd) (ln : XLine) : State :=
  let s := (s.modLine c.id ln.idx (fun l => { l with landed := true, held := false })).countLine c ln.moves.length
  if c.carriesBad ln then s.failLine c 0x91 else s

/-- A line with everything translated is moved as one act (R262, R294, R339). -/
def State.landWith (s : State) (b : Block) (c : XCmd) (ln : XLine) (m : List (Nat × Nat)) : State :=
  let vs := ln.written c
  let s := vs.foldl (fun s x => s.putByte b.vf c m x) s
  let s := s.watchLine b c.team c.site (vs.map (·.1))
  (s.poisonLine m vs (c.carriesBad ln)).lineLanded c ln

/-- Bytes of a line, by their addresses, as runs without a gap. -/
def byteRuns (vs : List (Nat × Byte)) : List (Nat × List Byte) :=
  (sortBy (fun x y => decide (x.1 ≤ y.1)) vs).foldr (fun x l => match l with
    | (a, bs) :: rest => if x.1 + 1 == a then (x.1, x.2 :: bs) :: rest else (x.1, [x.2]) :: l
    | [] => [(x.1, [x.2])]) []

/-- A line of another package is sent there, a message for each run of its bytes (R402, R406). -/
def State.sendLine (s : State) (b : Block) (c : XCmd) (ln : XLine) (pkg adr : Nat) : State :=
  let vs := (ln.written c).filterMap fun x => match x.1 with | .global va => some (va, x.2) | _ => none
  (byteRuns vs).foldl (fun s r =>
    s.send b.vf pkg opStore (adr / 128 * 128 + r.1 % 128) r.2 (recA c.drec) (.line c.id ln.idx true) (c.carriesBad ln))
    (s.modLine c.id ln.idx (fun l => { l with held := true }))

/-- What a line does about the first source byte it could not read: its line's fault record (R271), or a request to the package where it
stands (R402). -/
def State.needSource (s : State) (b : Block) (c : XCmd) (ln : XLine) (va : Nat) : State :=
  let p := s.translate (dieOf b.core) b.vf (va / 128 * 128) .read
  match p.1 with
  | .error cause => if cause == waitCause then p.2 else p.2.holdLine b c ln.idx (va / 128 * 128) cause false
  | .ok pa =>
    match p.2.target pa with
    | .damask pkg win ofs =>
      (p.2.modLine c.id ln.idx (fun l => { l with held := true })).send b.vf pkg opLoad (win * 2 ^ 32 + ofs) [] false
        (.line c.id ln.idx false)
    | _ => p.2

/-- Whether a line of an engine meets two types at its homes (R237, R270); the tag of another package's line is checked there. -/
def State.lineMixes (s : State) (c : XCmd) (ln : XLine) (m : List (Nat × Nat)) : Bool :=
  let srcs := ln.reads.filter (fun x => match x.2 with | .global _ => true | .scr .. => false)
  let home (va : Nat) : Nat := physLine m (va / 128) * 128
  srcs.any (fun x => match c.gotAt x.1 with | some g => g.ty != recLt c.srec | none => false)
    || ln.writes.any (fun va => match s.target (home va) with | .damask .. => false | _ => s.tag (home va) != recLt c.drec)
    || (!srcs.isEmpty && !ln.writes.isEmpty && recLt c.srec != recLt c.drec)

/-- One destination line whose sources are read is moved, when it has its token (R262, R270, R271, R281): whether it has moved. free: the
token is one that a lower lane's copy has taken (R276). -/
def State.moveLine (s : State) (b : Block) (c : XCmd) (ln : XLine) (free : Bool) : Bool × State :=
  let p := State.xlate (dieOf b.core) b.vf ((distinct (ln.writes.map (· / 128))).map (fun l => (l, true))) s
  match p.1 with
  | .error (page, cause, w) => (false, if cause == waitCause then p.2 else p.2.holdLine b c ln.idx page cause w)
  | .ok m =>
    if p.2.lineMixes c ln m then (false, p.2.failLine c 0x21)
    else
      match (if free then some p.2 else p.2.takeToken b.vf (dieOf b.core)) with
      | none => (false, p.2.count (dieOf b.core) (xKey (clusterOf b.core) 2) 1)
      | some s =>
        let s := (s.coverLanes c ln).count (dieOf b.core) (xKey (clusterOf b.core) 1) 1
        match ln.writes.head?.map (fun va => s.target (physLine m (va / 128) * 128)) with
        | some (.damask pkg win ofs) => (true, s.sendLine b c ln pkg (win * 2 ^ 32 + ofs))
        | _ => (true, s.landWith b c ln m)

/-- One destination line is read and moved. -/
def State.landLine (s : State) (b : Block) (cmd idx : Nat) (free : Bool) : Bool × State :=
  match s.xq.find? (fun c => c.id == cmd) with
  | none => (false, s)
  | some c =>
    match c.lines.find? (fun l => l.idx == idx) with
    | none => (false, s)
    | some ln =>
      if !s.targetsThere b ln then (false, s.failLine c 0x15)
      else
        let s := s.readUpTo b c ln
        match s.xq.find? (fun c => c.id == cmd) with
        | none => (false, s)
        | some c =>
          match ln.reads.find? (fun x => (c.gotAt x.1).isNone) with
          | some (_, .global va) => (false, s.needSource b c ln va)
          | some (_, .scr ..) => (false, s.failLine c 0x15)
          | none => s.moveLine b c ln free

/-- Whether a line of a command can move next (R168, R269, R271, R293, R387, R399): accepted, not cancelled or ended, not stopped by a
migration of its function, and in a deterministic launch in its block's turn, once its entries are performed.
[log 83: DEDUCED, unsafe] -/
def State.canLand (s : State) (c : XCmd) (ln : XLine) : Bool :=
  c.accepted && !c.cancel && c.ended.isNone && !ln.landed && !ln.held && c.kind.ring.isNone
    && (match s.block? c.bid with
        | none => false
        | some b =>
          !(c.globalDst && !b.killed && [1, 2, 3].contains (bitsOf (s.vf b.vf).migctl 7 4))
            && (!(b.shape.det && c.globalDst)
              || (c.turn && b.handed.isEmpty && !(s.xq.takeWhile (fun x => x.id != c.id)).any (fun x => x.bid == c.bid && x.globalDst && x.accepted))))

/-- The lane copies of a packet that one line transfer carries, the lowest lane first (R276): those with the source line and the destination
line of c. -/
def State.coalesced (s : State) (c : XCmd) (ln : XLine) : List XCmd :=
  let key (l : XLine) : List (Nat × Nat) × List (Nat × Nat) := (l.moves.map (fun m => m.1.line) |>.eraseDups, l.reads.map (fun x => x.2.line) |>.eraseDups)
  sortBy (fun x y => decide (x.id ≤ y.id)) (s.xq.filter fun x => x.id == c.id || (c.withLane x
    && (match x.lines with | [l] => s.canLand x l && key l == key ln | _ => false)))

/-- COPY_LINE_LAND (R180, R262-R264, R269-R271, R276, R281). A line's number plus the count of lines stands for the engine's reading up to that
line alone. -/
def execCopyLineLand (cmd line : Nat) (s : State) : Out :=
  match s.xq.find? (fun c => c.id == cmd) with
  | none => .next s
  | some c =>
    let n := c.lines.length
    match s.block? c.bid, c.lines.find? (fun l => l.idx == line || l.idx + n == line) with
    | some b, some ln =>
      if !s.canLand c ln then .next s
      else if n ≤ line then .next (s.readUpTo b c ln)
      else
        match c.kind with
        | .lane .. =>
          .next ((s.coalesced c ln).foldl (fun (a : Bool × State) x =>
            match a.2.block? x.bid with
            | some y =>
              let r := a.2.landLine y x.id (match x.lines with | l :: _ => l.idx | [] => 0) a.1
              (a.1 || r.1, r.2)
            | none => a) (false, s)).2
        | _ => .next (s.landLine b c.id ln.idx false).2
    | _, _ => .next s

/-- Whether lines of a command are on their way to or from another package (R168). -/
def State.linesAway (s : State) (cmd : Nat) : Bool := s.awaits.any fun w => match w.what with | .line c _ _ => c == cmd | _ => false

/-- Whether a command can complete (R168, R263, R270, R344): its lines have landed, or it has ended or been cancelled and none is on its
way. -/
def State.canEndX (s : State) (c : XCmd) : Bool :=
  c.accepted && !s.linesAway c.id
    && (c.ended.isSome || (c.kind.ring.isNone && (c.cancel || c.lines.all (fun l => l.landed))))

/-- XFER_COMPLETE (R168, R181, R263, R270). -/
def execXferComplete (cmd : Nat) (s : State) : Out :=
  match s.xq.find? (fun c => c.id == cmd) with
  | none => .next s
  | some c =>
    if !s.canEndX c then .next s
    else
      .next (s.finishXfer c (match c.ended with
        | some st => st.toNat
        | none => if c.cancel && c.lines.any (fun l => !l.landed) then 2 else if c.orphan then 1 else 0))

/-! ### Ring rotations (R278, R279) -/

/-- The members of the next round of a ring on a cluster, when each core of the mask has one. -/
def State.ringReady (s : State) (cl : Nat) (m : BitVec 4) (t : BitVec 3) : Option (List XCmd) :=
  let launches := distinct ((s.xqOf cl).filterMap fun c => if c.kind.ring == some (m, t) then some (s.launchOf c.bid) else none)
  launches.findSome? fun l =>
    let cs := (List.range 4).filter (fun i => m.getLsbD i)
    let heads := cs.filterMap fun i => (s.ringOn l cl i m t).head?
    if heads.length == cs.length && !heads.isEmpty then some heads else none

/-- The tile of a rotation. -/
def XK.tile : XK → Nat × Nat
  | .rot o n _ _ => (o.toNat, n)
  | _ => (0, 0)

/-- Every member's tile is read. -/
def State.readTiles : List XCmd → State → List (List Byte) × State
  | [], s => ([], s)
  | c :: cs, s =>
    let r := match s.block? c.bid with
      | some b =>
        let p := State.scrBytes c.know c.bid engineTid b c.kind.tile.2 c.kind.tile.1 s
        (p.1, p.2.eccRange b c.kind.tile.1 c.kind.tile.2)
      | none => ([], s)
    let q := State.readTiles cs r.2
    (r.1 :: q.1, q.2)

/-- The tile of one member is written to the next, and counted on the next one's word.
[log 43: DEDUCED, unsafe] -/
def State.writeTile (s : State) (dst : XCmd) (bs : List Byte) : State :=
  let s := s.writeScr dst.bid dst.kind.tile.1 bs (.engine dst.id)
  let s := match s.block? dst.bid with
    | some b => (s.count (dieOf b.core) (xKey (clusterOf b.core) 1) (bs.length / 128)).watchLine b dst.team dst.site ((List.range bs.length).map fun i => .scr dst.bid (dst.kind.tile.1 + i))
    | none => s
  s.countLine dst bs.length

/-- Up to n tokens of a function on a die: how many (R281). -/
def State.takeTokens (vf die : Nat) : Nat → State → Nat × State
  | 0, s => (0, s)
  | n + 1, s =>
    match s.takeToken vf die with
    | none => (0, s)
    | some s =>
      let r := State.takeTokens vf die n s
      (r.1 + 1, r.2)

/-- The members of a round take the tokens of their lines, as far as there are any (R281): whether they have them all. -/
def State.payRound (cluster : Nat) : List XCmd → State → Bool × State
  | [], s => (true, s)
  | c :: cs, s =>
    match s.block? c.bid with
    | none => (false, s)
    | some b =>
      let need := c.kind.tile.2 / 128
      let p := State.takeTokens b.vf (dieOf b.core) (need - c.paid) s
      let s := { p.2 with xq := p.2.xq.map fun x => if x.id == c.id then { x with paid := c.paid + p.1 } else x }
      if need ≤ c.paid + p.1 then State.payRound cluster cs s else (false, s.count (dieOf b.core) (xKey cluster 2) 1)

/-- XROT_ROUND (R278, R279, R281): a round with a member that a check rejected is rejected whole. -/
def execXrotRound (cluster : Nat) (mask : BitVec 4) (tag : BitVec 3) (s : State) : Out :=
  match s.ringReady cluster mask tag with
  | none => .next s
  | some ms =>
    let n := (ms.map (fun c => c.kind.tile.2)).headD 0
    let reject (st : Nat) : Out := .next (ms.foldl (fun s c => s.finishXfer c st) s)
    match ms.findSome? (fun c => c.bad) with
    | some st => reject st.toNat
    | none =>
      if ms.any (fun c => c.kind.tile.2 != n) then reject 0x54
      else
        let p := State.payRound cluster ms s
        if !p.1 then .next p.2
        else
          let r := State.readTiles ms p.2
          let dsts := ms.drop 1 ++ ms.take 1
          let s := (dsts.zip r.1).foldl (fun s x => s.writeTile x.1 x.2) r.2
          .next (ms.foldl (fun s c =>
            match s.xq.find? (fun x => x.id == c.id) with
            | some x => s.finishXfer x (if x.orphan then 1 else 0)
            | none => s) s)

/-! ### Tokens (R282) -/

/-- One function's refill on a die. -/
def State.refillOne (die cap : Nat) (s : State) (vf : Nat) : State :=
  let v := s.vf vf
  let debt := v.debt.get 0 die
  let tok := v.tok.get v.depth die
  let pay := if debt < v.refill / 2 then debt else v.refill / 2
  let t := tok + (v.refill - pay)
  let excess := t - v.depth
  let pool := (s.die die).pool + pay + excess
  (s.setVf vf { v with debt := v.debt.set die (debt - pay), tok := v.tok.set die (t - excess) }).modDie die fun d =>
    { d with pool := if cap < pool then cap else pool }

/-- TOKEN_REFILL (R282): every function with a refill, in ascending number. -/
def execTokenRefill (die : Nat) (s : State) : Out :=
  let fs := (List.range 96).filter (fun f => s.vfs.any (fun p => p.1 == f) && (s.vf f).refill != 0)
  let cap := fs.foldl (fun m f => if m < (s.vf f).depth then (s.vf f).depth else m) 0
  .next (fs.foldl (State.refillOne die cap) s)

end Sys2Proof.Machine
end

