-- ==== Sys2Proof/Machine/Ccol.lean ====
section
/-! DEFINITION. Collectives across packages: CCOL and its completion (R408-R411). -/

namespace Sys2Proof.Machine

/-! ### Issue (R408) -/

/-- The checks of CCOL (R408).
[log 41: DEDUCED, unsafe] -/
def ccolChecks (u : Cur) : Checks := { precise [] [] [] with fault := if u.b.shape.det then some 0x60 else none }

/-- CCOL (R408, R409): the collective engine takes the command at once and reads its descriptor. Its destination is global, so it
ends the block's region (R280), and a paired block performs it once (R330).
[log 49: DEDUCED, unsafe] -/
def execCcol (c : Ctl) (e : Eng) (kind : CKind) (op : FoldOp) (t : Ty) (desc : BitVec 12) (s : State) : Out :=
  execWith c s ccolChecks fun u =>
    let make (twin : Option Nat) (s : State) : State :=
      s.command u c e false fun id serial s =>
        let at_ := 64 * desc.toNat
        let r := if at_ + 64 ≤ u.b.pbytes then
            State.scrBytes (engineKnow e.acq u.b.bid u.tid id u.t.know) u.b.bid engineTid u.b 64 at_ s
          else ([], s)
        let x : CCmd :=
          { id := id, bid := u.b.bid, tid := u.tid, kind := kind, op := op, t := t, e := e, desc := r.1, serial := serial,
            site := u.t.site, cancel := false, held := false, ended := none,
            after := if e.acq then u.b.commits.map (fun k => k.cid) else [], twin := twin, out := none }
        let s := r.2.modBlock u.b.bid fun b => { b with regCmd := true, byCommit := false }
        ({ s with ccols := s.ccols ++ [x] } : State).acceptFlag u.b.bid u.tid id u.t.flagOf
    if u.t.handleBusy e then make none s
    else
      let key := [(s.codeWord u.b u.t.pc).getD 0 |>.toNat]
      s.once u key make (fun s => s.command u c e false fun id _ s =>
        (s.present u.b u.tid key id).acceptFlag u.b.bid u.tid id u.t.flagOf)

/-! ### The descriptor and the group (R409) -/

/-- A CCOL descriptor's fields: SRC, DST, GROUP, COUNT, K. -/
structure CDesc where
  src   : Nat
  dst   : Nat
  group : Nat
  count : Nat
  k     : Nat

/-- The descriptor's fields; none when it breaks R409.
[log 49: DEDUCED, unsafe] -/
def ccolDesc (kind : CKind) (bs : List Byte) : Option CDesc :=
  let w := ofBytes bs
  let d : CDesc :=
    { src := field w 63 0, dst := field w 127 64, group := field w 191 128, count := field w 223 192, k := field w 239 224 }
  let addr (a : Nat) : Bool := decide (a < 2 ^ 57)
  if bs.length == 64 && field w 511 240 == 0 && addr d.src && addr d.dst && addr d.group && d.count != 0 && decide (d.count ≤ 2 ^ 28)
      && (kind != .topk || (d.k != 0 && decide (d.k ≤ 1024))) then some d
  else none

/-- A group record's first dword: ranks, this package's rank; none when it breaks R409. -/
def groupHead (w : Nat) : Option (Nat × Nat) :=
  let n := field w 11 0 + 1
  let r := field w 27 16
  if field w 15 12 == 0 && field w 31 28 == 0 && decide (n ≤ 2304) && decide (r < n) then some (n, r) else none

/-! ### The results (R410) -/

/-- Element i of bytes of n-byte elements. -/
def element (n : Nat) (bs : List Byte) (i : Nat) : Nat := ofBytes ((bs.drop (n * i)).take n)

/-- Element i of the all-reduce: the fold in ascending rank from the neutral value. -/
def reduced (op : FoldOp) (t : Ty) (xs : List (List Byte)) (i : Nat) : Nat :=
  xs.foldl (fun acc x => foldStep op t acc (element (t.bits / 8) x i)) (neutral op t)

/-- A key put into a list in ranking order. -/
def insertKey (t : Ty) (mx : Bool) (v i : Nat) : List (Nat × Nat) → List (Nat × Nat)
  | [] => [(v, i)]
  | x :: xs => if above t mx v i x.1 x.2 then (v, i) :: x :: xs else x :: insertKey t mx v i xs

/-- Keys in ranking order (R126, R410). -/
def rankKeys (t : Ty) (mx : Bool) (ks : List (Nat × Nat)) : List (Nat × Nat) :=
  ks.foldl (fun a x => insertKey t mx x.1 x.2 a) []

/-- Every rank's elements with their global indices. -/
def globalKeys (t : Ty) (count : Nat) (xs : List (List Byte)) : List (Nat × Nat) :=
  (xs.mapIdx fun (q : Nat) (x : List Byte) =>
    (List.range count).map fun i => (element (t.bits / 8) x i, q * count + i)).flatten

/-- The bytes DST of rank q receives (R410). -/
def ccolResult (kind : CKind) (op : FoldOp) (t : Ty) (count k q : Nat) (xs : List (List Byte)) : List Byte :=
  let sz := t.bits / 8
  match kind with
  | .ar => ((List.range count).map fun i => bytesOf sz (reduced op t xs i)).flatten
  | .rs =>
    let m := count / xs.length
    ((List.range m).map fun i => bytesOf sz (reduced op t xs (q * m + i))).flatten
  | .ag => xs.flatten
  | .topk =>
    (((rankKeys t (op != .min) (globalKeys t count xs)).take k).map fun x => bytesOf 4 x.1 ++ bytesOf 4 x.2).flatten

/-- Whether the ranks' common parameters are allowed (R410). -/
def ccolOk (kind : CKind) (n count k : Nat) : Bool :=
  decide (n * count ≤ 2 ^ 32)
    && (match kind with
        | .rs => count % n == 0
        | .topk => decide (k ≤ n * count)
        | _ => true)

/-- Bytes DST receives. -/
def ccolBytes (kind : CKind) (t : Ty) (n count k : Nat) : Nat :=
  let sz := t.bits / 8
  match kind with
  | .ar => count * sz
  | .rs => count / n * sz
  | .ag => n * count * sz
  | .topk => 8 * k

/-! ### Completion (R410, R411) -/

/-- The lines a run of bytes touches. -/
def runLines (va n : Nat) : List Nat := if n == 0 then [] else (List.range ((va + n - 1) / 128 + 1 - va / 128)).map (· + va / 128)

/-- A collective ends: its handle, and the trailing copy's, complete. -/
def State.finishCcol (s : State) (c : CCmd) (status : Nat) (lines : List Nat) : State :=
  let s := { s with ccols := s.ccols.filter (fun x => x.id != c.id) }
  let s := s.completeCmd c.bid c.serial c.id status c.e.rel lines
  match c.twin, s.block? c.bid with
  | some id, some b =>
    (match b.partner with
     | none => s
     | some p => match s.block? p with
       | none => s
       | some x => match x.stats.find? (fun y => y.cmd == id) with
         | some y => s.completeCmd p y.serial id status c.e.rel lines
         | none => s)
  | _, _ => s

/-- A line of a collective fails its translation: a fault record, and the command waits for the reply (R271, R411); it only tries again
later while its page is being transferred (R396). -/
def State.holdCcol (s : State) (b : Block) (c : CCmd) (page cause : Nat) (write : Bool) : State :=
  if cause == waitCause then s else
  let w := whereWord b.core (quarterOf c.tid) b.ridx
  let p := s.faultRecord b.vf (page / 4096 * 4096) cause (if write then 5 else 4) 0 c.site.word w (s.launchHandle b.launch)
  let q := p.2.newId
  let o : OpEntry :=
    { id := q.1, vf := b.vf, seq := p.1, core := b.core, acc := none, waiter := .line c.id 0 write, replay := false, bad := false }
  ({ q.2 with oplog := q.2.oplog ++ [o], ccols := q.2.ccols.map fun x => if x.id == c.id then { x with held := true } else x }
    : State).settleRecords

/-- Bytes of a run through translated lines. -/
def State.gather (s : State) (m : List (Nat × Nat)) (va n : Nat) : List Byte :=
  (List.range n).map fun i => readByte s.mem (physLine m ((va + i) / 128) * 128 + (va + i) % 128)

/-- Whether a run stands in this package. -/
def State.localRun (s : State) (m : List (Nat × Nat)) (va n : Nat) : Bool :=
  (runLines va n).all fun l => match s.target (physLine m l * 128) with | .damask .. => false | _ => true

/-- A run written at the homes of its lines; lines of another package as messages (R402). -/
def State.scatter (s : State) (vf : Nat) (c : CCmd) (m : List (Nat × Nat)) (va : Nat) (bs : List Byte) : State :=
  (runLines va bs.length).foldl (fun s l =>
    let is := (List.range bs.length).filter (fun i => (va + i) / 128 == l)
    match s.target (physLine m l * 128) with
    | .damask pkg win ofs =>
      s.send vf pkg opStore (win * 2 ^ 32 + ofs / 128 * 128 + (va + is.headD 0) % 128) (is.map (fun i => bs.getD i 0)) false (.line c.id l true)
    | _ => is.foldl (fun s i => s.putGlobal vf m (va + i) (bs.getD i 0)) s) s

/-- The bytes of a run: those in memory, or what another package has answered with. -/
def State.runBytes (s : State) (m : List (Nat × Nat)) (va n : Nat) (away : List Byte) : List Byte :=
  if s.localRun m va n then s.gather m va n else away

/-- The result of a collective is written at DST (R411): when a line stands in another package, the command completes once it has answered. -/
def State.ccolWrite (s : State) (b : Block) (c : CCmd) (dst : Nat) (bs : List Byte) : State :=
  let p := State.xlate ioDie b.vf ((runLines dst bs.length).map (fun l => (l, true))) s
  let keep (done : Bool) (s : State) : State :=
    { s with ccols := s.ccols.map fun x => if x.id == c.id then { x with out := some (bs, done) } else x }
  match p.1 with
  | .error (page, cause, w) => (keep false p.2).holdCcol b c page cause w
  | .ok m =>
    let s := p.2.scatter b.vf c m dst bs
    if s.linesAway c.id then keep true s else s.finishCcol c 0 (runLines dst bs.length)

/-- Lines a collective reads before it knows the group: the record's first line. -/
def State.ccolRun (s : State) (b : Block) (c : CCmd) (d : CDesc) (ranks : List (List Byte)) (agree : Bool) : State :=
  let sz := c.t.bits / 8
  let p := State.xlate ioDie b.vf ((runLines d.group 8).map (fun l => (l, false))) s
  match p.1 with
  | .error (page, cause, w) => p.2.holdCcol b c page cause w
  | .ok m0 =>
    let away := (List.range 8).map fun i => (Config.freeWord (p.2.free + i)).setWidth 8
    match groupHead (ofBytes (p.2.runBytes m0 d.group 8 away)) with
    | none => p.2.finishCcol c 0x52 []
    | some (n, q) =>
      if !agree || !ccolOk c.kind n d.count d.k then p.2.finishCcol c 0x52 []
      else
        let outB := ccolBytes c.kind c.t n d.count d.k
        let need := (distinct (runLines (d.group + 8) (2 * n) ++ runLines d.src (d.count * sz))).map (fun l => (l, false))
          ++ (runLines d.dst outB).map (fun l => (l, true))
        let p := State.xlate ioDie b.vf need p.2
        match p.1 with
        | .error (page, cause, w) => p.2.holdCcol b c page cause w
        | .ok m =>
          let own := p.2.runBytes m d.src (d.count * sz) (ranks.getD q [])
          let xs := (List.range n).map fun i => if i == q then own else ranks.getD i []
          if xs.any (fun x => x.length != d.count * sz) then p.2
          else p.2.ccolWrite b c d.dst (ccolResult c.kind c.op c.t d.count d.k q xs)

/-- CCOL_COMPLETE (R410, R411): ranks are the contributions of the ranks in rank order, as they came over Damask (this package's
own is read at SRC); agree tells whether every rank issued the same collective. The command waits for the commits its acquire names
(R293), at system scope for their entries' homes too, and for the reply to a fault record.
[log 49: DEDUCED, unsafe] -/
def execCcolComplete (cmd : Nat) (ranks : List (List Byte)) (agree : Bool) (s : State) : Out :=
  match s.ccols.find? (fun c => c.id == cmd) with
  | none => .next s
  | some c =>
    match s.block? c.bid with
    | none => .next s
    | some b =>
      if b.commits.any (fun k => c.after.contains k.cid) || (c.e.acq && c.e.sc == .sys && s.homeWaits b.bid) then .next s
      else
        .next (match c.ended, c.out with
          | some st, _ => s.finishCcol c st.toNat []
          | none, none =>
            if c.cancel then s.finishCcol c 2 []
            else if c.held then s
            else
              (match ccolDesc c.kind c.desc with
               | none => s.finishCcol c 0x52 []
               | some d => s.ccolRun b c d ranks agree)
          | none, some (bs, done) =>
            if c.held || s.linesAway c.id then s
            else
              match ccolDesc c.kind c.desc with
              | none => s
              | some d => if done then s.finishCcol c 0 (runLines d.dst bs.length) else s.ccolWrite b c d.dst bs)

end Sys2Proof.Machine
end

