-- ==== Sys2Proof/Machine/Counters.lean ====
section
/-! DEFINITION. Completion counters and the levels above the block: taking and freeing counters, completing levels, cancelling them,
and the dispatcher's reads of records (R26-R37, R43, R44, R426). -/

namespace Sys2Proof.Machine

/-! ### Counters (R33, R34) -/

/-- Counters of a level the I/O die holds (R33). -/
def capOf : Level → Nat
  | .launch => 16384
  | .graph => 4096
  | .phase => 1024
  | .job => 768

/-- The first number from i on, cyclically below cap, that is not used; fuel bounds the search. -/
def freeFrom (used : List Nat) (cap : Nat) : Nat → Nat → Option Nat
  | 0, _ => none
  | n + 1, i => if used.contains (i % cap) then freeFrom used cap n (i + 1) else some (i % cap)

/-- Numbers of a level's counters in use. -/
def State.usedNums (s : State) (lv : Level) : List Nat := (s.counters.filter (fun c => c.level == lv)).map (·.num)

/-- Whether a log entry waits for the response of another package, not for a reply to a fault record. -/
def State.awaitsResponse (s : State) (op : Nat) : Bool := s.awaits.any (fun a => a.what == .access op)

/-- Launch counters that an LNCH whose record is being read will take (R38). -/
def State.taking (s : State) : Nat :=
  (s.pend.filter (fun p => match p.kind with | .lnch .. => true | _ => false)).length
    + (s.oplog.filter (fun o => match o.acc with
        | some a => (match a.kind with | .lnch _ => s.awaitsResponse o.id | _ => false)
        | none => false)).length

/-- How many counters of a level are free. -/
def State.freeCount (s : State) (lv : Level) : Nat :=
  capOf lv - (s.usedNums lv).length - (if lv == .launch then s.taking else 0)

/-- Whether a counter of a level is free. -/
def State.hasFree (s : State) (lv : Level) : Bool := decide (0 < s.freeCount lv)

/-- A free counter's number, by a free choice; none when all are used.
[log 54: DESIGN CHOICE, safe] -/
def State.freeNum (s : State) (lv : Level) : Option Nat × State :=
  if s.hasFree lv then
    let p := s.pick (capOf lv)
    (freeFrom (s.usedNums lv) (capOf lv) ((s.usedNums lv).length + 1) p.1, p.2)
  else (none, s)

/-- A level takes a counter with its remaining count (R32). -/
def State.takeCounter (s : State) (vf : Nat) (lv : Level) (num left : Nat) (parent : Option (Level × Nat)) : State :=
  { s with counters :=
      { vf := vf, level := lv, num := num, value := 0, left := left, state := .running, cancel := false, parent := parent,
        counted := false } :: s.counters }

/-- The handle a thread parked in CWT names. -/
def Park.counter? : Park → Option Word
  | .cwtVal _ h _ _ _ => some h
  | .cwtDone _ h => some h
  | _ => none

/-- Whether a thread of a block names a counter in CWT, in its images too. -/
def Block.awaits (b : Block) (h : Word) : Bool :=
  (b.threads ++ b.image.threads ++ b.ckpt.threads).any (fun t => t.park.counter? == some h)

/-- Counters of counted levels that no CWT names are freed (R33). -/
def State.freeCounters (s : State) : State :=
  { s with counters := s.counters.filter fun c =>
      !c.counted || s.blocks.any (fun b => b.vf == c.vf && b.awaits (handleOf c.level c.num)) }

/-- n children of a level have completed, cancelled or done (R32, R43).
[log 55: DEDUCED, unsafe] -/
def State.childDone (s : State) (vf : Nat) (lv : Level) (num n : Nat) (cancelled : Bool) : State :=
  s.modCounter vf lv num fun c =>
    { c with value := c.value + BitVec.ofNat 32 n, left := c.left - n, cancel := c.cancel || cancelled }

/-- The state a level completes in (R43). -/
def Counter.final (c : Counter) : CState := if c.state == .cancelled || c.cancel then .cancelled else .done

/-- A level whose remaining count has reached 0 completes and its parent counts it: whether it does, and whether cancelled. -/
def State.closes (s : State) (vf : Nat) (lv : Level) (num : Nat) : Option Bool :=
  match s.counter? vf lv num with
  | some c => if c.left == 0 && !c.counted then some (c.final == .cancelled) else none
  | none => none

/-- A completed level's counter, as its parent counts it. -/
def State.close (s : State) (vf : Nat) (lv : Level) (num : Nat) : State :=
  s.modCounter vf lv num fun c => { c with state := c.final, counted := true }

/-! ### The dispatcher's reads (R426) -/

/-- Lines of a dispatcher read or write, and what the first failure is: the VA that failed and the cause. -/
def State.dispLines (s : State) (vf va n : Nat) (write : Bool) : Except (Nat × Nat) (List (Nat × Nat)) × State :=
  let p := State.xlate ioDie vf ((runLines va n).map (fun l => (l, write))) s
  match p.1 with
  | .error (page, cause, _) => (.error (if page < va then va else page, cause), p.2)
  | .ok m => (.ok m, p.2)

/-- What stands for a cause where a line of a dispatcher read lies in another package, which must be asked for it. -/
def awayCause : Nat := 8

/-- n bytes of a record at va for read r, which ECC protects (R353). Lines of another package (R402) are those it has answered with; the first
that is missing is told.
[log 31: DEDUCED, unsafe] -/
def State.dispRead (s : State) (r : DRead) (vf va n : Nat) : Except (Nat × Nat) (List Byte) × State :=
  let p := s.dispLines vf va n false
  match p.1 with
  | .error e => (.error e, p.2)
  | .ok m =>
    let away (l : Nat) : Bool := match p.2.target (physLine m l * 128) with | .damask .. => true | _ => false
    let held (l : Nat) : Option (List Byte) := (p.2.reads.find? (fun x => x.1 == r && x.2.1 == l)).map (fun x => x.2.2)
    match (runLines va n).find? (fun l => away l && (held l).isNone) with
    | some l => (.error (if 128 * l < va then va else 128 * l, awayCause), p.2)
    | none =>
      let s := (runLines va n).foldl (fun s _ => (s.candidate 2 ioDie).2) p.2
      let here := s.gather m va n
      (.ok ((List.range n).map fun i => match if away ((va + i) / 128) then held ((va + i) / 128) else none with
        | some bs => bs.getD ((va + i) % 128) 0
        | none => here.getD i 0), s)

/-- A read or write of the dispatcher waits: a level it serves does not start. -/
def State.dispWaits (s : State) (r : DRead) (o : OpEntry) : State :=
  { s with oplog := s.oplog ++ [o], due := s.due.map fun d => if d.what == r then { d with held := true } else d }

/-- A read or write of the dispatcher waits attached to a fault record (R426); one whose page is being transferred waits without (R396). -/
def State.dispFault (s : State) (vf : Nat) (r : DRead) (va cause : Nat) (launch : Word) : State :=
  if cause == waitCause then
    let q := s.newId
    q.2.dispWaits r { id := q.1, vf := vf, seq := 0, core := 0, acc := none, waiter := .disp r va, replay := true, bad := false }
  else
    let kind := match r with | .donew _ => 9 | _ => 8
    let p := s.faultRecord vf (va / 4096 * 4096) cause kind 0 0xFFFFF#32 0 launch
    let q := p.2.newId
    (q.2.dispWaits r { id := q.1, vf := vf, seq := p.1, core := 0, acc := none, waiter := .disp r va, replay := false, bad := false }).settleRecords

/-- A message of the dispatcher to another package (R402, R406), and the read or write that waits for its answer. -/
def State.dispSend (s : State) (vf : Nat) (r : DRead) (va pkg adr : Nat) (op : BitVec 7) (data : List Byte) : State :=
  let q := s.newId
  let o : OpEntry := { id := q.1, vf := vf, seq := 0, core := 0, acc := none, waiter := .disp r va, replay := false, bad := false }
  (q.2.dispWaits r o).send vf pkg op adr data false (.access q.1)

/-- A read of the dispatcher that cannot be made now: its line is asked for in another package, or it waits. -/
def State.dispHold (s : State) (vf : Nat) (r : DRead) (va cause : Nat) (launch : Word) : State :=
  if cause != awayCause then s.dispFault vf r va cause launch
  else
    let p := s.translate ioDie vf va .read
    match p.1 with
    | .error c => p.2.dispFault vf r va c launch
    | .ok pa =>
      match p.2.target pa with
      | .damask pkg win ofs => p.2.dispSend vf r va pkg (win * 2 ^ 32 + ofs) opLoad []
      | _ => p.2

/-- A due level, or a waiting read, that is no longer to start. -/
def State.dropRead (s : State) (r : DRead) : State :=
  { s with due := s.due.filter (fun d => d.what != r)
           reads := s.reads.filter (fun x => x.1 != r)
           oplog := s.oplog.filter (fun o => match o.waiter with | .disp x _ => x != r | _ => true) }

/-- A level is no longer among the due ones. -/
def State.dropDue (s : State) (r : DRead) : State := { s with due := s.due.filter (fun d => d.what != r) }

/-- Whether a read waits for a reply. -/
def State.waitsRead (s : State) (r : DRead) : Bool :=
  s.oplog.any (fun o => match o.waiter with | .disp x _ => x == r | _ => false)

/-- A level takes its place among the due ones (R34): behind those that became due on an earlier cycle, and among those of its cycle
behind the lower functions'. -/
def placeDue (d : Due) (l : List Due) : List Due :=
  let later (x : Due) : Bool := decide (d.since < x.since) || (d.since == x.since && decide (d.vf < x.vf))
  l.filter (fun x => !later x) ++ d :: l.filter later

/-- A level becomes due (R34). -/
def State.becomeDue (s : State) (vf : Nat) (r : DRead) : State :=
  let p := s.newId
  { p.2 with due := placeDue { id := p.1, vf := vf, what := r, held := false, since := s.refClk } p.2.due }

/-- Whether the dispatcher starts work of a function: its execution state stands here and is not being moved away (R393, R394). -/
def State.vfRuns (s : State) (vf : Nat) : Bool := [0, 4, 5].contains (bitsOf (s.vf vf).migctl 7 4)

/-- Whether two due levels take counters of one kind. -/
def DRead.sameKind : DRead → DRead → Bool
  | .graph _, .graph _ => true
  | .node .., .node .. => true
  | .node .., .lnch .. => true
  | .lnch .., .node .. => true
  | .lnch .., .lnch .. => true
  | _, _ => false

/-- Whether a due level could start now if a counter were free: the dispatcher does not wait for its record, and the thread of an LNCH
can issue. -/
def State.dueLive (s : State) (d : Due) : Bool :=
  !d.held && s.vfRuns d.vf && (match d.what with
    | .lnch bid tid _ _ =>
      (match s.block? bid, s.thread? bid tid with
       | some b, some t => b.phase == .resident && !b.killed && !t.halted
       | _, _ => false)
    | _ => true)

/-- The live levels of its kind that stand before a due level. -/
def State.dueAhead (s : State) (d : Due) : Nat :=
  ((s.due.takeWhile (fun x => x.id != d.id)).filter (fun x => x.what.sameKind d.what && s.dueLive x)).length

/-- Whether a due level is one to start next (R34): waiting levels take freed counters in the order in which they became due. -/
def State.dueNext (s : State) (d : Due) : Bool :=
  s.dueLive d && (match d.what with
    | .graph _ => decide (s.dueAhead d < s.freeCount .graph)
    | .node .. => decide (s.dueAhead d < s.freeCount .launch)
    | .lnch .. => decide (s.dueAhead d < s.freeCount .launch)
    | _ => true)

/-- Whether an LNCH may take a launch counter now: by its place among the due levels when it waits there, else behind them all. -/
def State.lnchNext (s : State) (r : DRead) : Bool :=
  match s.due.find? (fun d => d.what == r) with
  | some d => s.dueNext d
  | none => decide ((s.due.filter (fun x => x.what.sameKind r && s.dueLive x)).length < s.freeCount .launch)

/-- An LNCH waits among the due levels (R34, R38). -/
def State.lnchWaits (s : State) (vf : Nat) (r : DRead) : State :=
  if s.due.any (fun d => d.what == r) then s else s.becomeDue vf r

/-- Whether what a due level waits with still stands: the thread of an LNCH stands at it, or its log entry is there. -/
def State.dueStands (s : State) (d : Due) : Bool :=
  match d.what with
  | .lnch bid tid pc op =>
    (match s.thread? bid tid with
     | some t => t.life == .live && (match op with
        | none => t.pc == pc && (match t.park with | .lnch => true | .running => true | _ => false)
        | some o => s.oplog.any (fun x => x.id == o))
     | none => false)
  | _ => true

/-! ### Jobs (R28, R35, R37, R426) -/

def State.job? (s : State) (j : Nat) : Option Job := s.jobs.find? (fun x => x.obj == j)
def State.modJob (s : State) (j : Nat) (f : Job → Job) : State :=
  { s with jobs := s.jobs.map fun x => if x.obj == j then f x else x }
def State.phase? (s : State) (p : Nat) : Option PhaseObj := s.phases.find? (fun x => x.obj == p)
def State.graph? (s : State) (g : Nat) : Option Graph := s.graphs.find? (fun x => x.obj == g)
def State.modGraph (s : State) (g : Nat) (f : Graph → Graph) : State :=
  { s with graphs := s.graphs.map fun x => if x.obj == g then f x else x }
def State.modLaunch (s : State) (l : Nat) (f : Launch → Launch) : State :=
  { s with launches := s.launches.map fun x => if x.obj == l then f x else x }

/-- The state a completion word reports (R37). -/
def State.jobState (s : State) (j : Job) : Nat :=
  if j.invalid then 3
  else
    match j.ctr with
    | none => 2
    | some n => match s.counter? j.vf .job n with | some c => if c.final == .cancelled then 2 else 1 | none => 1

/-- The job's completion word has been written or will not be: the interrupt, and the job is counted no more (R37, R426). -/
def State.jobOver (s : State) (j : Job) : State :=
  let s := match j.ctr with | some n => s.close j.vf .job n | none => s
  ({ s with jobs := s.jobs.filter (fun x => x.obj != j.obj) } : State).irq j.vf 1#4

/-- The counter handle of a job, 0 when it holds none. -/
def jobHandle (j : Job) : Word := match j.ctr with | some n => handleOf .job n | none => 0

/-- The completion word is written at DONEW, in another package too (R402), or its write waits (R37, R426).
[log 53: DEDUCED, unsafe] -/
def State.jobWord (s : State) (j : Job) : State :=
  match j.donew with
  | none => s.jobOver j
  | some va =>
    let p := s.dispLines j.vf va 8 true
    match p.1 with
    | .error (bad, cause) => p.2.dispFault j.vf (.donew j.obj) bad cause (jobHandle j)
    | .ok m =>
      let bs := bytesOf 8 (j.tag.toNat * 2 ^ 32 + s.jobState j)
      match p.2.target (physLine m (va / 128) * 128) with
      | .damask pkg win ofs => p.2.dispSend j.vf (.donew j.obj) va pkg (win * 2 ^ 32 + ofs / 128 * 128 + va % 128) opStore bs
      | _ => ((List.range 8).foldl (fun s i => s.putGlobal j.vf m (va + i) (bs.getD i 0)) p.2).jobOver j

/-- A job whose remaining count has reached 0 completes (R37). -/
def State.climbJob (s : State) (j : Nat) : State :=
  match s.job? j with
  | none => s
  | some x =>
    match x.ctr with
    | none => s
    | some n =>
      match s.closes x.vf .job n with
      | none => s
      | some _ =>
        if x.ended then s
        else
          let s := s.modCounter x.vf .job n fun c => { c with state := c.final }
          (s.modJob j fun x => { x with ended := true }).jobWord { x with ended := true }

/-- The next phase of a job becomes due (R35). -/
def State.nextPhase (s : State) (x : Job) (idx : Nat) : State :=
  let p := s.newId
  let o : PhaseObj := { obj := p.1, vf := x.vf, ctr := 0, job := x.obj, idx := idx, ngr := 0 }
  ({ p.2 with phases := p.2.phases ++ [o] } : State).becomeDue x.vf (.phase p.1)

/-- A phase leaves its job, completed or never started: the job goes on with the next one or, when it was cancelled, with none
(R35, R43). -/
def State.phaseLeaves (s : State) (p : PhaseObj) (cancelled : Bool) : State :=
  let s := { s with phases := s.phases.filter (fun x => x.obj != p.obj) }
  match s.job? p.job with
  | none => s
  | some x =>
    match x.ctr with
    | none => s
    | some n =>
      let s := s.childDone x.vf .job n 1 cancelled
      match s.counter? x.vf .job n with
      | none => s
      | some c =>
        let s := if c.left == 0 then s
          else if c.final == .cancelled then s.childDone x.vf .job n c.left true
          else s.nextPhase x (p.idx + 1)
        s.climbJob x.obj

/-- A phase whose remaining count has reached 0 completes. -/
def State.climbPhase (s : State) (p : Nat) : State :=
  match s.phase? p with
  | none => s
  | some x =>
    if x.ngr == 0 then s
    else
      match s.closes x.vf .phase x.ctr with
      | none => s
      | some canc => (s.close x.vf .phase x.ctr).phaseLeaves x canc

/-- A graph leaves its phase, completed or never started. -/
def State.graphLeaves (s : State) (g : Graph) (cancelled : Bool) : State :=
  let s := { s with graphs := s.graphs.filter (fun x => x.obj != g.obj) }
  match s.phase? g.phase with
  | none => s
  | some p => (s.childDone g.vf .phase p.ctr 1 cancelled).climbPhase p.obj

/-- A graph whose remaining count has reached 0 completes. -/
def State.climbGraph (s : State) (g : Nat) : State :=
  match s.graph? g with
  | none => s
  | some x =>
    match x.ctr with
    | none => s
    | some n =>
      match s.closes x.vf .graph n with
      | none => s
      | some canc => (s.close x.vf .graph n).graphLeaves x canc

/-- The state of node i. -/
def Graph.nodeState (g : Graph) (i : Nat) : NState := match g.nodes[i]? with | some n => n.2.2 | none => .done
def Graph.setNode (g : Graph) (i : Nat) (st : NState) : Graph :=
  { g with nodes := g.nodes.modify i (fun n => (n.1, n.2.1, st)) }

/-- Node i of a graph, when it waits: cancelled with its graph or with a predecessor, due when every predecessor is done (R35,
R43). -/
def State.settleNode (g : Nat) (s : State) (i : Nat) : State :=
  match s.graph? g with
  | none => s
  | some x =>
    match x.ctr, x.nodes[i]? with
    | some n, some (_, mask, .waiting) =>
      let preds := ((List.range i).filter (fun j => mask.getLsbD j)).map x.nodeState
      let stopped := match s.counter? x.vf .graph n with | some c => c.state == .cancelled | none => false
      if stopped || preds.contains .cancelled then
        (s.modGraph g (·.setNode i .cancelled)).childDone x.vf .graph n 1 true
      else if preds.all (· == .done) then (s.modGraph g (·.setNode i .due)).becomeDue x.vf (.node g i)
      else s
    | _, _ => s

/-- Every waiting node of a graph, in ascending order. -/
def State.settleNodes (s : State) (g : Nat) : State :=
  match s.graph? g with
  | none => s
  | some x => (List.range x.nodes.length).foldl (State.settleNode g) s

/-- A launch whose remaining count has reached 0 completes, and its graph goes on (R35, R36). -/
def State.climbLaunch (s : State) (l : Nat) : State :=
  match s.launch? l with
  | none => s
  | some x =>
    match s.closes x.vf .launch x.ctr with
    | none => s
    | some canc =>
      let s := s.close x.vf .launch x.ctr
      let s := { s with launches := s.launches.filter (fun y => y.obj != l) }
      match s.graph? x.graph with
      | none => s
      | some g =>
        let s := match x.node with
          | some i => s.modGraph g.obj (·.setNode i (if canc then .cancelled else .done))
          | none => s
        match g.ctr with
        | none => s
        | some n => ((s.childDone x.vf .graph n 1 canc).settleNodes g.obj).climbGraph g.obj

/-! ### Cancelling (R43, R44) -/

/-- A running level's state becomes cancelled.
[log 56: DEDUCED, unsafe] -/
def State.setCancelled (s : State) (vf : Nat) (lv : Level) (num : Nat) : State :=
  s.modCounter vf lv num fun c => { c with state := .cancelled }

/-- Whether a level still runs: not completed and not cancelled yet (R44). -/
def State.runs (s : State) (vf : Nat) (lv : Level) (num : Nat) : Bool :=
  match s.counter? vf lv num with | some c => c.state == .running | none => false

/-- A launch is cancelled: no further block of it is dispatched, its blocks are killed (R43). -/
def State.cancelOneLaunch (s : State) (l : Nat) : State :=
  match s.launch? l with
  | none => s
  | some x =>
    if !s.runs x.vf .launch x.ctr then s
    else
      let s := s.setCancelled x.vf .launch x.ctr
      let rest := x.shape.nblk - x.next
      let s := (s.modLaunch l fun x => { x with next := x.shape.nblk }).childDone x.vf .launch x.ctr rest true
      (s.killLaunch l).climbLaunch l

/-- A launch is killed (R340, R352): its blocks are killed, those not dispatched yet count as complete cancelled, and it completes
cancelled.
[log 19: DEDUCED, unsafe] -/
def State.killWhole (s : State) (l : Nat) : State :=
  match s.launch? l with
  | none => s
  | some x =>
    let rest := x.shape.nblk - x.next
    let s := (s.modLaunch l fun x => { x with next := x.shape.nblk }).childDone x.vf .launch x.ctr rest true
    (s.killLaunch l).climbLaunch l

/-- A graph is cancelled; one that has not started counts as complete cancelled (R43).
[log 55: DEDUCED, unsafe] -/
def State.cancelGraph (s : State) (g : Nat) : State :=
  match s.graph? g with
  | none => s
  | some x =>
    match x.ctr with
    | none => (s.dropRead (.graph g)).graphLeaves x true
    | some n =>
      if !s.runs x.vf .graph n then s
      else
        let s := s.setCancelled x.vf .graph n
        let due := (List.range x.nodes.length).filter (fun i => x.nodeState i == .due)
        let s := due.foldl (fun s i => (s.dropRead (.node g i)).modGraph g (·.setNode i .waiting)) s
        let s := s.settleNodes g
        let ls := (s.launches.filter (fun l => l.graph == g)).map (·.obj)
        (ls.foldl State.cancelOneLaunch s).climbGraph g

/-- A phase is cancelled (R43).
[log 55: DEDUCED, unsafe] -/
def State.cancelPhase (s : State) (p : Nat) : State :=
  match s.phase? p with
  | none => s
  | some x =>
    if x.ngr == 0 then (s.dropRead (.phase p)).phaseLeaves x true
    else if !s.runs x.vf .phase x.ctr then s
    else
      let s := s.setCancelled x.vf .phase x.ctr
      let gs := (s.graphs.filter (fun g => g.phase == p)).map (·.obj)
      (gs.foldl State.cancelGraph s).climbPhase p

/-- A job is cancelled (R43). -/
def State.cancelJob (s : State) (j : Nat) : State :=
  match s.job? j with
  | none => s
  | some x =>
    match x.ctr with
    | none => s
    | some n =>
      if !s.runs x.vf .job n then s
      else
        let s := s.setCancelled x.vf .job n
        let ps := (s.phases.filter (fun p => p.job == j)).map (·.obj)
        (ps.foldl State.cancelPhase s).climbJob j

/-- CNCL of a level by its handle (R43).
[log 56: DEDUCED, unsafe] -/
def State.cancelLevel (s : State) (vf : Nat) (h : Word) : State :=
  let n := handleNum h
  match handleLevel h with
  | .launch => match s.launches.find? (fun l => l.vf == vf && l.ctr == n) with | some l => s.cancelOneLaunch l.obj | none => s
  | .graph => match s.graphs.find? (fun g => g.vf == vf && g.ctr == some n) with | some g => s.cancelGraph g.obj | none => s
  | .phase =>
    (match s.phases.find? (fun p => p.vf == vf && p.ngr != 0 && p.ctr == n) with | some p => s.cancelPhase p.obj | none => s)
  | .job => match s.jobs.find? (fun j => j.vf == vf && j.ctr == some n) with | some j => s.cancelJob j.obj | none => s

/-! ### Invalid records (R426) -/

/-- A fault-log record of a dispatcher read (R348). -/
def State.logRead (s : State) (vf code : Nat) (launch tag : Word) (va : Nat) : State :=
  s.logFault vf code 0 0xFFFFF#32 0 launch tag 0 (BitVec.ofNat 64 va)

/-- A job becomes invalid: cancelled, and its state will read 3 (R426). -/
def State.spoilJob (s : State) (j : Nat) : State := (s.modJob j fun x => { x with invalid := true }).cancelJob j

/-- The job a read serves. -/
def State.jobOfRead (s : State) (r : DRead) : Option Nat :=
  let ofPhase (p : Nat) : Option Nat := (s.phase? p).map (·.job)
  match r with
  | .jobRec j => some j
  | .donew j => some j
  | .phase p => ofPhase p
  | .graph g => (s.graph? g).bind (fun g => ofPhase g.phase)
  | .node g _ => (s.graph? g).bind (fun g => ofPhase g.phase)
  | .lnch .. => none

/-- The tag of the job a read serves. -/
def State.tagOfRead (s : State) (r : DRead) : Word :=
  match s.jobOfRead r with
  | none => 0
  | some j => match s.job? j with | some x => x.tag | none => 0

/-- A record that breaks its rules: the log entry, then its job becomes invalid (R426).
[log 76: DEDUCED, unsafe] -/
def State.badRecord (s : State) (vf : Nat) (r : DRead) (launch : Word) (va : Nat) : State :=
  let s := s.logRead vf 0x70 launch (s.tagOfRead r) va
  match s.jobOfRead r with
  | some j => s.spoilJob j
  | none => s

end Sys2Proof.Machine
end

