-- ==== Sys2Proof/Machine/System.lean ====
section
/-! DEFINITION. System registers, traps, launches from a kernel and counters: SYSR, SYSW, TRAP, TRET, LNCH, CNCL, CSIG and CWT
(R38, R43, R169-R179, R183, R313). -/

namespace Sys2Proof.Machine

/-! ### System registers (R169-R171, R183, R313) -/

/-- Unit and register number of a system immediate (R169). -/
def sysUnit (n : BitVec 26) : Nat := n.toNat / 2 ^ 16
def sysReg (n : BitVec 26) : Nat := n.toNat % 2 ^ 16

/-- Whether an immediate names a THR register (R169). -/
def sysThr (n : BitVec 26) : Bool := sysUnit n == 1

/-- The highest request among a core's resident blocks, 750 with none (R312, R313). -/
def State.request (s : State) (core : Nat) : Nat :=
  let vs := (s.blocks.filter (fun b => b.resident && b.core == core)).map (·.volt)
  if vs.isEmpty then 750 else vs.foldl (fun m v => if m < v then v else m) 0

/-- The value of a system register as a thread reads it (R171, R183, R313). -/
def State.sysValue (s : State) (u : Cur) (n : BitVec 26) : DWord :=
  let r := sysReg n
  if sysThr n then (if r == 0 then u.t.xpc else if r == 1 then u.t.xcause else u.t.xinfo)
  else if r == 0x20 then s.avcal
  else if r == 0x21 then BitVec.ofNat 64 ((s.core u.b.core).rail * 2 ^ 16 + s.request u.b.core)
  else (s.core u.b.core).lqt.get 0 (r - 0x100)

/-- SYSR (R170): long-latency; fault 0x03 for THR outside trap mode, 0x60 for CORE in a deterministic launch. -/
def execSysr (c : Ctl) (d : G) (num : BitVec 26) (s : State) : Out :=
  execWith c s
    (fun u => { precise [(d, 2)] [] [] with
      fault := if sysThr num then (if u.t.mode == .trap then none else some 0x03)
        else if u.b.shape.det then some 0x60 else none })
    (fun u =>
      (s.done u c 1 (u.t.addFlag u.t.flagOf)).later u
        (.regs (regWrites d 8 (s.sysValue u num).toNat .P) Know.none []))

/-- Whether a thread may write a system register (R170, R171, R183, R313). -/
def Thread.sysWritable (t : Thread) (n : BitVec 26) : Bool :=
  if sysThr n then t.mode == .trap && sysReg n == 0 else decide (0x100 ≤ sysReg n)

/-- SYSW (R170): fault 0x03 where the register or the mode does not allow it. -/
def execSysw (c : Ctl) (a : G) (num : BitVec 26) (s : State) : Out :=
  execWith c s
    (fun u => { precise [] [(a, 2)] [] with fault := if u.t.sysWritable num then none else some 0x03 })
    (fun u =>
      let v := u.t.pair a
      if sysThr num then (s.done u c 1 { u.t with xpc := v }).modBlock u.b.bid fun b => { b with regSysw := true }
      else
        let s := (s.done u c 1 u.t).modCore u.b.core fun k => { k with lqt := k.lqt.set (sysReg num - 0x100) v }
        s.modBlock u.b.bid fun b => { b with regSysw := true, lqWritten := true })

/-! ### TRAP and TRET (R172, R173) -/

/-- TRAP (R172, R345): the thread retires it, then enters its function's handler, or its block is killed. -/
def execTrap (c : Ctl) (n : BitVec 26) (s : State) : Out :=
  execWith c s
    (fun u => { precise [] [] [] with fault := if u.t.mode == .trap then some 0x02 else none })
    (fun u =>
      let s := s.done u c 1 u.t
      match s.block? u.b.bid, s.thread? u.b.bid u.tid with
      | some b, some t =>
        (s.takeFault b u.tid t 0x08 u.t.site (xpcOf t.mode t.slot t.pc) (BitVec.ofNat 64 n.toNat)).endPacket
      | _, _ => s)

/-- Whether THR.XPC is one TRET accepts (R171). -/
def xpcOk (x : DWord) : Bool :=
  let n := x.toNat
  let slot := n / 2 ^ 57 % 8
  n / 2 ^ 61 % 4 ≤ 1 && n % 8 == 0 && (if n / 2 ^ 63 == 1 then slot == 0 else slot != 0)

/-- TRET (R173). -/
def execTret (c : Ctl) (s : State) : Out :=
  execWith c s
    (fun u => { precise [] [] [] with fault := if u.t.mode == .trap && xpcOk u.t.xpc then none else some 0x02 })
    (fun u => s.doneAt u c u.t.leaveTrap)

/-! ### LNCH (R38, R176) -/

/-- The access of LNCH: 64 bytes at the record's address. -/
def State.lnchAcc (s : State) (u : Cur) (d a : G) : Acc :=
  { s.acc u (.lnch d) 0 64 .P 0 with a := (u.t.pair a).toNat, know := u.t.know.own u.b.bid u.tid s.ids }

/-- The due level a thread's LNCH waits as (R34, R38). -/
def Cur.lnchDue (u : Cur) : DRead := .lnch u.b.bid u.tid u.t.pc none

/-- LNCH (R38, R176): fault 0x70 for an address that names no record; with no launch counter for it the thread waits among the due
levels and issues again. -/
def execLnch (c : Ctl) (d a : G) (s : State) : Out :=
  let place (u : Cur) : Located := .global (u.t.pair a).toNat
  execWith c s
    (fun u => { precise [(d, 1)] [(a, 2)] [] with
      fault := if (u.t.pair a).toNat % 64 != 0 || 2 ^ 57 ≤ (u.t.pair a).toNat then some 0x70
        else s.accessFault u.b (s.lnchAcc u d a) (place u) })
    (fun u =>
      if s.lnchNext u.lnchDue then (s.access u c (s.lnchAcc u d a) (place u)).dropDue u.lnchDue
      else ((s.setThread u.b.bid u.tid { u.t with park := .lnch }).lnchWaits u.b.vf u.lnchDue).popIssue)

/-! ### CNCL, CSIG and CWT (R43, R175-R179) -/

/-- The fault of a counter handle (R152). -/
def State.handleFault (s : State) (u : Cur) (a : G) : Option Nat :=
  match s.handle? u.b.vf (u.t.val a) with
  | some _ => none
  | none => some 0x71

/-- CNCL (R43, R176). -/
def execCncl (c : Ctl) (a : G) (s : State) : Out :=
  execWith c s
    (fun u => { precise [] [(a, 1)] [] with fault := s.handleFault u a })
    (fun u => ((s.done u c 1 u.t).cancelLevel u.b.vf (u.t.val a)).endPacket)

/-- CSIG and CSIG.rel (R177, R330): with .rel the thread goes on once its block's commit is performed.
[log 96: DEDUCED, unsafe] -/
def execCsig (c : Ctl) (a b : G) (rel : Bool) (sc : Scope) (s : State) : Out :=
  execWith c s
    (fun u => { precise [] [(a, 1), (b, 1)] [] with
      fault := if rel && u.b.shape.det then some 0x60 else s.handleFault u a })
    (fun u =>
      let h := u.t.val a
      let v := u.t.val b
      let key := [(s.codeWord u.b u.t.pc).getD 0 |>.toNat, h.toNat, v.toNat]
      let waits (s : State) : State :=
        (s.done u c 1 { u.t with park := .commitWait }).commit u.b.bid sc true (.csig u.tid h v)
      s.once u key
        (fun _ s => if rel then waits s else (s.done u c 1 u.t).addCounter u.b.vf h v)
        (fun s =>
          let s := s.present u.b u.tid key 0
          if rel then waits s else s.done u c 1 u.t))

/-- CWT.val (R178). -/
def execCwtVal (c : Ctl) (pd : PF) (a b : G) (acq : Bool) (sc : Scope) (s : State) : Out :=
  execWith c s
    (fun u => { precise [] [(a, 1), (b, 1)] [] with
      fault := if u.b.shape.det then some 0x60 else s.handleFault u a })
    (fun u => s.done u c 1 { u.t.busy with park := .cwtVal pd (u.t.val a) (u.t.val b) acq sc })

/-- CWT.done (R178). -/
def execCwtDone (c : Ctl) (pd : PF) (a : G) (_acq : Bool) (_sc : Scope) (s : State) : Out :=
  execWith c s
    (fun u => { precise [] [(a, 1)] [] with
      fault := if u.b.shape.det then some 0x60 else s.handleFault u a })
    (fun u => s.done u c 1 { u.t.busy with park := .cwtDone pd (u.t.val a) })

/-- What a counter gives a thread that waits for it in CWT: the predicate, or none while it waits (R178). -/
def Counter.answers (c : Counter) (p : Park) : Option Bool :=
  match p with
  | .cwtVal _ _ t _ _ =>
    if (c.value - t).toNat < 2 ^ 31 then some true else if c.state == .cancelled then some false else none
  | .cwtDone .. => (match c.state with | .running => none | .done => some true | .cancelled => some false)
  | _ => none

/-- A thread parked in CWT runs on when its condition holds (R178): CWT.done acquires at device scope, CWT.val with its acquire
qualifier, whatever released it (R36); the core's L1 is then invalidated. -/
def State.settleCwt (s : State) (b : Block) (tid : Nat) (t : Thread) : State :=
  match t.park.counter? with
  | none => s
  | some h =>
    match s.handle? b.vf h with
    | none => s
    | some c =>
      match c.answers t.park with
      | none => s
      | some v =>
        let pd : PF := match t.park with | .cwtVal p _ _ _ _ => p | .cwtDone p _ => p | _ => 7#3
        let acq := match t.park with | .cwtVal _ _ _ q _ => q | _ => true
        let s := s.setThread b.bid tid { Thread.noteChange t (t.setPred pd ⟨v, .P⟩) with park := .running }
        if acq then s.dropL1 b.core else s

end Sys2Proof.Machine
end

