-- ==== Sys2Proof/Machine/Approx.lean ====
section
/-! DEFINITION. Approximate data: AVSET, the low rail, ENDR and ENDRC (R307, R308, R310, R312, R322-R325). -/

namespace Sys2Proof.Machine

/-! ### The low rail (R307, R312, R325) -/

/-- A rail above the highest request of its core's resident blocks falls to it (R312). -/
def State.lowerRail (s : State) (core : Nat) : State :=
  if s.blocks.any (fun b => b.resident && b.core == core) && decide (s.request core < (s.core core).rail) then
    s.modCore core fun k => { k with rail := s.request core }
  else s

/-- The flags of requests complete. -/
def State.endRequests (s : State) (bid : Nat) (ws : List (Nat × Nat × Option Nat)) : State :=
  ws.foldl (fun s w => s.modBoth bid w.2.1 w.1 (fun t => t.endFlag w.2.2)) s

/-- A request of v mV performed for a block (R307): a lower one acts at once, a higher one once the rail stands there. A waiting
request that another value replaces completes.
[log 18: DEDUCED, unsafe] -/
def State.avset (s : State) (bid tid oid : Nat) (flag : Option Nat) (v : Nat) : State :=
  match s.block? bid with
  | none => s
  | some b =>
    let ws := match b.rising with | some (_, ws) => ws | none => []
    let me := (oid, tid, flag)
    let same := b.volt == v && b.rising.isSome
    let old := if same then [] else ws
    let wait := same || (decide (b.volt < v) && decide ((s.core b.core).rail < v))
    let b' := { b with
      volt := v
      regAvset := true
      level := if wait then b.level else levelOf s.avcal v
      rising := if wait then some (v, (if same then ws else []) ++ [me]) else none }
    ((s.setBlock b').endRequests bid (if wait then old else old ++ [me])).lowerRail b.core

/-- An AVSET of v mV by the issuing thread. -/
def State.avsetOf (s : State) (u : Cur) (c : Ctl) (v : Nat) : State :=
  let id := s.ids
  (({ s with ids := id + 1 } : State).done u c 1 (u.t.addFlag u.t.flagOf)).avset u.b.bid u.tid id u.t.flagOf v

/-- AVSET with a register (R307, R322). -/
def execAvset (c : Ctl) (a : G) (s : State) : Out :=
  execWith c s
    (fun u =>
      let v := u.t.nat a
      { precise [] [(a, 1)] [] with
        fault := if v < 450 || 750 < v || v % 5 != 0 then some 0x01
          else if u.b.shape.det && v < 750 then some 0x60 else none })
    (fun u => s.avsetOf u c (u.t.nat a))

/-- AVSET with an immediate (R307, R322). -/
def execAvsetI (c : Ctl) (v : Word) (s : State) : Out :=
  execWith c s
    (fun u => { precise [] [] [] with fault := if u.b.shape.det && v.toNat < 750 then some 0x60 else none })
    (fun u => s.avsetOf u c v.toNat)

/-- A block whose request the rail has reached takes its level, and its requests complete (R307). -/
def State.raised (mv : Nat) (s : State) (bid : Nat) : State :=
  match s.block? bid with
  | none => s
  | some b =>
    match b.rising with
    | none => s
    | some (v, ws) =>
      if mv < v then s
      else (s.setBlock { b with rising := none, level := levelOf s.avcal v }).endRequests bid ws

/-- RAIL_REACHED (R307, R312): a core's rail has climbed to mv, at most its highest request. -/
def execRailReached (core mv : Nat) (s : State) : Out :=
  if (s.core core).rail < mv && mv ≤ s.request core then
    let s := s.modCore core fun k => { k with rail := mv }
    .next (((s.blocks.filter (fun b => b.resident && b.core == core)).map (·.bid)).foldl (State.raised mv) s)
  else .next s

/-- Whether a block waits for its core's rail after it was placed there (R312): its request stands above the rail, and no raise of
its own is under way. -/
def State.railHolds (s : State) (b : Block) : Bool := b.rising.isNone && decide ((s.core b.core).rail < b.volt)

/-! ### Endorsement (R310, R323, R324) -/

/-- ENDR (R323). -/
def execEndr (c : Ctl) (d a : G) (wide : Bool) (s : State) : Out :=
  execLocal c 1 s
    (fun _ => { uses := [(d, wideN wide), (a, wideN wide)], taint := [], ptaint := [], ap := false, fault := none })
    (fun u => u.t.setNum wide d (u.t.num wide a))

/-- ENDR between predicates (R323). -/
def execEndrPred (c : Ctl) (d a : PF) (s : State) : Out :=
  execLocal c 1 s (fun _ => { uses := [], taint := [], ptaint := [], ap := false, fault := none })
    (fun u => u.t.setPred d ⟨(u.t.pred a).val, .P⟩)

/-- ENDRC's result (R310, R324): v cut to the bounds, compared as values; a NaN gives the NaN value. -/
def endrcVal (t : Ty) (v lo hi nan : Nat) : Nat :=
  if decodeF t v == .nan then nan
  else
    let w := if (decodeF t v).lt (decodeF t lo) then lo else v
    if (decodeF t hi).lt (decodeF t w) then hi else w

/-- ENDRC (R310, R324). -/
def execEndrc (c : Ctl) (d a b cc : G) (t : Ty) (s : State) : Out :=
  execLocal c 2 s
    (fun _ => { uses := [(d, 1), (a, 1), (b, 1), (cc, 1)], taint := [(b, 1), (cc, 1)], ptaint := [], ap := false, fault := none })
    (fun u =>
      let n := 2 ^ t.bits
      u.t.setReg d ⟨BitVec.ofNat 32 (endrcVal t (u.t.nat a % n) (u.t.nat b % n) (u.t.nat b / n % n) (u.t.nat cc % n)), .P⟩)

end Sys2Proof.Machine
end

