-- ==== Sys2Proof/Machine/Jobs.lean ====
section
/-! DEFINITION. Jobs and the levels below them: SUBMIT, JOB_START, LEVEL_START, and the replies to the dispatcher's reads (R26-R35,
R37, R426). -/

namespace Sys2Proof.Machine

/-! ### The doorbell (R29-R31, R422, R423) -/

/-- Virtual functions (R403). -/
def functions : Nat := 96
/-- Jobs a function may queue, and have active at once (R30, R31). -/
def queueDepth : Nat := 64
def activeJobs : Nat := 8

/-- Jobs of a function, queued or active. -/
def State.queued (s : State) (vf : Nat) : List Job := s.jobs.filter (fun j => j.vf == vf && !j.active)
def State.activeCount (s : State) (vf : Nat) : Nat := (s.jobs.filter (fun j => j.vf == vf && j.active)).length

/-- A job as its address enters the queue. -/
def Job.queuedAt (obj vf va : Nat) : Job :=
  { obj := obj, vf := vf, va := va, active := false, ctr := none, tag := 0, donew := none, phases := 0, nph := 0, invalid := false,
    ended := false }

/-- SUBMIT: a write of VF.SUBMIT (R29, R30, R423). -/
def execSubmit (vf : Nat) (v : DWord) (s : State) : Out :=
  .next (
    if functions ≤ vf then s
    else if !s.ready || v.toNat / 2 ^ 57 != 0 || v.toNat % 64 != 0 then s.modVf vf fun x => { x with badw := true }
    else if queueDepth ≤ (s.queued vf).length then s.modVf vf fun x => { x with ovf := true }
    else
      let p := s.newId
      ({ p.2 with jobs := p.2.jobs ++ [Job.queuedAt p.1 vf v.toNat] } : State).modVf vf fun x => { x with acc := x.acc + 1 })

/-! ### Starting a job (R28, R31, R35, R37, R426) -/

/-- State of VF.MIGCTL (R393). -/
def Vf.migState (v : Vf) : Nat := bitsOf v.migctl 7 4


/-- A job record that breaks R28 (R28, R37, R426): the log entry, and its completion word where the record gives one.
[log 53: DEDUCED, unsafe] -/
def State.jobInvalid (s : State) (j : Job) (bytes : List Byte) : State :=
  let r := ofBytes bytes
  let dn := field r 191 128
  let tag : Word := BitVec.ofNat 32 (field r 127 96)
  let j := { j with active := true, ended := true, invalid := true, tag := tag,
                    donew := if dn % 8 == 0 && dn < 2 ^ 57 then some dn else none }
  ((s.modJob j.obj (fun _ => j)).logRead j.vf 0x70 0 tag j.va).jobWord j

/-- JOB_START (R31, R35, R426): the oldest queued job of a function starts. -/
def execJobStart (vf : Nat) (s : State) : Out :=
  .next (
    match s.queued vf with
    | [] => s
    | j :: _ =>
      if s.waitsRead (.jobRec j.obj) || activeJobs ≤ s.activeCount vf || !s.vfRuns vf then s
      else
        let p := s.dispRead (.jobRec j.obj) vf j.va 64
        match p.1 with
        | .error (bad, cause) => p.2.dispHold vf (.jobRec j.obj) bad cause 0
        | .ok bs =>
          match jobFields bs with
          | none => p.2.jobInvalid j bs
          | some (dn, tag, n, ph) =>
            let q := (p.2.dropRead (.jobRec j.obj)).freeNum .job
            match q.1 with
            | none => q.2
            | some num =>
              let x := { j with active := true, ctr := some num, tag := tag, donew := some dn, phases := ph, nph := n }
              ((q.2.takeCounter vf .job num n none).modJob j.obj (fun _ => x)).nextPhase x 0)

/-! ### Starting a level (R26, R27, R34, R35, R426) -/

/-- A phase starts (R35): its graphs become due. -/
def State.startPhase (s : State) (x : PhaseObj) (j : Job) : State :=
  let va := j.phases + 16 * x.idx
  let p := s.dispRead (.phase x.obj) x.vf va 16
  match p.1 with
  | .error (bad, cause) => p.2.dispHold x.vf (.phase x.obj) bad cause 0
  | .ok bs =>
    match phaseFields bs with
    | none => p.2.badRecord x.vf (.phase x.obj) 0 va
    | some (arr, n) =>
      let q := p.2.freeNum .phase
      match q.1 with
      | none => q.2
      | some num =>
        let s := (q.2.dropRead (.phase x.obj)).takeCounter x.vf .phase num n (j.ctr.map (fun k => (Level.job, k)))
        let s := { s with phases := s.phases.map fun y => if y.obj == x.obj then { y with ctr := num, ngr := n } else y }
        (List.range n).foldl (fun s i =>
          let o := s.newId
          let g : Graph := { obj := o.1, vf := x.vf, ctr := none, phase := x.obj, va := arr + 8 * i, nodes := [] }
          ({ o.2 with graphs := o.2.graphs ++ [g] } : State).becomeDue x.vf (.graph o.1)) s

/-- The nodes of a graph record; none when one breaks R27. -/
def graphNodes (n : Nat) (bytes : List Byte) : Option (List (Nat × DWord)) :=
  (List.range n).mapM fun i => graphNode i ((bytes.drop (16 * i)).take 16)

/-- A graph starts (R27, R35): its nodes with no predecessor become due. -/
def State.startGraph (s : State) (x : Graph) (parent : PhaseObj) : State :=
  let hold (s : State) (e : Nat × Nat) : State := s.dispHold x.vf (.graph x.obj) e.1 e.2 0
  let bad (s : State) (va : Nat) : State := s.badRecord x.vf (.graph x.obj) 0 va
  let p := s.dispRead (.graph x.obj) x.vf x.va 8
  match p.1 with
  | .error e => hold p.2 e
  | .ok a =>
    let a := ofBytes a
    if a % 16 != 0 || 2 ^ 57 ≤ a then bad p.2 a
    else
      let p := p.2.dispRead (.graph x.obj) x.vf a 16
      match p.1 with
      | .error e => hold p.2 e
      | .ok h =>
        match graphCount h with
        | none => bad p.2 a
        | some n =>
          let p := p.2.dispRead (.graph x.obj) x.vf (a + 16) (16 * n)
          match p.1 with
          | .error e => hold p.2 e
          | .ok bs =>
            match graphNodes n bs with
            | none => bad p.2 a
            | some ns =>
              let q := p.2.freeNum .graph
              match q.1 with
              | none => q.2
              | some num =>
                let s := (q.2.dropRead (.graph x.obj)).takeCounter x.vf .graph num n (some (.phase, parent.ctr))
                let s := s.modGraph x.obj fun g =>
                  { g with ctr := some num, nodes := ns.map (fun e => (e.1, e.2, NState.waiting)) }
                s.settleNodes x.obj

/-- A launch starts with a counter of its own (R32, R35, R38, R333, R352, R356). -/
def State.newLaunch (s : State) (vf num graph : Nat) (gctr : Nat) (node : Option Nat) (p : Shape) : State :=
  let v := s.vf vf
  let q := (s.takeCounter vf .launch num p.nblk (some (.graph, gctr))).newId
  let l : Launch :=
    { obj := q.1, vf := vf, ctr := num, graph := graph, node := node, shape := p, next := 0, turn := 0, wdog := v.wdog, count := 0,
      slack := bitsOf v.pairctl 8 0, retry := bitsOf v.pairctl 15 12, pin := v.pin, born := q.1, runSum := 0, runCnt := 0 }
  let s := { q.2 with launches := q.2.launches ++ [l] }
  match node with
  | some i => s.modGraph graph (·.setNode i (.started q.1))
  | none => s

/-- A node of a graph starts: its launch record is read (R23, R26, R35). -/
def State.startNode (s : State) (g : Graph) (i : Nat) : State :=
  match g.ctr, g.nodes[i]? with
  | some gctr, some (va, _, _) =>
    let p := s.dispRead (.node g.obj i) g.vf va 64
    (match p.1 with
     | .error (bad, cause) => p.2.dispHold g.vf (.node g.obj i) bad cause 0
     | .ok bs =>
       let q := p.2.freeNum .launch
       match q.1 with
       | none => q.2
       | some num =>
         match launchShape bs with
         | none => q.2.badRecord g.vf (.node g.obj i) (handleOf .launch num) va
         | some sh => (q.2.dropRead (.node g.obj i)).newLaunch g.vf num g.obj gctr (some i) sh)
  | _, _ => s


/-- LEVEL_START (R34, R35, R426). -/
def execLevelStart (due : Nat) (s : State) : Out :=
  .next (
    match s.due.find? (fun d => d.id == due) with
    | none => s
    | some d =>
      if !s.dueNext d then s
      else
        match d.what with
        | .phase p =>
          (match s.phase? p with
           | none => s
           | some x => match s.job? x.job with | some j => s.startPhase x j | none => s)
        | .graph g =>
          (match s.graph? g with
           | none => s
           | some x => match s.phase? x.phase with | some p => s.startGraph x p | none => s)
        | .node g i => (match s.graph? g with | some x => s.startNode x i | none => s)
        | _ => s)

/-! ### Replies to the dispatcher's reads (R37, R426) -/

/-- A read of the dispatcher, or a completion word, is answered with fail: the entry with code 0x12 stands for the one with 0x70.
[log 92: DEDUCED, unsafe] -/
def State.dispFail (s : State) (vf : Nat) (r : DRead) (va : Nat) : State :=
  let launch := match r with
    | .donew j => (match s.job? j with | some x => jobHandle x | none => 0)
    | _ => 0
  let s := s.logRead vf 0x12 launch (s.tagOfRead r) va
  match r with
  | .jobRec j =>
    (match s.job? j with
     | some x => s.jobOver { x with invalid := true }
     | none => s)
  | .donew j => (match s.job? j with | some x => s.jobOver x | none => s)
  | _ => (match s.jobOfRead r with | some j => s.spoilJob j | none => s)

/-- A read of the dispatcher is made again: a due level may start, a completion word is written. -/
def State.dispRetry (s : State) (r : DRead) : State :=
  let s := { s with due := s.due.map fun d => if d.what == r then { d with held := false } else d }
  match r with
  | .donew j => (match s.job? j with | some x => s.jobWord x | none => s)
  | _ => s

/-- Another package has answered a read or a write of the dispatcher: a line that the read now has, or a completion word that is written; when
it turned it away, a fault record (R400, R402, R426). -/
def State.dispAnswer (s : State) (vf : Nat) (r : DRead) (va : Nat) (m : Msg) (cause : Nat) : State :=
  if m.stat != 0 then
    s.dispFault vf r va cause (match r with | .donew j => (match s.job? j with | some x => jobHandle x | none => 0) | _ => 0)
  else
    match r with
    | .donew j => (match s.job? j with | some x => s.jobOver x | none => s)
    | _ => ({ s with reads := (r, va / 128, m.data) :: s.reads } : State).dispRetry r

end Sys2Proof.Machine
end

