-- ==== Sys2Proof/Machine/Fetch.lean ====
section
/-! DEFINITION. The front end: the word a thread issues next, the clause header it enters by, repetitions (R70-R75, R92). -/

namespace Sys2Proof.Machine

/-- The register fields of a repetition: each steps by its own amount (R70). -/
def Fields.stepped (f : Fields) (r : Rpt) : Fields :=
  let by_ (x : BitVec 8) (n : Nat) : BitVec 8 := x + BitVec.ofNat 8 (r.k * n)
  { f with d := by_ f.d r.sd, a := by_ f.a r.sa, b := by_ f.b r.sb, c := by_ f.c r.sc }

/-- The instruction of a word, at the thread's present repetition (R70, R78). -/
def Thread.decodes (t : Thread) (w : DWord) : Except Reject Instr :=
  match t.rpt with
  | none => decode w
  | some r => (Fields.stepped (Fields.unpack w) r).decode

/-- Registers and predicates younger than their result distance: for each a free choice whether the instruction sees the
value from before the producer (R47).
[log 10: DEDUCED, safe] -/
def seeEarly : List Early → Nat → Thread → State → Thread × State
  | [], _, t, s => (t, s)
  | e :: es, clk, t, s =>
    if e.ready ≤ clk then seeEarly es clk t s
    else
      let p := s.coin
      seeEarly es clk (if p.1 then { t with seen := (e.key, e.old) :: t.seen } else t) p.2

/-- The addresses of a clause's words from its header: the header and its slots (R71). -/
def clauseWords (hdr : Addr) (cnt : Nat) : List Addr :=
  (List.range (cnt + 2)).map (fun i => hdr + BitVec.ofNat 57 (8 * i))

/-- What the front end does for the thread at the head of the packet: it is over with it, or the instruction issues. -/
inductive Front where
  | ends (s : State)
  | issue (i : Instr) (s : State)

/-- The slot at the thread's pc under a good header: fetch, early values, decode (R47, R75, R78). -/
def State.frontSlot (s : State) (u : Cur) : Front :=
  match s.codeWord u.b u.t.pc with
  | none => .ends s.popIssue
  | some w =>
    if s.codeA u.b u.t.pc then .ends (s.syncFault u.b u.tid u.t 0x20)
    else
      let p := seeEarly u.t.early (s.clkOf u.b.core) u.t s
      let s := p.2.setThread u.b.bid u.tid p.1
      match p.1.decodes w with
      | .error _ => .ends (s.syncFault u.b u.tid p.1 0x01)
      | .ok i => .issue i s

/-- A clause entered at its header, or its header read again after a resumption: the fault of a bad header or of a clause on
an A line, else its slot (R71, R73, R75).
[log 11: DEDUCED, unsafe] -/
def State.frontHeader (s : State) (u : Cur) : Front :=
  let at_ := u.t.pc - BitVec.ofNat 57 (8 * u.t.slot)
  match s.codeWord u.b at_ with
  | none => .ends s.popIssue
  | some w =>
    let h := Header.unpack w
    let f := { u.t with hdr := w }
    if s.codeA u.b at_ then .ends (s.syncFault u.b u.tid f 0x20)
    else if !h.ok then .ends (s.syncFault u.b u.tid f 0x01)
    else if (clauseWords at_ h.cnt.toNat).any (s.codeA u.b) then .ends (s.syncFault u.b u.tid f 0x20)
    else
      let t := { u.t with hdr := w, rehdr := false, pc := if u.t.slot == 0 then u.t.pc + 8 else u.t.pc,
                          slot := if u.t.slot == 0 then 1 else u.t.slot }
      (s.setThread u.b.bid u.tid t).frontSlot { u with t := t, b := u.b.setThread u.tid t }

/-- The front end for the head of the packet (R45, R346): a thread that is gone issues nothing; an asynchronous fault is
delivered before the issue. -/
def State.front (s : State) : Front :=
  match s.cur with
  | none => .ends s.popIssue
  | some u =>
    match u.t.fault with
    | some f => .ends ((s.asyncFault u.b u.tid u.t f).endPacket)
    | none => if u.t.slot == 0 || u.t.rehdr then s.frontHeader u else s.frontSlot u

end Sys2Proof.Machine
end

