-- ==== Sys2Proof/Machine/Place.lean ====
section
/-! DEFINITION. A block with one thread that stands at a given instruction word: what a loader and the dispatcher would bring
about, put in place directly (log 1). -/

namespace Sys2Proof.Machine

/-- A thread after dispatch with n registers (R16), at slot 1 of the clause at address 0.
[log 2: DESIGN CHOICE, unsafe] -/
def Thread.placed (n : Nat) (hdr : DWord) : Thread :=
  { pc := 8, slot := 1, hdr := hdr, rehdr := false, rpt := none, rptSaved := none, regs := List.replicate n ⟨0, .P⟩,
    preds := List.replicate 7 ⟨false, .P⟩, bufs := List.replicate 16 0, tls := 0, hands := List.replicate 8 .idle,
    flags := List.replicate 12 0, ret := [], retSp := 0, rej := [], rejSp := 0, seq := 0, genX := 0, genY := 0,
    mode := .normal, saved := .normal, sts := 0, spo := 0xFFFFF#20, xpc := 0, xcause := 0xFFFFF00#64, xinfo := 0,
    park := .running, life := .live, halted := false, haltReq := false, inPlace := false, leaving := false, skid := 0, askedAt := 0, fault := none,
    spin := Spin.reset, waitCnt := 0, last := 0, early := [], seen := [], nsig := 0, know := Know.none,
    read := [], fenced := none }

/-- The gang's rendezvous state at dispatch (R57). -/
def Gang.reset : Gang := { arrival := List.replicate 16 0, gone := List.replicate 16 0, arrivals := [] }

/-- The image of nothing. -/
def Image.empty : Image := { threads := [], dither := 0, volt := 750, useVolt := false, mark := 0, gangs := [] }

/-- The shape of a launch of one thread with 255 registers. -/
def Shape.one : Shape :=
  { nx := 1, ny := 1, nz := 1, nthr := 1, nregs := 255, pscr := 1, ascr := 0, sbuf := 128, rjto := 4096, latb := 0,
    det := false, idem := false, pair := false, tlsz := 0, tlbase := 0, param := 0, code := 0 }

/-- A block as the dispatcher places it on a core (R16, R25, R312): its threads, its core and resident index. -/
def Block.placed (bid vf launch lin : Nat) (p : Shape) (core ridx : Nat) (slots : List Nat) (ts : List Thread) : Block :=
  { bid := bid, vf := vf, launch := launch, lin := lin, shape := p, core := core, ridx := ridx, slots := slots,
    phase := .resident, killed := false, threads := ts, scr := [], scr0 := bid, hist := [], share := [], handed := [],
    commits := [], ncommit := [], gangs := List.replicate ((p.nthr + 31) / 32) Gang.reset, byCommit := false, forced := false,
    blocked := false, regStore := false, regAvset := false, regSysw := false, regCmd := false, regCyc := 0,
    image := Image.empty, ckpt := Image.empty, retries := 0, volt := 750, level := 0, rising := none, dither := 0,
    serial := 0, stats := [], lqWritten := false, lqSaved := none, rowsSaved := [], partner := none, trailing := false,
    sigs := [], offers := [], fwts := [], asts := [], badScr := [], errs := [], noLoan := false, draining := none, clk := 0, born := bid, since := 0, exits := 0 }

/-- The state with a block of one thread at instruction word w: the clause at address 0 holds w and a NOP after it.
[log 1: DESIGN CHOICE, unsafe] -/
def State.placeWord (s : State) (w : Nat) : State :=
  let hdr : Header := { cnt := 1, wait := 0, seta := 0, setb := 15#4, dist := 0, spo := 0 }
  let nop : Nat := 0x023FFFFFFFFFFF00
  let line : Line :=
    { vf := 0, key := s.ids + 1, line := 0, ty := .P,
      data := bytesOf 8 hdr.pack.toNat ++ bytesOf 8 w ++ bytesOf 8 nop ++ List.replicate 104 0 }
  let b := Block.placed s.ids 0 (s.ids + 1) 0 Shape.one 0 0 [0] [Thread.placed 255 hdr.pack]
  let s := s.modCore 0 fun c => { c with ic := line :: c.ic }
  { s with blocks := b :: s.blocks, ids := s.ids + 2, issue := [(b.bid, 0)], pktFaults := [] }

end Sys2Proof.Machine
end

