-- ==== Sys2Proof/Machine/Blocks.lean ====
section
/-! DEFINITION. Blocks: what they take, who hands them out, dispatch and restore, completion, and the ticket unit (R16-R25, R36,
R39, R216-R218, R295, R312, R326, R342, R350, R356, R378-R387). -/

namespace Sys2Proof.Machine

/-! ### What a core holds (R19-R22, R387) -/

/-- Blocks that hold something of a core. -/
def State.holders (s : State) (core : Nat) : List Block := s.blocks.filter (fun b => b.resident && b.core == core)

/-- The sum of a list. -/
def total (l : List Nat) : Nat := l.foldl (· + ·) 0

/-- Whether a block still holds its slots and registers: a deterministic one that waits for its turn does not (R387). -/
def Block.holdsSlots (b : Block) : Bool := !b.slots.isEmpty

/-- Lines of the share a block holds: those of its entries once its slots are freed (R387). -/
def Block.shareHeld (b : Block) : Nat := if b.holdsSlots then b.shape.sbuf else b.used

/-- Whether a block of shape p fits a core now (R22). Every gang has a thread on lane 0, so that lane decides. -/
def State.fitsNow (s : State) (p : Shape) (core : Nat) : Bool :=
  let hs := s.holders core
  let live := hs.filter Block.holdsSlots
  decide (hs.length < 32)
    && (List.range 4).all (fun q =>
      decide (total (live.map (fun b => b.shape.onQuarter q)) + p.onQuarter q ≤ 8)
        && decide (total (live.map (fun b => b.shape.onQuarter q * b.shape.units)) + p.onQuarter q * p.units ≤ 128))
    && decide (total (hs.map (fun b => b.shape.pscr)) + p.pscr ≤ 3072)
    && decide (total (hs.map (fun b => b.shape.ascr)) + p.ascr ≤ 1024)
    && decide (total (hs.map Block.shareHeld) + p.sbuf ≤ 2048)

/-- Slot indexes in use on a quarter of a core. -/
def State.slotsUsed (s : State) (core q : Nat) : List Nat :=
  ((s.holders core).map fun b => ((List.range b.slots.length).filter (fun g => g % 4 == q)).map (fun g => b.slots.getD g 0)).flatten

/-- Slot indexes for gangs g to g + n - 1, each free on its quarter, by a free choice (R19).
[log 54: DESIGN CHOICE, safe] -/
def State.takeSlots (core : Nat) : Nat → Nat → List Nat → State → List Nat × State
  | 0, _, acc, s => (acc, s)
  | n + 1, g, acc, s =>
    let used := s.slotsUsed core (g % 4) ++ ((List.range acc.length).filter (fun i => i % 4 == g % 4)).map (fun i => acc.getD i 0)
    let p := s.pick 8
    State.takeSlots core n (g + 1) (acc ++ [(freeFrom used 8 8 p.1).getD 0]) p.2

/-- A resident index free on a core, by a free choice (R22).
[log 54: DESIGN CHOICE, safe] -/
def State.takeIndex (s : State) (core : Nat) : Nat × State :=
  let p := s.pick 32
  ((freeFrom ((s.holders core).map (fun b => b.ridx)) 32 32 p.1).getD 0, p.2)

/-! ### Which core a function may use (R344, R356, R378, R382, R384, R385) -/

/-- Partition of a die. -/
def State.partOf (s : State) (die : Nat) : Nat := (s.die die).reg.toNat % 8
def State.vfPart (s : State) (vf : Nat) : Nat := (s.vf vf).part.toNat % 8

/-- A block that a function has to place: one that ran before, or the next of a launch (R378). -/
inductive Cand where
  | again (bid : Nat)
  | fresh (launch : Nat)
  deriving DecidableEq, Repr

/-- Whether a core's units are in service (R344, R418). -/
def State.coreUp (s : State) (core : Nat) : Bool :=
  let d := s.die (dieOf core)
  !(s.core core).fenced && !(s.cluster (clusterOf core)).fenced && !d.fenced && !s.tripped.contains (s.partOf (dieOf core))

/-- The launch of a candidate. -/
def State.candLaunch (s : State) (c : Cand) : Option Launch :=
  match c with
  | .again b => (match s.block? b with | some x => s.launch? x.launch | none => none)
  | .fresh l => s.launch? l

/-- Whether a pin allows a core (R356). -/
def pinAllows (pin : DWord) (core : Nat) : Bool :=
  !pin.getLsbD 11
    || (dieOf core == bitsOf pin 10 8 && clusterOf core % 12 == bitsOf pin 7 4 && pin.getLsbD (core % 4))

/-- The resources of a candidate on a core now, with the rows of a saved block and the other cluster of a relaunched one (R218,
R342). -/
def State.candFits (s : State) (c : Cand) (core : Nat) : Bool :=
  match s.candLaunch c with
  | none => false
  | some l =>
    s.coreUp core && pinAllows l.pin core && s.partOf (dieOf core) == s.vfPart l.vf && s.fitsNow l.shape core
      && (match c with
          | .fresh _ => true
          | .again b =>
            match s.block? b with
            | none => false
            | some x =>
              match x.phase with
              | .relaunch _ => clusterOf core != clusterOf x.core
              | _ => x.rowsSaved.all (fun r => ((s.core core).rowOf r.1).isNone))

/-- A function's candidates on a die in the order of R378: relaunched blocks, pre-empted ones, the next block of each launch. The
trailing copy of a pair follows its leading one. In a function that is quiescing only a relaunched block runs, to be saved (R401). -/
def State.cands (s : State) (vf : Nat) : List Cand :=
  let runs := s.vfRuns vf
  if !runs && bitsOf (s.vf vf).migctl 7 4 != 1 then []
  else
    let mine := s.blocks.filter (fun b => b.vf == vf && !b.trailing && !b.killed)
    let again (f : Phase → Option Nat) : List Cand :=
      let l := mine.filterMap (fun b => (f b.phase).map (fun o => (o, b.bid)))
      (sortBy (fun x y => decide (x.1 ≤ y.1)) l).map (fun x => Cand.again x.2)
    again (fun p => match p with | .relaunch o => some o | _ => none)
      ++ (if runs then again (fun p => match p with | .stopped o => some o | _ => none)
            ++ (s.launches.filter (fun l => l.vf == vf && decide (l.next < l.shape.nblk))).map (fun l => Cand.fresh l.obj)
          else [])

/-- Owner register fields (R384). -/
def Cluster.owned (c : Cluster) : Bool := c.clown.getLsbD 7
def Cluster.owner (c : Cluster) : Nat := c.clown.toNat % 128
def Cluster.lends (c : Cluster) : Bool := c.clown.getLsbD 8

/-- Whether a function is no borrower on a cluster (R384). -/
def State.ownsCluster (s : State) (vf cl : Nat) : Bool := !(s.cluster cl).owned || (s.cluster cl).owner == vf

/-- Whether the owner of a cluster has a candidate that fits one of its cores (R384). -/
def State.ownerWants (s : State) (cl : Nat) : Bool :=
  (s.cands (s.cluster cl).owner).any fun c => (List.range 4).any fun i => s.candFits c (4 * cl + i)

/-- Whether a block stands on a cluster that belongs to another function. -/
def State.borrows (s : State) (b : Block) : Bool := b.resident && !s.ownsCluster b.vf (clusterOf b.core)

/-- Whether a borrower's block stands on a cluster, which its owner reclaims first (R384, R385). -/
def State.lentOut (s : State) (cl : Nat) : Bool := s.blocks.any (fun b => clusterOf b.core == cl && s.borrows b)

/-- Whether a cluster may be lent to a function now, or is (R384): to one function at a time. -/
def State.mayBorrow (s : State) (vf cl : Nat) : Bool :=
  let k := s.cluster cl
  k.lends && k.loan.all (· == vf) && !s.ownerWants cl
    && !s.blocks.any (fun b => b.resident && clusterOf b.core == cl && b.vf != vf)

/-- Whether a candidate of a function may use a core: its own cluster, or on loan (R356, R384). -/
def State.mayUse (s : State) (vf : Nat) (c : Cand) (core : Nat) : Bool :=
  let cl := clusterOf core
  if s.ownsCluster vf cl then !s.lentOut cl
  else
    s.mayBorrow vf cl
      && !(match c with | .again b => (match s.block? b with | some x => x.noLoan | none => false) | .fresh _ => false)
      && (match s.candLaunch c with | some l => !l.pin.getLsbD 11 | none => false)

/-- A cluster whose owner has a candidate that fits there, and which no borrower's block holds, is lent no more (R385). -/
def State.settleLoan (s : State) (cl : Nat) : State :=
  let k := s.cluster cl
  if k.loan.isSome && (!k.owned || (!s.lentOut cl && s.ownerWants cl)) then s.setCluster cl { k with loan := none } else s

/-- Cores where the other copy of a paired block can stand: of another cluster of the partition (R326). -/
def State.otherCores (s : State) (vf : Nat) (c : Cand) (core : Nat) : List Nat :=
  (List.range 384).filter fun k => clusterOf k != clusterOf core && s.mayUse vf c k && s.candFits c k

/-- The candidate that stands for the other copy of a paired block. -/
def State.copyOf (s : State) (c : Cand) : Cand :=
  match c with
  | .fresh _ => c
  | .again b => (match s.block? b with | some x => x.partner.elim c Cand.again | none => c)

/-- Whether a candidate can be placed on a core, and its other copy on another. -/
def State.placeable (s : State) (vf : Nat) (c : Cand) (core : Nat) : Bool :=
  s.mayUse vf c core && s.candFits c core
    && (match s.candLaunch c with
        | some l => !l.shape.pair || !(s.otherCores vf (s.copyOf c) core).isEmpty
        | none => false)

/-- VF.QOS fields (R380). -/
def Vf.weight (v : Vf) : Nat := bitsOf v.qos 3 0
def Vf.prio (v : Vf) : Nat := bitsOf v.qos 10 8
def Vf.slice (v : Vf) : Nat := bitsOf v.qos 31 16

/-- VF.QOS as a die's dispatcher applies it: a new value takes effect at its next tick (R380). -/
def State.qosOn (s : State) (vf die : Nat) : DWord := (s.vf vf).qosIn.get 1 die
/-- Priority and slice of a function on a die. -/
def State.prioOn (s : State) (vf die : Nat) : Nat := bitsOf (s.qosOn vf die) 10 8
def State.sliceOn (s : State) (vf die : Nat) : Nat := bitsOf (s.qosOn vf die) 31 16

/-- Whether function f is chosen before g on a die (R378). -/
def State.before (s : State) (die f g : Nat) : Bool :=
  let p := s.prioOn f die
  let q := s.prioOn g die
  let a := (s.vf f).age.get 0 die
  let b := (s.vf g).age.get 0 die
  decide (q < p) || (p == q && (decide (b < a) || (a == b && decide (f ≤ g))))

/-- The candidate the dispatcher of a die places next on a core, with its function (R378). -/
def State.chosen (s : State) (core : Nat) : Option (Nat × Cand) :=
  let fs := (List.range functions).filterMap fun f =>
    ((s.cands f).find? (fun c => s.placeable f c core)).map (fun c => (f, c))
  (sortBy (fun x y => s.before (dieOf core) x.1 y.1) fs).head?

/-! ### Dispatch (R16, R18, R25, R39, R312, R326) -/

/-- A plain record (R230). -/
def mkRec (base extent space : Nat) : Rec := BitVec.ofNat 128 (base % 2 ^ 57 + extent % 2 ^ 48 * 2 ^ 57 + space * 2 ^ 126)

/-- The thread-local record of thread t of a block with linear index lin (R18). -/
def Shape.tlsRec (p : Shape) (lin t : Nat) : Rec := mkRec (p.tlbase + (lin * p.nthr + t) * p.tlsz * 128) (p.tlsz * 128) 0

/-- The scratchpad record of a block (R25). -/
def Shape.scrRec (p : Shape) : Rec := mkRec 0 ((p.pscr + p.ascr) * 128) 1

/-- Thread t of a block at dispatch (R16). -/
def Shape.thread (p : Shape) (lin t : Nat) : Thread :=
  let g := rngSeed 0 (lin * p.nthr + t)
  { Thread.placed p.nregs 0 with
    pc := p.code, slot := 0, genX := g.1, genY := g.2, tls := p.tlsRec lin t,
    bufs := List.replicate 13 0 ++ [p.param, p.tlsRec lin t, p.scrRec] }

/-- One copy of a fresh block on a core, with its number (R16-R20, R312, R326). -/
def State.freshBlock (s : State) (l : Launch) (core : Nat) : Nat × State :=
  let sl := State.takeSlots core l.shape.gangs 0 [] s
  let ix := sl.2.takeIndex core
  let id := ix.2.newId
  let s := id.2
  let ts := (List.range l.shape.nthr).map (l.shape.thread l.next)
  let b := Block.placed id.1 l.vf l.obj l.next l.shape core ix.1 sl.1 ts
  let b := { b with since := s.refClk, regCyc := s.clkOf core, level := levelOf s.avcal 750 }
  let b := { b with image := b.snapshot s.ids false, ckpt := b.snapshot s.ids true }
  (id.1, ({ s with blocks := s.blocks ++ [b] } : State).lowerRail core)

/-- The next block of a launch is placed on a core, its trailing copy on another cluster (R39, R326). -/
def State.placeFresh (s : State) (l : Launch) (core : Nat) : State :=
  let p := s.freshBlock l core
  let s :=
    if !l.shape.pair then p.2
    else
      let cs := p.2.otherCores l.vf (.fresh l.obj) core
      let k := p.2.pick cs.length
      let q := k.2.freshBlock l (cs.getD k.1 0)
      (q.2.modBlock p.1 (fun b => { b with partner := some q.1 })).modBlock q.1 fun b =>
        { b with partner := some p.1, trailing := true }
  s.modLaunch l.obj fun x => { x with next := x.next + 1 }

/-! ### Restore (R60, R198, R218, R295, R312, R341, R342, R350) -/

/-- A thread placed on a core again: results younger than their distance are settled. -/
def Thread.settled (t : Thread) : Thread := { t with early := [], seen := [], last := 0, waitCnt := 0 }

/-- A stopped block is placed on a core: fresh slots, index and age; a saved or flushed one brings its rows and its copy of the
table, a relaunched one neither; the core's L1 is invalidated; its request acts before a thread issues. The core's cycle count is not below
the one the block's threads have read (R120). -/
def State.restoreOne (s : State) (bid core : Nat) : State :=
  match s.block? bid with
  | none => s
  | some b =>
    let sl := State.takeSlots core b.shape.gangs 0 [] s
    let ix := sl.2.takeIndex core
    let id := ix.2.newId
    let s := id.2
    let ws := match b.rising with | some (_, ws) => ws | none => []
    let keeps := match b.phase with | .relaunch _ => false | _ => true
    let rows := if keeps then b.rowsSaved else []
    let late := b.clk - s.clkOf core
    let s := (s.modCore core fun k => { k with
      clk := k.clk + late
      rows := rows.map (fun r => (r.1, bid, r.2)) ++ k.rows
      lqt := match b.lqSaved with
        | some l => if keeps then (List.range 128).map (fun i => (i, l.getD i 0)) else k.lqt
        | none => k.lqt }).dropL1 core
    let b' := { b with
      phase := .resident, core := core, slots := sl.1, ridx := ix.1, born := id.1, level := levelOf s.avcal b.volt, rising := none, noLoan := false, draining := none,
      rowsSaved := [], lqSaved := none, lqWritten := keeps && b.lqWritten, regCyc := s.clkOf core
      threads := b.threads.map Thread.settled }
    let s := { s with oplog := s.oplog.map fun (o : OpEntry) => if o.ofBlock bid then { o with core := core } else o }
    ((s.setBlock b').endRequests bid ws).lowerRail core

/-- A stopped block, and its partner, are placed again (R335). -/
def State.placeAgain (s : State) (b : Block) (core : Nat) : State :=
  match b.partner with
  | none => s.restoreOne b.bid core
  | some p =>
    let s := s.restoreOne b.bid core
    let cs := s.otherCores b.vf (.again p) core
    let k := s.pick cs.length
    k.2.restoreOne p (cs.getD k.1 0)

/-- Threads on a stopped cluster halt at their next stop site (R359).
[log 20: DEDUCED, unsafe] -/
def State.askHalt (s : State) : State :=
  { s with blocks := s.blocks.map fun b =>
      if b.resident && (s.cluster (clusterOf b.core)).stop then
        { b with threads := b.threads.map fun t =>
            if t.halted || t.haltReq then t else { t with haltReq := true, askedAt := s.clkOf b.core } }
      else b }

/-- A block of a function stands on a cluster: a borrower has it on loan, its owner has it back (R384). -/
def State.lend (s : State) (vf core : Nat) : State :=
  let cl := clusterOf core
  s.modCluster cl fun k => { k with loan := if s.ownsCluster vf cl then none else some vf }

/-- A candidate placed on a core: the function's age on the die starts again (R379), and a cluster of another owner is lent to it (R384),
with that of the other copy (R326). -/
def State.placeCand (s : State) (vf : Nat) (c : Cand) (core : Nat) : State :=
  let s := match c with
    | .again b => (match s.block? b with | some x => s.placeAgain x core | none => s)
    | .fresh l => (match s.launch? l with | some x => s.placeFresh x core | none => s)
  let s := (s.blocks.filter (fun b => b.vf == vf && s.borrows b)).foldl (fun s b => s.lend vf b.core) (s.lend vf core)
  s.askHalt.modVf vf fun v => { v with age := v.age.set (dieOf core) 0 }

/-- BLOCK_DISPATCH (R39, R378): the dispatcher of a die fills one of its cores, 0 to 47. -/
def execBlockDispatch (die core : Nat) (s : State) : Out :=
  .next (
    if 8 ≤ die || 48 ≤ core then s
    else
      match s.chosen (48 * die + core) with
      | none => s
      | some (f, c) => s.placeCand f c (48 * die + core))

/-- BLOCK_RESTORE (R350, R378): a stopped or relaunched block that the dispatcher would choose for a core is placed there. -/
def execBlockRestore (bid core : Nat) (s : State) : Out :=
  .next (
    if 384 ≤ core then s
    else
      match s.chosen core with
      | some (f, .again b) => if b == bid then s.placeCand f (.again b) core else s
      | _ => s)

/-- Whether a function has a candidate block for a die that nothing has placed (R379). -/
def State.waitsOn (s : State) (f die : Nat) : Bool := s.vfPart f == s.partOf die && !(s.cands f).isEmpty

/-- The age of a function that has no candidate for a die starts again when it gains one (R379). -/
def State.settleAges (s : State) : State :=
  { s with vfs := s.vfs.map fun p =>
      (p.1, if p.2.age.any (fun a => a.2 != 0) then { p.2 with age := p.2.age.filter (fun a => s.waitsOn p.1 a.1) } else p.2) }

/-- DISPATCH_AGE_TICK (R379, R380): 64 cycles of a die's dispatcher have passed; new scheduling parameters take effect. -/
def execDispatchAgeTick (die : Nat) (s : State) : Out :=
  .next ((List.range functions).foldl (fun s f =>
    let waits := s.waitsOn f die
    let s := if s.qosOn f die == (s.vf f).qos then s else s.modVf f fun v => { v with qosIn := v.qosIn.set die v.qos }
    let v := s.vf f
    let a := v.age.get 0 die
    if waits then s.setVf f { v with age := v.age.set die (if 65535 < a + v.weight then 65535 else a + v.weight) }
    else if a == 0 then s else s.setVf f { v with age := v.age.set die 0 }) s)

/-- ARBITER_AGE_TICK (R386): 64 cycles of an arbiter's clock have passed.
[log 86: DESIGN CHOICE, unsafe] -/
def execArbiterAgeTick (s : State) : Out :=
  .next { s with arbiter := s.arbiter.map fun p =>
    let w := match p.vf with | some f => (s.vf f).weight | none => 15
    { p with age := if 65535 < p.age + w then 65535 else p.age + w } }

/-! ### Completion (R36, R387) -/

/-- Whether every thread of a block has ended and its exits' commits are performed (R36). -/
def Block.ended (b : Block) : Bool := b.threads.all (fun t => t.life != .live) && b.commits.isEmpty && b.exits == 0

/-- Whether an engine command of a block has not completed. -/
def State.hasCommands (s : State) (b : Block) : Bool :=
  s.xq.any (fun c => c.bid == b.bid) || s.ccols.any (fun c => c.bid == b.bid) || (s.core b.core).mq.any (fun c => c.bid == b.bid)

/-- Whether a deterministic launch grants no further turn: the block whose turn it is was killed, or is gone without it (R387,
R392). -/
def State.turnStuck (s : State) (l : Launch) : Bool :=
  decide (l.turn < l.next) && !s.blocks.any (fun b => b.launch == l.obj && b.lin == l.turn && !b.killed)

/-- Whether a block can complete (R36): its threads, commits and engine commands are done; in a deterministic launch its turn is
done, or it gets none. -/
def State.canEnd (s : State) (b : Block) : Bool :=
  (match b.phase with | .resident => true | .ended _ => true | _ => false)
    && b.ended && !s.homeWaits b.bid
    && (match s.launch? b.launch with
        | none => !s.hasCommands b
        | some l =>
          if !b.shape.det || b.killed then b.handed.isEmpty && !s.hasCommands b
          else if s.turnStuck l then !(s.xq.any (fun c => c.bid == b.bid && c.turn)) && !(s.core b.core).mq.any (fun c => c.bid == b.bid)
          else l.turn == b.lin && b.handed.isEmpty && !s.hasCommands b)

/-- A block and its copy are gone: their commands that got no turn, waiting operations and releases of their scratchpads.
[log 58: DEDUCED, unsafe] [log 93: DEDUCED, unsafe] -/
def State.removeBlock (s : State) (b : Block) : State :=
  let s := s.freeRows b.core b.bid
  let s := { s with
    blocks := s.blocks.filter (fun x => x.bid != b.bid)
    pend := s.pend.filter (fun p => p.bid != b.bid)
    oplog := s.oplog.filter (fun o => !o.ofBlock b.bid)
    xq := s.xq.filter (fun c => c.bid != b.bid)
    rels := s.rels.filter (fun r => r.space != 1 + b.bid) }
  s.lowerRail b.core

/-- A completed block is counted once, with its copy (R32, R36, R326, R349, R387). -/
def State.countBlock (s : State) (b : Block) (l : Launch) : State :=
  let s := s.modLaunch l.obj fun x =>
    { x with turn := if b.shape.det && !b.killed && x.turn == b.lin then x.turn + 1 else x.turn
             runSum := x.runSum + (s.refClk - b.since), runCnt := x.runCnt + 1 }
  (s.childDone l.vf .launch l.ctr 1 b.killed).climbLaunch l.obj

/-- BLOCK_COMPLETE (R36). -/
def execBlockComplete (bid : Nat) (s : State) : Out :=
  .next (
    match s.block? bid with
    | none => s
    | some b =>
      let ok := s.canEnd b && (match b.partner with
        | none => true
        | some p => match s.block? p with | some x => s.canEnd x | none => true)
      if !ok then s
      else
        let s := s.removeBlock b
        let s := match b.partner with
          | none => s
          | some p => match s.block? p with | some x => s.removeBlock x | none => s
        match s.launch? b.launch with
        | some l => s.countBlock b l
        | none => s)

/-- A deterministic block whose threads have ended and handed over frees its slots, registers and rows (R387). -/
def State.freeEnded (s : State) (b : Block) : State :=
  if b.shape.det && b.ended && b.holdsSlots && b.phase == .resident then
    (s.modBlock b.bid fun b => { b with slots := [] }).freeRows b.core b.bid
  else s

/-! ### The ticket unit (R387) -/

/-- Handed-over entries in the order of a turn: by thread, then program order. -/
def Block.turnOrder (b : Block) : List Entry :=
  sortBy (fun x y => decide (x.tid < y.tid) || (x.tid == y.tid && decide (x.wid ≤ y.wid))) b.handed

/-- Entries performed one after another, until one waits for its home (R387). -/
def State.performTurn (bid : Nat) : List Entry → State → State
  | [], s => s
  | e :: es, s =>
    match s.block? bid with
    | none => s
    | some b =>
      if s.waitsHome bid e.eid then s
      else
        let s := s.performOne b [e] true
        if s.waitsHome bid e.eid then s else State.performTurn bid es s

/-- TICKET_TURN (R387, R392): the block whose turn it is performs its entries, and its engine commands may write their global lines. In a
paired launch its entries have matched when it hands them over (R326). One killed during its turn finishes its entries; a cancelled launch
grants no turn. -/
def execTicketTurn (launch : Nat) (s : State) : Out :=
  .next (
    match s.launch? launch with
    | none => s
    | some l =>
      match s.blocks.find? (fun b => b.launch == launch && b.lin == l.turn && !b.trailing) with
      | none => s
      | some b =>
        if b.killed then State.performTurn b.bid b.turnOrder s
        else if !b.shape.det || !b.ended || b.phase != .resident then s
        else
          match s.counter? l.vf .launch l.ctr with
          | some c =>
            if c.state == .cancelled then s
            else
              let s := { s with xq := s.xq.map fun x => if x.bid == b.bid then { x with turn := true } else x }
              State.performTurn b.bid b.turnOrder s
          | none => s)

end Sys2Proof.Machine
end

