-- ==== Sys2Proof/Machine/Paging.lean ====
section
/-! DEFINITION. Replies to fault records, replays, invalidation of translations, and entries of a commit performed at their homes
(R238, R241, R247, R248, R271, R288, R329, R397, R426). -/

namespace Sys2Proof.Machine

/-! ### Replies (R247, R271, R426) -/


/-- The waiters attached to record seq of a function. -/
def State.attached (s : State) (vf : Nat) (seq : Word) : List OpEntry :=
  s.oplog.filter fun o => o.vf == vf && o.seq == seq && !o.replay && !s.awaitsResponse o.id

/-- A waiter leaves the log. -/
def State.dropWaiter (s : State) (op : Nat) : State := { s with oplog := s.oplog.filter (fun o => o.id != op) }

/-- A record is answered; one that stands in the ring is forgotten. -/
def State.answered (s : State) (vf : Nat) (seq : Word) : State :=
  s.modVf vf fun v => { v with
    frecs := (v.frecs.map fun r => if r.seq == seq then { r with answered := true } else r).filter (fun r => !(r.answered && r.written)) }

/-- Whether a reply is ignored: no waiter is attached, or the record is the migration engine's own (R247, R397). -/
def State.ignores (s : State) (vf : Nat) (seq : Word) : Bool :=
  (s.attached vf seq).isEmpty
    || ((s.vf vf).migState == 4 && (s.vf vf).frecs.any (fun r => r.seq == seq && r.cause == 5 && !r.answered))

/-- A waiter whose record is answered with retry: an access will replay, a line or a fetch goes on, a dispatcher read is made
again. -/
def State.retryEntry (s : State) (o : OpEntry) : State :=
  match o.waiter with
  | .access _ | .place => { s with oplog := s.oplog.map fun x => if x.id == o.id then { x with replay := true } else x }
  | .line cmd idx _ =>
    let s := (s.dropWaiter o.id).modLine cmd idx (fun l => { l with held := false })
    { s with ccols := s.ccols.map fun c => if c.id == cmd then { c with held := false } else c }
  | .fetch _ _ => s.dropWaiter o.id
  | .disp r _ => (s.dropWaiter o.id).dispRetry r

/-- A waiter whose record is answered with fail (R247, R264, R271, R411, R426). -/
def State.failEntry (s : State) (o : OpEntry) : State :=
  let s := s.dropWaiter o.id
  match o.waiter with
  | .access _ | .place =>
    (match o.acc with
     | none => s
     | some a =>
       match a.kind with
       | .home e w =>
         (match s.block? a.bid with
          | none => s
          | some b =>
            let es := b.lineOf e
            (es.foldl (fun s x => s.lateFault (homeAcc b x w) 0x12) s).entriesDone a.bid (es.map (fun x => x.eid)))
       | _ => s.failLate a 0x12)
  | .line cmd _ _ =>
    (match s.xq.find? (fun c => c.id == cmd) with
     | some c => s.failLine c 0x12
     | none => { s with ccols := s.ccols.map fun c => if c.id == cmd then { c with ended := some 0x12#8 } else c })
  | .fetch bid tid =>
    (match s.thread? bid tid with
     | none => s
     | some t =>
       let f : AsyncFault :=
         { code := 0x12#8, addr := if t.slot == 0 then t.pc + 8 else t.pc, last := false, site := { spo := 0xFFFFF#20, k := 0 } }
       s.setThread bid tid { t with fault := match t.fault with | some g => some g | none => some f })
  | .disp r va => s.dispFail o.vf r va

/-- FQRSP_RETRY (R247): a VF.FQRSP write with RESULT 1. -/
def execFqrspRetry (vf : Nat) (seq : Word) (s : State) : Out :=
  .next (if s.ignores vf seq then s else (s.attached vf seq).foldl State.retryEntry (s.answered vf seq))

/-- FQRSP_FAIL (R247): a VF.FQRSP write with RESULT 2. -/
def execFqrspFail (vf : Nat) (seq : Word) (s : State) : Out :=
  .next (if s.ignores vf seq then s else (s.attached vf seq).foldl State.failEntry (s.answered vf seq))

/-- What keeps an answered entry from its replay: an LNCH whose thread waits for a launch counter (R34, R38). -/
def State.replayWaits (s : State) (o : OpEntry) (a : Acc) : Option DRead :=
  match a.kind with
  | .lnch _ =>
    let r : DRead := .lnch a.bid a.tid a.addr (some o.id)
    if s.lnchNext r then none else some r
  | _ => none

/-- Whether an answered entry's turn to replay has come: entries of one line keep their order (R14, R288, R387), and a store's place
stands in the share (R248, R287). -/
def State.replayReady (s : State) (b : Block) (a : Acc) : Bool :=
  match a.kind with
  | .home e _ => !s.lineWaits b.bid e
  | _ =>
    b.resident && (match a.eid with
      | some x => b.share.any (fun e => e.eid == x)
      | none => true)

/-- OPERAND_REPLAY (R242, R247, R256): an answered entry, whose log ECC protects (R339), is translated again and performed, on the core its
block stands on. -/
def execOperandReplay (op : Nat) (s : State) : Out :=
  .next (
    match s.oplog.find? (fun o => o.id == op && o.replay) with
    | none => s
    | some o =>
      match o.acc with
      | none => (match o.waiter with | .disp r _ => (s.dropWaiter op).dispRetry r | _ => s)
      | some a =>
        let here : Bool := match s.block? a.bid with
          | some b => s.replayReady b a
          | none => false
        if !here then s
        else
          match s.replayWaits o a with
          | some r =>
            (s.modThread a.bid a.tid fun t => if t.park == .running then { t with park := .lnch } else t).lnchWaits o.vf r
          | none =>
            let s := s.dropWaiter op
            (if o.bad then s.consumes a.bid 0x91 (coreIsland o.core) else State.eccReads a.bid o.core 1 s).again a)

/-! ### Invalidation (R238, R241, R256) -/

/-- The bytes of VA an invalidation covers: the page of every size that a cached translation gives the address. -/
def Vf.covers (v : Vf) (i : Option Addr) (va : Nat) : Bool :=
  match i with
  | none => true
  | some a => va / 4096 == a.toNat / 4096 || v.tlb.any (fun t => decide (t.va ≤ a.toNat) && decide (a.toNat < t.va + t.size)
      && decide (t.va ≤ va) && decide (va < t.va + t.size))

/-- TLBINV_VA (R238): a VF.TLBINV write with OP 1. -/
def execTlbinvVa (vf : Nat) (va : Addr) (s : State) : Out :=
  .next (s.modVf vf fun v => { v with busy := true, inval := v.inval ++ [some va] })

/-- TLBINV_ALL (R238): a VF.TLBINV write with OP 2. -/
def execTlbinvAll (vf : Nat) (s : State) : Out :=
  .next (s.modVf vf fun v => { v with busy := true, inval := v.inval ++ [none] })

/-- Whether an access of a function that uses a translation reaches bytes that an invalidation covers. -/
def Vf.uses (v : Vf) (i : Option Addr) (a : Acc) : Bool := a.space == 0 && v.covers i a.a

/-- Whether an access in flight, or an entry of a store buffer, uses a translation that an invalidation covers (R241): an entry, an
access that waits for its commit, one that is performed and not completed, one or an engine's line that another package has not
answered. -/
def State.inFlight (s : State) (vf : Nat) (i : Option Addr) : Bool :=
  let v := s.vf vf
  s.blocks.any (fun b => b.vf == vf
      && ((b.share ++ b.handed).any (fun e => e.filled && v.covers i e.va)
        || b.commits.any (fun c => match c.cont with
          | .access a => a.pa.isSome && v.uses i a
          | .store a => a.pa.isSome && v.uses i a
          | _ => false)))
    || s.pend.any (fun p => (match s.block? p.bid, p.acc with
        | some b, some a => b.vf == vf && v.uses i a
        | _, _ => false))
    || s.oplog.any (fun o => o.vf == vf && s.awaitsResponse o.id && (match o.acc with
        | some a => v.covers i a.a
        | none => true))
    || s.awaits.any (fun w => match w.what with
        | .line cmd _ _ => s.xq.any (fun c => c.id == cmd && (s.block? c.bid).any (fun b => b.vf == vf))
            || s.ccols.any (fun c => c.id == cmd && (s.block? c.bid).any (fun b => b.vf == vf))
        | _ => false)

/-- TLBINV_DONE (R241): the invalidations of a function finish once nothing uses what they cover, and BUSY clears. -/
def execTlbinvDone (vf : Nat) (s : State) : Out :=
  .next (
    let v := s.vf vf
    if !v.busy || v.inval.any (s.inFlight vf) then s
    else
      let kept := v.tlb.filter fun t => v.inval.all fun i => match i with
        | none => false
        | some a => !(decide (t.va ≤ a.toNat) && decide (a.toNat < t.va + t.size))
      s.setVf vf { v with busy := false, inval := [], tlb := kept })

/-! ### Commits (R288, R329, R383, R392) -/

/-- Whether an entry of a block's commit in progress can be performed next, with those that merge into it: entries of one line keep their
order, and in a paired block the leading copy's whole set has matched. -/
def State.mayPerform (s : State) (b : Block) (e : Entry) (set : List Nat) : Bool :=
  e.filled && set.contains e.eid && !s.waitsHome b.bid e.eid && !s.lineWaits b.bid e
    && !((b.share.takeWhile (fun x => x.eid != e.eid)).any (fun x => set.contains x.eid && x.pa / 128 == e.pa / 128))
    && (b.partner.isNone || (!b.trailing && b.share.all (fun x => x.matched || !set.contains x.eid)))

/-- COMMIT_PERFORMED (R288, R294): an entry of a block's commit is performed at its home, as one act with the stores of its line that
merge into it; with the last one the commit completes. -/
def execCommitPerformed (bid entry : Nat) (s : State) : Out :=
  .next (
    match s.block? bid with
    | none => s
    | some b =>
      match b.commits with
      | { scope := sc, set := some set, .. } :: _ =>
        (match b.share.find? (fun e => e.eid == entry) with
         | some e => if s.mayPerform b e set then s.performOne b (b.lineOf e) (sc == .sys) else s
         | none => s)
      | _ => s)

end Sys2Proof.Machine
end

