-- ==== Sys2Proof/Machine/Errors.lean ====
section
/-! DEFINITION. Errors, rollback, fencing, pre-emption and the hang watchdog (R60, R64, R198, R216, R218, R258, R279, R280, R295,
R331, R335, R339-R344, R349-R352, R355, R381, R385). -/

namespace Sys2Proof.Machine

/-! ### Restoring an image (R331, R341, R350) -/

/-- A thread as its image has it; one the debug agent halts stays halted (R355).
[log 20: DEDUCED, unsafe] -/
def Thread.restored (now img : Thread) : Thread :=
  { img with
    halted := now.halted, haltReq := now.haltReq, skid := now.skid, inPlace := false, leaving := false, early := [], seen := [], last := 0,
    waitCnt := 0
    park := match img.park with | .pairPartner => .running | p => p }

/-- A gang's masks and pending arrivals with the image restored (R341): a thread parked at RJW counts as arrived; arrivals made
before the image stay, unless they completed with arrivals made before it as well.
[log 37: DEDUCED, unsafe] -/
def Block.gangRestored (img : Image) (ts : List Thread) (k : Nat) : Gang :=
  let g := img.gangs.getD k Gang.reset
  (List.range 32).foldl (fun g l =>
    match ts[32 * k + l]? with
    | some t =>
      (match t.park with
       | .rjw id _ _ => { g with arrival := g.arrival.modify id (· ||| laneBit l) }
       | _ => g)
    | none => g) g

/-- A block with its image restored: uncommitted entries, commits and operations issued after the image are gone. -/
def Block.rewound (b : Block) (img : Image) (lvl : Nat) : Block :=
  let ts := img.threads.mapIdx fun i t => Thread.restored (b.threads.getD i t) t
  let cs := b.commits.filter (fun c => c.set.isNone && decide (c.cid < img.mark))
  { b with
    threads := ts
    gangs := (List.range b.gangs.length).map (Block.gangRestored img ts)
    dither := img.dither
    volt := if img.useVolt then img.volt else b.volt
    level := if img.useVolt then lvl else b.level
    rising := if img.useVolt then none else b.rising.map (fun r => (r.1, r.2.filter (fun w => decide (w.1 < img.mark))))
    share := b.share.filter (fun e => decide (e.wid < img.mark))
    commits := cs
    exits := (cs.filter (fun c => match c.cont with | .exit _ => true | _ => false)).length
    fwts := b.fwts.filter (fun w => decide (w.oid < img.mark))
    regStore := false, regAvset := false, regSysw := false, regCmd := false
    errs := [] }

/-- Whether an entry waits in the operand log attached to a fault record (R242), and not for its place, its page or a response. -/
def State.logged (s : State) (o : OpEntry) : Bool :=
  (match o.waiter with | .access _ => true | _ => false) && !s.awaitsResponse o.id

/-- An image of a block is restored: its entries of the operand log and what was issued since are dropped (R256, R340, R341), and its engine
commands issued since that have not started end cancelled (R42).
[log 59: DEDUCED, unsafe] -/
def State.rewind (s : State) (b : Block) (img : Image) : State :=
  let s := s.cancelWaiting b.bid img.mark
  let b := (s.block? b.bid).getD b
  let s := s.setBlock (b.rewound img (levelOf s.avcal img.volt))
  let late (o : OpEntry) : Bool :=
    o.ofBlock b.bid && (s.logged o || (match o.acc with | some a => decide (img.mark ≤ a.wid) | none => true))
  let s := { s with
    pend := s.pend.filter (fun p => p.bid != b.bid || decide (p.id < img.mark))
    oplog := s.oplog.filter (fun o => !late o)
    issue := s.issue.filter (fun p => p.1 != b.bid) }
  s.modCore b.core fun k => { k with
    quarters := k.quarters.map fun q => (q.1, { q.2 with queue := q.2.queue.filter (fun e => e.1 != b.bid) }) }

/-- A block leaves its core and waits with a new place in the order of stopping; the core's cycle count goes with it (R120). -/
def State.vacate (s : State) (bid core : Nat) (phase : Nat → Phase) : State :=
  let p := s.newId
  (p.2.modBlock bid fun b => { b with phase := phase p.1, slots := [], clk := s.clkOf core }).lowerRail core

/-! ### Fencing (R344) -/

/-- The commit of a save (R295). In a paired block it goes before the commits that wait for signatures, which the save stores (R335).
[log 59: DEDUCED, unsafe] -/
def State.commitSave (s : State) (b : Block) : State :=
  if b.partner.isNone || !b.committing.isEmpty then s.commit b.bid .sys false .save
  else
    let p := s.newId
    let c : Commit := { cid := p.1, scope := .sys, explicit := false, set := none, cont := .save }
    State.advance b.bid commitFuel (p.2.modBlock b.bid fun b => { b with commits := c :: b.commits })

/-- A block begins to be saved (R349, R350), with its copy (R335): it issues no more, commits at system scope, and its rotations that
have not run end (R279). -/
def State.beginSave (s : State) (bid : Nat) : State :=
  let one (s : State) (bid : Nat) : State :=
    match s.block? bid with
    | none => s
    | some b =>
      if b.phase != .resident || b.killed then s
      else ((s.setBlock { b with phase := .saving 0 }).cancelRounds bid 0).commitSave b
  match s.block? bid with
  | none => s
  | some b =>
    let s := one s bid
    match b.partner with
    | some p => one s p
    | none => s

/-- Blocks that stand on a core. -/
def State.onCore (s : State) (core : Nat) : List Nat := (s.holders core).map (fun b => b.bid)

/-- A core's blocks are pre-empted to resume elsewhere. -/
def State.emptyCore (s : State) (core : Nat) : State := (s.onCore core).foldl State.beginSave s

/-- Every launch with a block resident in a partition is killed. -/
def State.killPartition (s : State) (part : Nat) : State :=
  let ls := distinct ((s.blocks.filter (fun b => b.resident && s.partOf (dieOf b.core) == part)).map (fun b => b.launch))
  ls.foldl State.killWhole s

/-- An island is fenced (R344); the event log says so (R419). Islands of the I/O die have no effect of their own here. -/
def State.fence (s : State) (isl : Nat) : State :=
  if s.islFence.contains isl then s
  else
    let d := isl / 124
    let i := isl % 124
    let part := s.partOf d
    let s := ({ s with islFence := isl :: s.islFence } : State).event (Config.eventCode 1).toNat isl part
    if 992 ≤ isl then s
    else if i < 96 then
      let core := 48 * d + i % 48
      (s.modCore core fun k => { k with fenced := true }).emptyCore core
    else if i < 108 then
      let cl := 12 * d + (i - 96)
      let s := s.modCluster cl fun k => { k with fenced := true }
      let s := ((s.xqOf cl).filter (fun c => c.ended.isNone)).foldl (fun s c => s.failLine c 0x12) s
      (List.range 4).foldl (fun s k => s.emptyCore (4 * cl + k)) s
    else
      let s := (List.range 8).foldl (fun s e => if s.partOf e == part then s.modDie e (fun x => { x with fenced := true }) else s) s
      s.killPartition part

/-- Muslin counts an error of an island and fences it at its threshold, which its firmware may have set (R344).
[log 62: DEDUCED, unsafe] -/
def State.islandError (s : State) (isl : Nat) : State :=
  let old := s.islErr.filter (fun e => decide (s.refClk ≤ e.2 + s.fenceIn))
  let s := { s with islErr := (isl, s.refClk) :: old }
  if decide (s.fenceAt ≤ (s.islErr.filter (fun e => e.1 == isl)).length) then s.fence isl else s

/-! ### Consumed errors (R331, R335, R340, R342, R355) -/

/-- Whether a block is restartable (R289, R330).
[log 29: DEDUCED, unsafe] -/
def State.restartable (s : State) (b : Block) : Bool :=
  match b.partner with
  | none => b.byCommit && !b.forced
  | some p =>
    !b.forced && !b.blocked && (match s.block? p with | some x => !x.forced && !x.blocked | none => true)

/-- The log records of a block's errors, each with an outcome, and what Muslin counts (R340, R344, R348).
[log 62: DEDUCED, unsafe] -/
def State.logErrors (s : State) (b : Block) (outcome : Nat) : State :=
  b.errs.foldl (fun s e => s.logBlock b e.1.toNat outcome 0xFFFFF#32 0 e.2 (BitVec.ofNat 64 b.lin)) s
def State.countErrors (s : State) (errs : List (Byte × Nat)) : State :=
  errs.foldl (fun s e => if e.1 == 0x90#8 then s else s.islandError e.2) s

/-- An unpaired block that consumed errors: rolled back and relaunched, or its launch killed (R340-R342). As it leaves its core, the rounds of
its rotations that have not run end (R279). -/
def State.rollback (s : State) (b : Block) : State :=
  if s.restartable b then
    let s := ((s.logErrors b 1).cancelRounds b.bid 0).rewind b b.image
    let s := s.modBlock b.bid fun x => { x with lqWritten := false, lqSaved := none, rowsSaved := [] }
    (s.freeRows b.core b.bid).vacate b.bid b.core .relaunch
  else (s.logErrors b 4).killWhole b.launch

/-- One copy of a paired block goes back to its restart point on its core (R331). -/
def State.rewindCopy (s : State) (b : Block) : State :=
  let s := s.rewind b b.ckpt
  let s := s.modBlock b.bid fun x => { x with
    phase := match x.phase with | .saving _ => .resident | p => p
    image := { x.ckpt with useVolt := false }
    sigs := [], offers := [], ncommit := [], retries := x.retries + 1, regCyc := s.clkOf x.core }
  let s := if b.ckpt.mark ≤ b.bid + 1 then s.freeRows b.core b.bid else s
  s.lowerRail b.core

/-- A paired block that met a mismatch or consumed an error (R331, R335). -/
def State.rollbackPair (s : State) (lead trail : Block) : State :=
  let retry := match s.launch? lead.launch with | some l => l.retry | none => 0
  let ok := s.restartable lead && decide (lead.retries < retry)
  let s := (s.logErrors lead (if ok then 1 else 4)).logErrors trail (if ok then 1 else 4)
  if ok then (s.rewindCopy lead).rewindCopy trail else s.killWhole lead.launch

/-- Whether a block may be rolled back now: no commit of it is in progress (R355), and the matrix engine has none of its commands but those
that the rollback cancels (R42, R216).
[log 59: DEDUCED, unsafe] -/
def State.still (s : State) (b : Block) : Bool :=
  b.committing.isEmpty && !(s.core b.core).mq.any (fun m => m.bid == b.bid && (m.started.isSome || decide (m.id < b.regionMark)))

/-- Errors of a block are handled once no commit of it is in progress, those that come on one cycle together (R355). -/
def State.settleErrors (s : State) (bid : Nat) : State :=
  match s.block? bid with
  | none => s
  | some b =>
    let more := s.agenda.any fun i => match i with
      | .ueConsumed x _ _ => x == bid || some x == b.partner
      | _ => false
    if more then s else
    match b.partner with
    | none =>
      if b.errs.isEmpty || !s.still b || b.killed then s else (s.rollback b).countErrors b.errs
    | some p =>
      match s.block? p with
      | none => s
      | some x =>
        if (b.errs.isEmpty && x.errs.isEmpty) || !s.still b || !s.still x || b.killed then s
        else
          let lead := if b.trailing then x else b
          let trail := if b.trailing then b else x
          (s.rollbackPair lead trail).countErrors (b.errs ++ x.errs)

/-- UE_CONSUMED (R331, R338, R340, R355): a block consumes an error. Errors of one block that come together give one rollback. -/
def execUeConsumed (bid : Nat) (code : Byte) (island : Nat) (s : State) : Out :=
  .next (
    match s.block? bid with
    | none => s
    | some b =>
      if b.killed || !b.resident then s
      else
        (s.modBlock bid fun b => { b with errs := b.errs ++ [(code, island)] }).settleErrors bid)

/-! ### Scratchpad errors (R258, R343) -/

/-- A block that stopped runs again from its start under a new number; its old self is counted no more.
[log 84: DEDUCED, unsafe] -/
def State.rerun (s : State) (b : Block) : Nat × State :=
  let id := s.newId
  let ts := (List.range b.shape.nthr).map (b.shape.thread b.lin)
  let n := Block.placed id.1 b.vf b.launch b.lin b.shape b.core b.ridx [] ts
  let n := { n with since := s.refClk, level := levelOf s.avcal 750, phase := .relaunch id.1, trailing := b.trailing }
  let n := { n with image := n.snapshot id.2.ids false, ckpt := n.snapshot id.2.ids true }
  let s := id.2.modBlock b.bid fun x => { x with phase := .gone, partner := none }
  (id.1, { s with blocks := s.blocks ++ [n] }.lowerRail b.core)

/-- SCRATCH_UE (R343): the block that owns the granule is killed, with its copy, and relaunched from its start when its launch says
that it may be. -/
def execScratchUe (bid : Nat) (island : Nat) (s : State) : Out :=
  .next (
    match s.block? bid with
    | none => s
    | some b =>
      if b.killed || !b.resident then s
      else
        let idem := b.shape.idem
        let s := s.logBlock b 0x94 (if idem then 3 else 2) 0xFFFFF#32 0 island (BitVec.ofNat 64 b.lin)
        let s :=
          if !idem then s.killBlock bid
          else
            let s := s.stopOne bid
            match b.partner.bind s.block? with
            | none => (s.rerun b).2
            | some x =>
              let p := (s.stopOne x.bid).rerun b
              let q := p.2.rerun x
              (q.2.modBlock p.1 (fun y => { y with partner := some q.1 })).modBlock q.1 (fun y => { y with partner := some p.1 })
        s.islandError island)

/-! ### Save and flush (R60, R64, R198, R218, R280, R295, R349, R350) -/

/-- What a pre-emption may do to a block. -/
inductive Stop where
  | drain
  | flush
  | save
  deriving DecidableEq, Repr

/-- Whether a block can be flushed (R349). The two copies of a paired block are saved (R335).
[log 52: DEDUCED, unsafe] [log 61: DEDUCED, unsafe] -/
def State.flushable (s : State) (b : Block) : Bool :=
  b.partner.isNone && s.restartable b && !b.regStore && !b.regAvset && !b.regSysw && !b.regCmd

/-- Rows of the accumulator store a block holds. -/
def State.heldRows (s : State) (b : Block) : List (Nat × List Word) :=
  ((s.core b.core).rows.filter (fun r => r.2.1 == b.bid)).map (fun r => (r.1, r.2.2))

/-- The time a save takes, as R349 estimates it. -/
def State.saveTime (s : State) (b : Block) : Nat :=
  let c := 4 * b.shape.nthr * b.shape.nregs + 192 * b.shape.nthr + b.abytes + 128 * b.used + 512 * (s.heldRows b).length
  (c + 255) / 256 + 2048

/-- How a block is stopped for a candidate launch of higher priority (R349).
[log 61: DEDUCED, unsafe] [log 77: DEDUCED, unsafe] -/
def State.priorityStop (s : State) (b : Block) (latb : Nat) : Stop :=
  let within (n : Nat) : Bool := latb == 0 || decide (n ≤ latb * 2700)
  let drains : Bool := match s.launch? b.launch with
    | none => latb == 0
    | some l => if l.runCnt == 0 then latb == 0 else within (l.runSum / l.runCnt - (s.refClk - b.since))
  let flush := s.flushable b
  if drains then .drain
  else if flush && decide (s.clkOf b.core - b.regCyc ≤ s.saveTime b) then .flush
  else if within (s.saveTime b) then .save
  else if flush then .flush else .save

/-- A block's context is stored and it leaves its core (R198, R218, R350). -/
def State.store_ (s : State) (b : Block) : State :=
  let k := s.core b.core
  let s := s.modBlock b.bid fun x => { x with
    rowsSaved := s.heldRows b
    lqSaved := if x.lqWritten then some ((List.range 128).map (fun i => k.lqt.get 0 i)) else none }
  (s.freeRows b.core b.bid).vacate b.bid b.core .stopped

/-- A block is flushed (R350). -/
def State.flushNow (s : State) (b : Block) : State :=
  let s := s.rewind b b.image
  s.store_ ((s.block? b.bid).getD b)

/-- Whether a copy into a scratchpad that a block has had accepted is under way (R280). -/
def State.fillsScratch (s : State) (b : Block) : Bool := s.xq.any (fun c => c.bid == b.bid && c.accepted && !c.globalDst)

/-- Whether a block can be flushed at once: a commit in progress finishes first (R44), and so do the matrix commands and the copies into
scratchpads of earlier regions, whose rows and bytes wait with the image (R218, R280, R350). -/
def State.canFlush (s : State) (b : Block) : Bool := s.still b && b.errs.isEmpty && !s.fillsScratch b

/-- A flush begins: what has not started since the region start ends, the rest finishes first. -/
def State.beginFlush (s : State) (b : Block) : State :=
  let s := (s.cancelRounds b.bid 0).cancelWaiting b.bid b.image.mark
  let b := (s.block? b.bid).getD b
  if s.canFlush b then s.flushNow b else s.setBlock { b with phase := .saving 1 }

/-- A block is stopped as chosen. -/
def State.stopBlock (s : State) (b : Block) (k : Stop) : State :=
  match k with
  | .drain => s
  | .flush => s.beginFlush b
  | .save => s.beginSave b.bid

/-- Flushed when it can be, else saved. -/
def State.sliceStop (s : State) (b : Block) : State := s.stopBlock b (if s.flushable b then .flush else .save)

/-- Whether a pre-emption may take a block now (R355). -/
def Block.stoppable (b : Block) : Bool := b.phase == .resident && !b.killed && b.errs.isEmpty

/-- Whether a block that is being saved has committed (R295); a paired one keeps the commits that wait for signatures (R335). -/
def Block.committed (b : Block) : Bool :=
  b.commits.isEmpty
    || (b.partner.isSome && b.committing.isEmpty && b.commits.all (fun c => match c.cont with | .save => false | _ => true))

/-- Whether a block's save can finish (R64, R218, R280, R295): its commits are performed, its collectives that can meet have met, its
matrix commands and its copies into scratchpads are complete. -/
def State.canSave (s : State) (b : Block) : Bool :=
  b.phase == .saving 0 && b.committed && b.errs.isEmpty && !s.matrixBusy b
    && s.xq.all (fun c => c.bid != b.bid || (c.accepted && c.globalDst))
    && (List.range b.gangs.length).all (fun k => match b.gangs[k]? with
        | some g => g.arrivals.all (fun x => x.bad || !b.canMeet k g x)
        | none => true)

/-- BLOCK_SAVE (R218, R279, R295, R335, R350): a block that is being saved or flushed leaves its core. -/
def execBlockSave (bid : Nat) (s : State) : Out :=
  .next (
    match s.block? bid with
    | none => s
    | some b =>
      match b.phase with
      | .saving 1 =>
        let s := s.cancelWaiting bid b.image.mark
        let b := (s.block? bid).getD b
        if s.canFlush b then s.flushNow b else s
      | .saving _ =>
        let s := s.cancelRounds bid 0
        (match s.block? bid with
         | none => s
         | some b =>
           match b.partner with
           | none => if s.canSave b then s.store_ b else s
           | some p =>
             match s.block? p with
             | none => s
             | some x => if s.canSave b && s.canSave x then (s.store_ b).store_ x else s)
      | _ => s)

/-! ### Who is stopped (R349, R351, R381, R385) -/

/-- A machine without some blocks, to ask what would fit. -/
def State.without (s : State) (gone : Block → Bool) : State := { s with blocks := s.blocks.filter (fun b => !gone b) }

/-- Whether a candidate of a function fits some core of a die that it may use. -/
def State.fitsDie (s : State) (vf die : Nat) (c : Cand) : Bool := (List.range 48).any fun k => s.placeable vf c (48 * die + k)

/-- Whether a block has been chosen as a victim for a launch on a die and frees its room: it is being saved or flushed, or runs to its end
for it (R381). -/
def Block.yields (b : Block) (die launch : Nat) : Bool :=
  dieOf b.core == die && (b.draining == some launch || (match b.phase with | .saving _ => true | _ => false))

/-- Blocks of a die that a candidate of a launch, of priority p, may still push out, the next victim first (R381). -/
def State.victims (s : State) (die p launch : Nat) : List Block :=
  let prio (b : Block) : Nat := s.prioOn b.vf die
  sortBy (fun x y => decide (prio x < prio y) || (prio x == prio y && decide (y.born ≤ x.born)))
    (s.blocks.filter (fun b => b.stoppable && dieOf b.core == die && decide (prio b < p) && !b.yields die launch))

/-- Whether a block is the next victim of a launch's candidate, which the victims chosen so far do not let fit (R381). -/
def State.mustYield (s : State) (b : Block) (l : Launch) : Bool :=
  let die := dieOf b.core
  let c : Option Cand := (s.cands l.vf).find? (fun c => match s.candLaunch c with | some x => x.obj == l.obj | none => false)
  match c, (s.victims die (s.prioOn l.vf die) l.obj).head? with
  | some c, some v => v.bid == b.bid && !(s.without (fun x => x.yields die l.obj)).fitsDie l.vf die c
  | _, _ => false

/-- A victim of a launch's candidate is stopped, or runs to its end for it (R349, R381). -/
def State.yield (s : State) (b : Block) (l : Launch) : State :=
  match s.priorityStop b l.shape.latb with
  | .drain => s.modBlock b.bid fun b => { b with draining := some l.obj }
  | k => s.stopBlock b k

/-- Whether a function's slice on a core ends (R381): another function of at least its priority has a candidate that fits no other
core. That SLICE µs have passed is what the event tells. -/
def State.sliceOver (s : State) (vf core : Nat) : Bool :=
  let die := dieOf core
  s.sliceOn vf die != 0 && (List.range functions).any fun g =>
    g != vf && decide (s.prioOn vf die ≤ s.prioOn g die)
      && (s.cands g).any fun c => !((List.range 384).any fun k => k != core && s.placeable g c k)

/-- A block's slice ends: the priority row when a candidate of higher priority pushes it out on the same cycle (R381, R392). -/
def State.sliceEnd (s : State) (b : Block) : State :=
  match s.launches.find? (fun l => s.mustYield b l) with
  | some l => s.yield b l
  | none => s.sliceStop b

/-- Whether the owner of a cluster reclaims it (R385): it has a candidate that would fit there without the borrowers' blocks. -/
def State.reclaims (s : State) (cl : Nat) : Bool :=
  (s.cluster cl).owned && (s.without (fun b => clusterOf b.core == cl && s.borrows b)).ownerWants cl

/-- PREEMPT (R349, R381, R385, R394): a request reaches a block, which is drained, flushed or saved. -/
def execPreempt (bid : Nat) (why : PreReq) (s : State) : Out :=
  .next (
    match s.block? bid with
    | none => s
    | some b =>
      if !b.stoppable then s
      else
        match why with
        | .priority launch =>
          (match s.launch? launch with
           | some l => if s.mustYield b l then s.yield b l else s
           | none => s)
        | .slice => if s.sliceOver b.vf b.core then s.sliceEnd b else s
        | .reclaim =>
          if s.borrows b && s.reclaims (clusterOf b.core) then (s.sliceStop b).modBlock bid (fun x => { x with noLoan := true }) else s
        | .quiesce => if (s.vf b.vf).migState == 1 || !s.coreUp b.core then s.beginSave bid else s)

/-- SLICE_END (R381): the blocks of a function on a core are flushed or saved.
[log 64: DEDUCED, unsafe] -/
def execSliceEnd (vf core : Nat) (s : State) : Out :=
  .next (
    if !s.sliceOver vf core then s
    else
      ((s.holders core).filter (fun b => b.vf == vf && b.stoppable)).foldl (fun s b =>
        match s.block? b.bid with
        | some x => if x.stoppable then s.sliceEnd x else s
        | none => s) s)

/-- CLUSTER_RECLAIM (R351, R385): the borrowers' blocks on a cluster are flushed or saved. -/
def execClusterReclaim (cluster : Nat) (s : State) : Out :=
  .next (
    if !s.reclaims cluster then s
    else
      ((s.blocks.filter (fun b => clusterOf b.core == cluster && s.borrows b && b.stoppable))).foldl (fun s b =>
        match s.block? b.bid with
        | some x =>
          if x.stoppable then (s.sliceStop x).modBlock x.bid (fun y => { y with noLoan := true }) else s
        | none => s) s)

/-! ### The hang watchdog (R352) -/

/-- WATCHDOG_EXPIRE (R352): a launch whose count has reached its limit is killed. -/
def execWatchdogExpire (launch : Nat) (s : State) : Out :=
  .next (
    match s.launch? launch with
    | none => s
    | some l =>
      if l.wdog == 0 || l.count < 2 ^ l.wdog then s
      else
        let s := s.logFault l.vf 0x95 4 0xFFFFF#32 0 (handleOf .launch l.ctr) (s.tagOf l.obj) 0 0
        ((s.event 0x95 0 (s.vfPart l.vf)).modLaunch launch fun l => { l with count := 0 }).killWhole launch)

end Sys2Proof.Machine
end

