-- ==== Sys2Proof/Machine/Issue.lean ====
section
/-! DEFINITION. What a quarter does by itself: ready threads, the lead and the packet, the replay queue, code fetch, the completion of
long-latency operations, and the timeouts of parked and demoted threads (R45-R56, R60, R65, R75, R328, R336-R338, R353). -/

namespace Sys2Proof.Machine

/-! ### The next word of a thread (R45, R70, R75) -/

/-- The address of the instruction a thread issues next. -/
def Thread.nextAddr (t : Thread) : Addr := if t.slot == 0 then t.pc + 8 else t.pc

/-- The word a thread issues next; RPT has no packet of its own, so the slot after it decides (R91). -/
def State.nextWord (s : State) (b : Block) (t : Thread) : Option DWord :=
  match s.codeWord b t.nextAddr with
  | none => none
  | some w => if t.rpt.isNone && w.extractLsb' 56 8 == 0x01#8 then s.codeWord b (t.nextAddr + 8) else some w

/-- The addresses of the words of the clause a thread stands in: its header alone while that is not in the cache. -/
def State.clauseOf (s : State) (b : Block) (t : Thread) : List Addr :=
  let base := t.pc - BitVec.ofNat 57 (8 * t.slot)
  match s.codeWord b base with
  | none => [base]
  | some w => if (Header.unpack w).ok then clauseWords base (Header.unpack w).cnt.toNat else [base]

/-- Whether the clause stands in the instruction cache (R45). -/
def State.clauseIn (s : State) (b : Block) (t : Thread) : Bool := (s.clauseOf b t).all (fun a => (s.codeLine b a).isSome)

/-- The header a thread's next slot stands under: a thread that resumed in the middle of a clause reads it again (R71). -/
def State.nextHeader (s : State) (b : Block) (t : Thread) : Header :=
  if t.slot == 0 || t.rehdr then Header.unpack ((s.codeWord b (t.pc - BitVec.ofNat 57 (8 * t.slot))).getD 0) else t.header

/-! ### Kinds of instructions, by opcode (R46, R88, R89, R242, R327, R336) -/

/-- Collectives. -/
def opCollective (op : Nat) : Bool := decide (0xB0 ≤ op) && decide (op ≤ 0xBE)

/-- Long-latency operations (R46, R151). -/
def opLong (op : Nat) : Bool :=
  opCollective op || [0xC0, 0xC1, 0xC3, 0xC5, 0xC8, 0xC9, 0xCA, 0xCB, 0xCC, 0xCD, 0xD0, 0xD1, 0xD2, 0xD3, 0xD4, 0xD7, 0xD8, 0xD9, 0xDA,
    0xDB, 0xDD, 0xE1, 0xE7, 0xE9, 0xF0, 0xF1].contains op

/-- Memory instructions, which a full operand log holds (R45). -/
def opMemory (op : Nat) : Bool := [0xC0, 0xC1, 0xC3, 0xC5, 0xC6, 0xD0, 0xD1, 0xD2, 0xD3, 0xE9].contains op

/-- Instructions the clones check (R336): precise ones of classes R and I but the collectives, memory instructions and engine
commands. -/
def opChecked (op : Nat) (ty : Bool) : Bool :=
  let arith := (decide (2 ≤ op) && decide (op ≤ 0x9B)) || [0xF0, 0xF1, 0xF2, 0xF3].contains op
  (arith && !ty) || (decide (0xC0 ≤ op) && decide (op ≤ 0xCD)) || (decide (0xD0 ≤ op) && decide (op ≤ 0xD4))
    || (decide (0xD8 ≤ op) && decide (op ≤ 0xDB)) || op == 0xDD

/-- The bytes a store, RED or LTAG accesses; 0 for another instruction. -/
def storeSize (f : Fields) : Nat :=
  match f.op.toNat with
  | 0xC1 => (match ldByte f.c with | some (t, n) => n.num * t.bytes | none => 0)
  | 0xC5 => 128
  | 0xD1 => (match Ty.ofCode (f.x.extractLsb' 4 5) with | some t => t.bytes | none => 0)
  | _ => 0

/-- Whether a guarded-on instruction of a thread would add a signature (R327): a store, RED or LTAG that reaches global or thread-local
memory, or a push that spills. -/
def State.signs (s : State) (b : Block) (tid : Nat) (t : Thread) (f : Fields) : Bool :=
  let f := match t.rpt with | some r => Fields.stepped f r | none => f
  let n := storeSize f
  let disp := if f.op == 0xD1#8 then 0 else f.disp
  let op := f.op.toNat
  t.guard f.ctl && ((n != 0 && (match s.locate b tid (t.buf (f.a.extractLsb' 0 4)) (offsetOf (t.val f.b) disp.toInt) n n with
      | .global _ => true
      | _ => false))
    || ([0xA2, 0xA3].contains op && decide (16 ≤ t.ret.length)) || (op == 0xA6 && decide (8 ≤ t.rej.length)))

/-! ### Ready threads (R45) -/

/-- Whether what follows a commit is a long-latency operation of a thread that counts on no flag. -/
def Cont.unflagged (k : Cont) (tid : Nat) : Bool :=
  match k with
  | .flag t f => t == tid && f.isNone
  | .access a => a.tid == tid && a.flag.isNone
  | .store a => a.tid == tid && a.flag.isNone
  | _ => false

/-- Long-latency operations of a thread outstanding (R45): those its flags count, and those that count on none. -/
def State.outstanding (s : State) (b : Block) (tid : Nat) (t : Thread) : Nat :=
  total t.flags
    + (b.commits.filter (fun c => c.cont.unflagged tid)).length
    + (match b.gangs[gangOf tid]? with
       | some g => (g.arrivals.filter (fun x => x.tid == tid && x.flag.isNone && !x.bad)).length
       | none => 0)
    + (match b.rising with
       | some r => (r.2.filter (fun w => w.1 == tid && w.2.2.isNone)).length
       | none => 0)
    + (s.pend.filter (fun p => p.bid == b.bid && p.tid == tid && p.flag.isNone)).length
    + (s.oplog.filter (fun o => match o.acc with | some a => a.bid == b.bid && a.tid == tid && a.flag.isNone | none => false)).length
    + (s.xq.filter (fun c => c.bid == b.bid && c.tid == tid && c.flag.isNone && !c.accepted)).length
    + ((s.core b.core).mq.filter (fun c => c.bid == b.bid && c.tid == tid && c.flag.isNone && !c.accepted)).length
    + (b.fwts.filter (fun w => w.tid == tid && w.flag.isNone)).length

/-- Collectives a thread issued that are incomplete (R45). -/
def Block.openCollectives (b : Block) (tid : Nat) : Nat :=
  match b.gangs[gangOf tid]? with
  | some g => (g.arrivals.filter (fun x => x.tid == tid && !x.bad)).length
  | none => 0

/-- Whether a core's operand log is full for R45: fewer than 128 of its 256 entries are free (R242). -/
def State.logFull (s : State) (core : Nat) : Bool :=
  decide (128 < (s.oplog.filter (fun o => o.core == core && o.acc.isSome)).length)

/-- Unmatched signatures of a copy (R328). -/
def State.unmatched (s : State) (b : Block) : Nat :=
  match s.block? b.lead with
  | some l => (l.sigs.filter (fun x => x.side == b.trailing)).length
  | none => 0

/-- SLACK of a block's launch (R333). -/
def State.slackOf (s : State) (b : Block) : Nat := match s.launch? b.launch with | some l => l.slack | none => 256

/-- Whether a debug step keeps a thread from issuing (R361). -/
def State.stepHolds (s : State) (b : Block) (tid : Nat) : Bool :=
  match (s.cluster (clusterOf b.core)).stepping with
  | some (x, g) => !(x == b.bid && g == gangOf tid)
  | none => false

/-- The dist entry of a slot: the minimum distance less one (R47, R72). -/
def distOf (h : Header) (slot : Nat) : Nat := h.dist.toNat / 2 ^ (3 * (slot - 1)) % 8

/-- Whether a thread stands at an RPT, whose packet is that of repetition 0 (R70). -/
def State.atRpt (s : State) (b : Block) (t : Thread) : Bool :=
  t.rpt.isNone && (match s.codeWord b t.nextAddr with | some w => w.extractLsb' 56 8 == 0x01#8 | none => false)

/-- Whether the minimum distance of a thread's next slot has passed (R47): for an RPT its own and that of the slot it repeats, which
applies again between repetitions (R92). -/
def State.distancePast (s : State) (b : Block) (t : Thread) : Bool :=
  let slot := if t.slot == 0 then 1 else t.slot
  let h := s.nextHeader b t
  let d := if s.atRpt b t && distOf h slot < distOf h (slot + 1) then distOf h (slot + 1) else distOf h slot
  t.last == 0 || decide (t.last + d + 1 ≤ s.clkOf b.core)

/-- Whether the flags a thread's next clause waits on are complete (R45). -/
def State.flagsDone (s : State) (b : Block) (t : Thread) : Bool :=
  t.slot != 0 || (List.range 12).all fun k => !(s.nextHeader b t).wait.getLsbD k || t.flags.getD k 0 == 0

/-- What its next instruction asks of a thread (R45, R328, R359). -/
def State.wordReady (s : State) (b : Block) (tid : Nat) (t : Thread) (w : DWord) : Bool :=
  let f := Fields.unpack w
  let op := f.op.toNat
  !(opMemory op && s.logFull b.core)
    && !(opLong op && decide (32 ≤ s.outstanding b tid t))
    && !(opCollective op && decide (4 ≤ b.openCollectives tid))
    && !(b.partner.isSome && s.signs b tid t f && decide (s.slackOf b ≤ s.unmatched b))
    && !(t.haltReq && !t.leaving && op == 0xA5 && t.mode != .trap)

/-- Whether a thread can issue (R45, R312, R346, R359, R361): a waiting asynchronous fault is delivered whatever its next clause
waits for. Only a save or a kill stops a thread in trap mode (R56). -/
def State.canIssue (s : State) (b : Block) (tid : Nat) (t : Thread) : Bool :=
  b.phase == .resident && !b.killed && b.errs.isEmpty && t.life == .live && t.park == .running
    && (t.mode == .trap || (!t.halted && !s.railHolds b && !s.stepHolds b tid))
    && (t.fault.isSome
        || (s.clauseIn b t && s.flagsDone b t && s.distancePast b t
            && (match s.nextWord b t with | some w => s.wordReady b tid t w | none => true)))

/-- A ready thread of a quarter. -/
structure Rdy where
  b   : Block
  tid : Nat
  t   : Thread

/-- Whether x is older than y (R49). -/
def Rdy.older (x y : Rdy) : Bool := decide (x.b.born < y.b.born) || (x.b.born == y.b.born && decide (x.tid ≤ y.tid))

/-- The ready threads of a quarter, oldest first (R49). -/
def State.readyOn (s : State) (core q : Nat) : List Rdy :=
  sortBy Rdy.older (((s.holders core).map fun b =>
    (List.range b.threads.length).filterMap fun i =>
      match b.thread? i with
      | some t => if quarterOf i == q && s.canIssue b i t then some { b := b, tid := i, t := t } else none
      | none => none).flatten)

/-! ### The lead (R50) -/

/-- The lead among the ready threads r of a quarter at cycle clk, and whether it is a forced demoted one. -/
def pickLead (r : List Rdy) (q : Quarter) (clk : Nat) : Option (Rdy × Bool) :=
  let lead := r.find? (fun x => q.lead == some (x.b.bid, x.tid))
  let keep (m : Mode) : Option Rdy :=
    match lead with
    | some x => if x.t.mode == m && q.tenure < 64 then some x else none
    | none => none
  match r.find? (fun x => x.t.mode == .trap) with
  | some x => some ((keep .trap).getD x, false)
  | none =>
    match r.find? (fun x => x.t.mode == .demoted && decide (x.t.last + 256 ≤ clk)) with
    | some x => some (x, true)
    | none =>
      match keep .normal with
      | some x => some (x, false)
      | none =>
        let normal := r.filter (fun x => x.t.mode == .normal)
        let starved := normal.filter (fun x => decide (1024 ≤ x.t.waitCnt))
        match sortBy (fun x y => decide (y.t.waitCnt ≤ x.t.waitCnt)) starved, normal, r with
        | x :: _, _, _ => some (x, false)
        | [], x :: _, _ => some (x, false)
        | [], [], x :: _ => some (x, false)
        | [], [], [] => none

/-! ### The packet (R51, R328, R336, R337, R353) -/

/-- Whether a thread may ride with the lead (R51). -/
def Rdy.joins (l x : Rdy) : Bool :=
  x.b.launch == l.b.launch && x.t.nextAddr == l.t.nextAddr && x.t.rpt.map (·.k) == l.t.rpt.map (·.k)
    && (x.t.mode == .trap) == (l.t.mode == .trap)

/-- The member on each lane but the lead's: a normal thread before a demoted one, then the oldest (R51). -/
def packetOf (l : Rdy) (r : List Rdy) : List Rdy :=
  (List.range 32).filterMap fun i =>
    if i == laneOf l.tid then some l
    else
      let c := r.filter (fun x => laneOf x.tid == i && l.joins x)
      match c.find? (fun x => x.t.mode != .demoted) with
      | some x => some x
      | none => c.head?

/-- Members that may not add their signature yet stay out, oldest first (R328); the lead itself may be one of them, and is the lead of
the cycle all the same.
[log 87: DEDUCED, unsafe] -/
def State.takeIn (s : State) (ms : List Rdy) : List Rdy :=
  let signs (x : Rdy) : Bool := x.b.partner.isSome && (match s.nextWord x.b x.t with
    | some w => s.signs x.b x.tid x.t (Fields.unpack w)
    | none => false)
  let ok (x : Rdy) : Bool :=
    !signs x || decide (s.unmatched x.b + (ms.filter (fun y => y.b.bid == x.b.bid && signs y && y.older x)).length ≤ s.slackOf x.b)
  ms.filter ok

/-- Whether a member is checked by a clone or through the replay queue (R336): its instruction is one of those, and its guard is
true. -/
def State.checkedMember (s : State) (x : Rdy) : Bool :=
  x.t.fault.isNone && (match s.nextWord x.b x.t with
    | some w =>
      let f := Fields.unpack w
      opChecked f.op.toNat f.ty && x.t.guard f.ctl
    | none => false)

/-- The clone comparisons of a packet in ascending lane order: candidate events of the injector (R336, R338, R353). -/
def State.cloneChecks (die : Nat) : List Rdy → State → State
  | [], s => s
  | x :: xs, s =>
    let p := s.candidate 0 die
    State.cloneChecks die xs (if p.1 then p.2.consumes x.b.bid 0x92 (coreIsland x.b.core) else p.2)

/-- General registers that the instruction of a word reads (R81-R87): the fields that name one, but for a destination. -/
def regReads (f : Fields) : Nat :=
  let op := f.op.toNat
  let use (l : List Nat) (r : BitVec 8) : Nat := if l.contains op && r != 0xFF#8 then 1 else 0
  match repeatable op with
  | some g =>
    let one (on : Bool) (r : BitVec 8) : Nat := if on && r != 0xFF#8 then 1 else 0
    use [0xC1, 0xC2, 0xD3, 0xD4, 0xCB, 0xCC] f.d + one g.2.1 f.a + one g.2.2.1 f.b + one (g.2.2.2 && !runMask f) f.c
  | none =>
    (if [0xC8, 0xC9, 0xCA].contains op then 2 else if [0xD8, 0xD9, 0xDA].contains op then 1 else 0)
      + use [0xA1, 0xA3, 0xE1, 0xE2, 0xE8, 0xE9, 0xEA, 0xEB, 0xEC] f.a + use [0xE0, 0xEB, 0xEC] f.b

/-- The register reads of a packet's lanes in ascending order, which ECC protects (R339, R353).
[log 31: DEDUCED, unsafe] -/
def State.regChecks (s : State) (ms : List Rdy) : State :=
  ms.foldl (fun s x =>
    match s.nextWord x.b x.t with
    | some w =>
      let f := Fields.unpack w
      if x.t.fault.isNone && x.t.guard f.ctl then State.eccReads x.b.bid x.b.core (regReads f) s else s
    | none => s) s

/-- Entries of a quarter's replay queue (R337). -/
def replayDepth : Nat := 64

/-- Whether a core's cycle can be a counted one (R65): the core is neither throttled, nor halted by its debug unit, nor in a save of
one of its blocks. -/
def State.coreCounts (s : State) (core : Nat) : Bool :=
  !(s.core core).throttled && !(s.cluster (clusterOf core)).stop
    && !(s.holders core).any (fun b => match b.phase with | .saving _ => true | _ => false)

/-- A cycle in which a thread that was ready did not issue (R50). -/
def State.waited (s : State) (r : List Rdy) (ms : List Rdy) : State :=
  r.foldl (fun s x =>
    if x.t.mode == .trap || ms.any (fun y => y.b.bid == x.b.bid && y.tid == x.tid) then s
    else s.modThread x.b.bid x.tid (fun t => { t with waitCnt := t.waitCnt + 1 })) s

/-- Whether the operand log holds a thread (R45, R242). -/
def State.logHolds (s : State) (b : Block) (t : Thread) : Bool :=
  match s.nextWord b t with
  | some w => opMemory (Fields.unpack w).op.toNat && s.logFull b.core
  | none => false

/-- The counter a quarter-cycle with no packet is charged to, by the first cause that applies: a thread of the quarter waits on a flag (2),
is parked or halted (3), or is held by the operand log (4) (R375, R377). -/
def State.stallCause (s : State) (core q : Nat) : Option Nat :=
  let ts := ((s.holders core).map fun b => ((List.range b.threads.length).filterMap fun i =>
    match b.thread? i with
    | some t => if quarterOf i == q && t.life == .live && !b.killed then some (b, t) else none
    | none => none)).flatten
  let stands (t : Thread) : Bool := t.park == .running && !t.halted
  if ts.any (fun p => stands p.2 && !s.flagsDone p.1 p.2) then some 2
  else if ts.any (fun p => !stands p.2) then some 3
  else if ts.any (fun p => s.logHolds p.1 p.2) then some 4
  else none

/-- A quarter-cycle with no packet is counted (R375). -/
def State.stalled (s : State) (core q : Nat) : State :=
  match s.stallCause core q with
  | some k => s.count (dieOf core) (cKey core k) 1
  | none => s

/-- PACKET_ISSUE (R45, R49-R52, R65, R328, R336, R337, R375): one cycle of a quarter.
[log 57: DEDUCED, unsafe] -/
def execPacketIssue (core quarter : Nat) (s : State) : Out :=
  .next (
    if !s.issue.isEmpty || 384 ≤ core || 4 ≤ quarter then s
    else
      let s := s.modCore core fun k => { k with clk := k.clk + 1 }
      let r := s.readyOn core quarter
      let q := (s.core core).quarters.get Quarter.reset quarter
      match pickLead r q (s.clkOf core) with
      | none =>
        let q : Quarter := { q with lead := none, tenure := 0, latchLead := none, latchAt := s.refClk }
        (s.modCore core fun k => { k with quarters := k.quarters.set quarter q }).stalled core quarter
      | some (l, forced) =>
        let ms := s.takeIn (packetOf l r)
        let lanes := ms.map (fun x => laneOf x.tid)
        let idle (x : Rdy) : Bool := !lanes.contains ((laneOf x.tid + 16) % 32)
        let chk := ms.filter s.checkedMember
        let queued := (chk.filter (fun x => !idle x)).map (fun x => (x.b.bid, x.tid))
        let name := (l.b.bid, l.tid)
        let ten := if q.lead == some name then q.tenure + 1 else 1
        let counted := l.t.mode != .trap && !forced && s.coreCounts core
        if replayDepth < q.queue.length + queued.length then
          let q : Quarter := { q with latchLead := some name, latchAt := s.refClk }
          let s := s.modCore core fun k => { k with quarters := k.quarters.set quarter q }
          (if counted then s.waited r [] else s).stalled core quarter
        else
          let s := if counted then s.waited r ms else s
          let q : Quarter := { lead := some name, tenure := ten, queue := q.queue ++ queued, latchLead := some name,
                               latchAt := s.refClk }
          let s := s.modCore core fun k => { k with quarters := k.quarters.set quarter q }
          let s := (State.cloneChecks (dieOf core) (chk.filter idle) s).regChecks ms
          let s := (s.count (dieOf core) (cKey core 0) 1).count (dieOf core) (cKey core 1) ms.length
          { s with issue := ms.map (fun x => (x.b.bid, x.tid)), packets := s.packets + 1, crew := ms.map (fun x => (x.b.bid, x.tid)), pktFaults := [],
                   memo := some { leaves := [], copies := [], seen := [] } })

/-- REPLAY_REEXECUTE (R337, R338): the oldest entry of a quarter's replay queue is compared; bad: the comparison fails. -/
def execReplayReexecute (core quarter : Nat) (bad : Bool) (s : State) : Out :=
  .next (
    let q := (s.core core).quarters.get Quarter.reset quarter
    match q.queue with
    | [] => s
    | (bid, _) :: rest =>
      let q : Quarter := { q with queue := rest }
      let s := s.modCore core fun k => { k with quarters := k.quarters.set quarter q }
      let s := s.count (dieOf core) (cKey core 5) 1
      let p := s.candidate 0 (dieOf core)
      if bad || p.1 then p.2.consumes bid 0x92 (coreIsland core) else p.2)

/-! ### Code fetch (R75, R244) -/

/-- n words of a line as a fetch gives them: each that of one of the line's versions, by a free choice (R75). -/
def mixWords : Nat → List (List Byte) → State → List Byte × State
  | 0, _, s => ([], s)
  | n + 1, vs, s =>
    let p := s.pick vs.length
    let r := mixWords n (vs.map (fun v => v.drop 8)) p.2
    ((vs.getD p.1 []).take 8 ++ r.1, r.2)

/-- Whether a line of an instruction cache is line l of a block's launch. -/
def Line.isCode (x : Line) (b : Block) (l : Nat) : Bool := x.vf == b.vf && x.key == b.launch && x.line == l

/-- A line of code put into a core's instruction cache; a copy that differs from it is remembered as an older version (R75). -/
def State.putCode (s : State) (b : Block) (line : Nat) (ty : TBit) (data : List Byte) : State :=
  let n : Line := { vf := b.vf, key := b.launch, line := line, ty := ty, data := data }
  s.modCore b.core fun k => { k with
    ic := n :: k.ic.filter (fun l => !l.isCode b line)
    icOld := k.ic.filter (fun l => l.isCode b line && l.data != data) ++ k.icOld }

/-- The versions of a line of code that a resident thread's fetch may be given word by word: what the home holds, data, and what the
core has held of it (R75).
[log 101: DEDUCED, unsafe] -/
def State.versions (s : State) (b : Block) (line : Nat) (data : List Byte) : List (List Byte) :=
  data :: (((s.core b.core).ic ++ (s.core b.core).icOld).filter (fun l => l.isCode b line)).map (fun l => l.data)

/-- Whether a thread waits for the reply to a fetch. -/
def State.waitsFetch (s : State) (bid tid : Nat) : Bool :=
  s.oplog.any (fun o => match o.waiter with | .fetch x y => x == bid && y == tid | _ => false)

/-- A fetch fails its translation: a fault record of kind 3, and the thread waits (R244). -/
def State.fetchFault (s : State) (b : Block) (tid : Nat) (va cause : Nat) : State :=
  let p := s.faultRecord b.vf (va / 4096 * 4096) cause 3 (2 ^ laneOf tid) 0xFFFFF#32 (whereWord b.core (quarterOf tid) b.ridx)
    (s.launchHandle b.launch)
  let q := p.2.newId
  let o : OpEntry :=
    { id := q.1, vf := b.vf, seq := p.1, core := b.core, acc := none, waiter := .fetch b.bid tid, replay := false, bad := false }
  ({ q.2 with oplog := q.2.oplog ++ [o] } : State).settleRecords

/-- One line of code is fetched (R75); one already held is fetched again. -/
def State.fetchLine (s : State) (b : Block) (tid : Nat) (line : Nat) : State :=
  let held := (s.core b.core).ic.find? (fun l => l.isCode b line)
  let p := s.translate (dieOf b.core) b.vf (128 * line) .fetch
  match p.1, held with
  | .error c, none => if c == waitCause then p.2 else p.2.fetchFault b tid (128 * line) c
  | .error _, some _ => s
  | .ok pa, none =>
    (match p.2.target pa with
     | .damask pkg win ofs =>
       let q := p.2.newId
       let o : OpEntry :=
         { id := q.1, vf := b.vf, seq := 0, core := b.core, acc := none, waiter := .fetch b.bid tid, replay := false, bad := false }
       ({ q.2 with oplog := q.2.oplog ++ [o] } : State).send b.vf pkg opLoad (win * 2 ^ 32 + ofs) [] false (.access q.1)
     | _ =>
       let m := mixWords 16 (p.2.versions b line (p.2.readMem (pa / 128 * 128) 128)) p.2
       m.2.putCode b line (p.2.tag pa) m.1)
  | .ok pa, some _ =>
    (match p.2.target pa with
     | .damask .. => s
     | _ =>
       let m := mixWords 16 (p.2.versions b line (p.2.readMem (pa / 128 * 128) 128)) p.2
       m.2.putCode b line (p.2.tag pa) m.1)

/-- A line of code fetched before any thread asks for it, where its translation allows: what a later fetch may still be given (R75).
[log 101: DEDUCED, unsafe] -/
def State.prefetchCode (s : State) (b : Block) (line : Nat) : State :=
  let p := s.translate (dieOf b.core) b.vf (128 * line) .fetch
  match p.1 with
  | .error _ => s
  | .ok pa =>
    (match p.2.target pa with
     | .damask .. => s
     | _ =>
       let n : Line :=
         { vf := b.vf, key := b.launch, line := line, ty := p.2.tag pa, data := p.2.readMem (pa / 128 * 128) 128 }
       p.2.modCore b.core fun k => { k with icOld := n :: k.icOld })

/-- CLAUSE_FETCH (R75): the lines of a thread's clause are fetched; when they stand in the cache, they are fetched again or another line
is fetched ahead, by a free choice. -/
def execClauseFetch (bid tid : Nat) (s : State) : Out :=
  .next (
    match s.block? bid with
    | none => s
    | some b =>
      match b.thread? tid with
      | none => s
      | some t =>
        if b.phase != .resident || t.life != .live || s.waitsFetch bid tid then s
        else
          let ls := distinct ((s.clauseOf b t).map (fun a => a.toNat / 128))
          let miss := ls.filter (fun l => (s.codeLine b (BitVec.ofNat 57 (128 * l))).isNone)
          match miss with
          | l :: _ => s.fetchLine b tid l
          | [] =>
            let p := s.coin
            if p.1 then ls.foldl (fun s l => s.fetchLine b tid l) p.2
            else
              let q := p.2.pick (2 ^ 50)
              q.2.prefetchCode b q.1)

/-! ### Long-latency operations complete (R46, R48, R250, R252) -/

/-- Registers written by an operation that completes: every later read sees them (R48). A change of one makes the spin detector's
iteration a working one and promotes a demoted thread (R53, R55). -/
def Thread.land (t : Thread) (ws : List (Nat × Reg)) : Thread :=
  let t' := ws.foldl (fun (t : Thread) w => { t.forget w.1 with regs := t.regs.set w.1 w.2 }) t
  Thread.noteChange t t'

/-- A fault found when an operation's data arrive (R252, R346). -/
def State.pendFault (s : State) (p : Pend) (code : Nat) : State :=
  s.modBoth p.bid p.tid p.id fun t =>
    let f : AsyncFault := { code := BitVec.ofNat 8 code, addr := p.addr, last := p.last, site := p.site }
    { t.endFlag p.flag with fault := match t.fault with | some g => some g | none => some f }

/-- Whether a pending load may still read its line: its access is one of the lanes of packet pkt on the line of VA va. -/
def Pend.shares (p : Pend) (b : Block) (o : Acc) : Bool :=
  match p.kind, p.acc with
  | .load .., some a =>
    p.bid == b.bid && a.pa.isSome && a.space == 0 && (a.wid == o.wid || (o.pkt != 0 && a.pkt == o.pkt && a.a / 128 == o.a / 128))
  | _, _ => false

/-- A pending load as the bytes it reads now make it, and closed (R285): unless the line's type has changed, or it waits for a place. -/
def State.reread (s : State) (now : Bool) (p : Pend) : Pend × State :=
  match p.kind, p.acc, s.block? p.bid with
  | .load d t n ty bytes x, some a, some b =>
    let done (bs : List Byte) : Pend := { p with kind := .load d t n ty bs { x with pa := none }, acc := some { a with pa := none } }
    (match a.pa with
     | none => (p, s)
     | some pa =>
       if !now || b.reserved a.tid a.wid a.a a.n then (done bytes, s)
       else
         let nl1 := match a.kind with | .load _ _ _ l _ => l | _ => false
         let r := s.loadBytes b a.tid a.know a.a pa a.n nl1
         if r.2.1 == ty then (done (a.overlay r.1), r.2.2) else (done bytes, r.2.2))
  | _, _, _ => (p, s)

/-- Each pending load of a list as it stands after a reading of its line. -/
def rereadEach (now : Bool) (hit : Pend → Bool) : List Pend → State → List Pend × State
  | [], s => ([], s)
  | p :: ps, s =>
    let x := if hit p then s.reread now p else (p, s)
    let r := rereadEach now hit ps x.2
    (x.1 :: r.1, r.2)

/-- What a load holds when it completes (R285, R235): it is performed at any time between its issue and its completion, so its line is
read again or not, by a free choice that the lanes of its packet share.
[log 28: DEDUCED, unsafe] -/
def State.settleLoad (s : State) (p : Pend) : State :=
  match s.block? p.bid, p.acc with
  | some b, some a =>
    if a.pa.isNone then s
    else
      let hit (q : Pend) : Bool := match s.block? q.bid with
        | some x => q.shares x a && x.core == b.core
        | none => false
      let here : Bool := match s.target (a.pa.getD 0) with | .damask .. => false | _ => true
      let c := s.coin
      let r := rereadEach (c.1 && here) hit c.2.pend { c.2 with memo := some { leaves := [], copies := [], seen := [] } }
      { r.2 with pend := r.1, memo := s.memo }
  | _, _ => s

/-- The bytes a pending load holds. -/
def State.loadHeld (s : State) (op : Nat) (bytes : List Byte) : List Byte :=
  match s.pend.find? (fun p => p.id == op) with
  | some p => (match p.kind with | .load _ _ _ _ bs _ => bs | _ => bytes)
  | none => bytes

/-- The launch an LNCH starts (R38): it attaches to its thread's graph; one attached to a cancelled graph completes cancelled at
once (R44). -/
def State.lnchStart (s : State) (p : Pend) (d : G) (bytes : List Byte) : State :=
  match s.block? p.bid, launchShape bytes with
  | some b, some sh =>
    (match s.launch? b.launch with
     | none => s
     | some l =>
       match s.graph? l.graph with
       | none => s
       | some g =>
         match g.ctr with
         | none => s
         | some gc =>
           let q := ({ s with pend := s.pend.filter (fun x => x.id != p.id) } : State).freeNum .launch
           match q.1 with
           | none => s
           | some num =>
             let gone : Bool := match s.counter? l.vf .graph gc with | some c => c.state == .cancelled | none => false
             let s := q.2.modCounter l.vf .graph gc fun c => { c with left := c.left + 1 }
             let id := s.ids
             let s := s.newLaunch l.vf num g.obj gc none sh
             let s := s.modBoth p.bid p.tid p.id fun t =>
               (t.land (if d == 0xFF#8 then [] else [(d.toNat, ⟨handleOf .launch num, .P⟩)])).endFlag p.flag
             if gone then s.cancelOneLaunch id else s)
  | _, _ => s

/-- LOAD_COMPLETE (R46, R48, R250, R252): an operation that has been performed writes its results and completes its flag. -/
def execLoadComplete (op : Nat) (s : State) : Out :=
  .next (
    match s.pend.find? (fun p => p.id == op) with
    | none => s
    | some p =>
      match s.block? p.bid with
      | none =>
        let s := { s with pend := s.pend.filter (fun x => x.id != op) }
        (match p.kind with
         | .bind vf o base len act => s.bindAct vf o base len act
         | _ => s)
      | some _ =>
        let gone (s : State) : State := { s with pend := s.pend.filter (fun x => x.id != op) }
        let fin (s : State) (f : Thread → Thread) : State := s.modBoth p.bid p.tid p.id (fun t => (f t).endFlag p.flag)
        match p.kind with
        | .regs ws know read =>
          fin (gone s) fun t =>
            let t := t.land ws
            { t with know := t.know.join know, read := t.read ++ read }
        | .load d t n ty bytes acc =>
          let s := s.settleLoad p
          fin (gone s) (fun th => th.land (ldRegs d t ty n.num (acc.kind.ordered (s.loadHeld op bytes)) 0))
        | .bind vf o base len act => fin ((gone s).bindAct vf o base len act) id
        | .bget kd ty bytes =>
          let img : Rec := BitVec.ofNat 128 (ofBytes bytes)
          if ty == .A then (gone s).pendFault p 0x20
          else if !recOk img then (gone s).pendFault p 0x14
          else fin (gone s) (fun t => t.setBuf kd img)
        | .lnch d _ bytes => s.lnchStart p d bytes
        | .nothing => fin (gone s) id
        | .retIn w => (gone s).retRefilled p.bid p.tid p.id w
        | .rejIn w k => (gone s).rejRefilled p.bid p.tid p w k
        | .spilled => fin (gone s) id)

/-! ### Timeouts (R55, R58, R60, R158) -/

/-- DEMOTION_TIMEOUT (R55): 4096 cycles after its demotion a thread is promoted. -/
def execDemotionTimeout (bid tid : Nat) (s : State) : Out :=
  .next (
    match s.block? bid, s.thread? bid tid with
    | some b, some t =>
      if t.mode == .demoted && decide (t.spin.since + 4096 ≤ s.clkOf b.core) then
        s.modThread bid tid (fun t => { t with mode := .normal, spin := { t.spin with idle := 0, watched := [] } })
      else s
    | _, _ => s)

/-- REJOIN_TIMEOUT (R58, R60): a thread parked at RJW whose count has run out is released alone. -/
def execRejoinTimeout (bid tid : Nat) (s : State) : Out :=
  .next (s.modThread bid tid fun t => match t.park with
    | .rjw _ _ 0 => { t with park := .running }
    | _ => t)

/-- SLEEP_EXPIRE (R158): a thread whose SLEEP has run out goes on. -/
def execSleepExpire (bid tid : Nat) (s : State) : Out :=
  .next (s.modThread bid tid fun t => match t.park with
    | .sleep 0 => { t with park := .running }
    | _ => t)

end Sys2Proof.Machine
end

