-- ==== Sys2Proof/Machine/Move.lean ====
section
/-! DEFINITION. Moves, selects, special registers, predicates and LEA (R117-R121). -/

namespace Sys2Proof.Machine

/-- The types of a register or pair, copied with the values (R118, R319). -/
def Thread.copy (t : Thread) (wide : Bool) (d a : G) (src : Thread) : Thread :=
  if wide then
    let lo := src.reg a
    let hi := src.reg (next a 1)
    (t.setReg d lo).setReg (next d 1) hi
  else t.setReg d (src.reg a)

/-- MOV (R118). -/
def execMov (c : Ctl) (d a : G) (wide : Bool) (s : State) : Out :=
  execLocal c 1 s
    (fun _ => { uses := [(d, wideN wide), (a, wideN wide)], taint := [], ptaint := [], ap := false, fault := none })
    (fun u => u.t.copy wide d a u.t)

/-- MOVI (R118). -/
def execMovi (c : Ctl) (d : G) (imm : Word) (s : State) : Out :=
  execLocal c 1 s (fun _ => precise [(d, 1)] [] []) (fun u => u.t.setReg d ⟨imm, .P⟩)

/-- SEL (R119): the chosen source keeps its type; the selector must be P-typed. -/
def execSel (c : Ctl) (d : G) (k : PF) (a b : G) (wide : Bool) (s : State) : Out :=
  let n := wideN wide
  execLocal c 1 s
    (fun _ => { uses := [(d, n), (a, n), (b, n)], taint := [], ptaint := [k], ap := false, fault := none })
    (fun u => u.t.copy wide d (if (u.t.pred k).val then a else b) u.t)

/-- SEL with an immediate (R119): the destination is read, so it must be P-typed (R104). -/
def execSelI (c : Ctl) (d : G) (k : PF) (imm : Word) (s : State) : Out :=
  execLocal c 1 s (fun _ => precise [] [(d, 1)] [k])
    (fun u => if (u.t.pred k).val then u.t.setReg d ⟨imm, .P⟩ else u.t)

/-- The slot of a thread's gang on its lane (R19). -/
def Block.slotOf (b : Block) (tid : Nat) : Nat := b.slots.getD (gangOf tid) 0

/-- The graph, phase and job of a launch. -/
def State.graphOf (s : State) (l : Launch) : Option Graph := s.graphs.find? (fun g => g.obj == l.graph)
def State.phaseOf (s : State) (l : Launch) : Option PhaseObj :=
  match s.graphOf l with
  | none => none
  | some g => s.phases.find? (fun p => p.obj == g.phase)

/-- The counter handle of a launch's level (R33). -/
def State.ctlHandle (s : State) (launch : Nat) (lv : Level) : Word :=
  match s.launch? launch with
  | none => 0
  | some l =>
    match lv with
    | .launch => handleOf .launch l.ctr
    | .graph =>
      match s.graphOf l with
      | some g => (match g.ctr with | some n => handleOf .graph n | none => 0)
      | none => 0
    | .phase =>
      match s.phaseOf l with
      | some p => handleOf .phase p.ctr
      | none => 0
    | .job =>
      match s.jobOf l with
      | some j => (match j.ctr with | some n => handleOf .job n | none => 0)
      | none => 0

/-- The value of a special register (R94); 64 bits for `s.clk` and `s.time`. One tick of `s.time` is 1 ns, a core cycle
10/27 ns (R2). -/
def State.special (s : State) (u : Cur) (idx : BitVec 8) : Nat :=
  let b := u.b
  match idx.toNat with
  | 0x00 => u.tid
  | 0x01 => gangOf u.tid
  | 0x02 => laneOf u.tid
  | 0x03 => b.shape.nthr
  | 0x04 => b.bx
  | 0x05 => b.by
  | 0x06 => b.bz
  | 0x07 => b.shape.nx
  | 0x08 => b.shape.ny
  | 0x09 => b.shape.nz
  | 0x0A => b.shape.nblk
  | 0x0B => b.gid u.tid % 2 ^ 32
  | 0x0C => b.gid u.tid / 2 ^ 32
  | 0x10 => quarterOf u.tid
  | 0x11 => b.slotOf u.tid
  | 0x12 => b.core % 4
  | 0x13 => b.core / 4 % 12
  | 0x14 => b.core / 48
  | 0x18 => s.clkOf b.core
  | 0x1A => s.refClk * 10 / 27
  | 0x20 => b.volt
  | 0x21 => b.level
  | 0x22 => u.t.spo.toNat
  | 0x23 => if b.shape.det then 1 else 0
  | 0x24 => b.vf
  | 0x25 => (s.vf b.vf).part.toNat % 8
  | 0x26 => u.t.seq.toNat
  | 0x27 => u.t.sts.toNat
  | 0x28 => (s.ctlHandle b.launch .launch).toNat
  | 0x29 => (s.ctlHandle b.launch .graph).toNat
  | 0x2A => (s.ctlHandle b.launch .phase).toNat
  | 0x2B => (s.ctlHandle b.launch .job).toNat
  | _ => 0

/-- The registers a deterministic launch may not read (R95, R389). -/
def placeDependent (idx : BitVec 8) : Bool :=
  idx == 0x11#8 || idx == 0x12#8 || idx == 0x13#8 || idx == 0x14#8 || idx == 0x18#8 || idx == 0x1A#8

/-- SRD (R95, R120). -/
def execSrd (c : Ctl) (d : G) (idx : BitVec 8) (wide : Bool) (s : State) : Out :=
  execLocal c 1 s
    (fun u => { uses := [(d, wideN wide)], taint := [], ptaint := [], ap := false,
                fault := if u.b.shape.det && placeDependent idx then some 0x60 else none })
    (fun u => u.t.setNum wide d (s.special u idx))

/-- SWR s.sts (R95). -/
def execSwr (c : Ctl) (a : G) (s : State) : Out :=
  execLocal c 1 s (fun _ => precise [] [(a, 1)] []) (fun u => { u.t with sts := (u.t.val a).setWidth 8 })

/-- PLOP (R117). -/
def execPlop (c : Ctl) (d a b cc : PF) (lut : Byte) (s : State) : Out :=
  execLocal c 1 s (fun _ => precise [] [] [a, b, cc])
    (fun u => u.t.setPred d ⟨lutBit lut (u.t.pred a).val (u.t.pred b).val (u.t.pred cc).val, .P⟩)

/-- The sum LEA forms (R121). -/
def leaValue (t : Thread) (a b : G) (form : LeaForm) (sh : Nat) : Nat :=
  match form with
  | .n32 => (t.nat a + t.nat b * 2 ^ sh) % 2 ^ 32
  | .n64n32 => ((t.pair a).toNat + t.nat b * 2 ^ sh) % 2 ^ 64
  | .n64s32 => ((t.pair a) + ((t.val b).signExtend 64 <<< sh)).toNat
  | .n64 => ((t.pair a).toNat + (t.pair b).toNat * 2 ^ sh) % 2 ^ 64

/-- LEA (R121). -/
def execLea (c : Ctl) (d a b : G) (form : LeaForm) (sh : BitVec 4) (s : State) : Out :=
  let wide := form != .n32
  let bw := if form == .n64 then 2 else 1
  execLocal c 1 s (fun _ => precise [(d, wideN wide)] [(a, wideN wide), (b, bw)] [])
    (fun u => u.t.setNum wide d (leaValue u.t a b form sh.toNat))

/-- LEA with an immediate (R121): as ADD with an immediate. -/
def execLeaI (c : Ctl) (d a : G) (imm : Word) (t : IntTy) (s : State) : Out :=
  execLocal c 1 s (fun _ => precise [(d, t.n)] [(a, t.n)] [])
    (fun u => u.t.setNum t.wide d ((u.t.num t.wide a + immNum t imm) % 2 ^ t.w))

end Sys2Proof.Machine
end

