-- ==== Sys2Proof/Machine/Debug.lean ====
section
/-! DEFINITION. The debug agent: stops, breakpoints, steps, kills and the shadow port (R41, R174, R355, R358-R363, R366-R373). -/

namespace Sys2Proof.Machine

/-! ### Stops (R359, R360, R372, R373) -/

/-- Clusters of the package (R384). -/
def clusters : Nat := 96

/-- A count held in 8 bits that saturates. -/
def sat8 (n : Nat) : Nat := if 255 < n then 255 else n

/-- Threads of a cluster's resident blocks, changed. -/
def State.modClusterThreads (s : State) (cl : Nat) (f : Thread → Thread) : State :=
  { s with blocks := s.blocks.map fun b =>
      if b.resident && clusterOf b.core == cl then { b with threads := b.threads.map f } else b }

/-- The gangs of a core's quarter in slot order (R360). -/
def State.gangsOn (s : State) (core q : Nat) : List (Block × Nat) :=
  let gs := ((s.holders core).map fun b => ((List.range b.slots.length).filter (fun g => g % 4 == q)).map (fun g => (b, g))).flatten
  sortBy (fun x y => decide (x.1.slots.getD x.2 0 ≤ y.1.slots.getD y.2 0)) gs

/-- The live threads of a gang, lowest lane first. -/
def Block.gangLive (b : Block) (g : Nat) : List Thread :=
  (List.range 32).filterMap fun l => match b.thread? (32 * g + l) with
    | some t => if t.life == .live then some t else none
    | none => none

/-- The gangs of a cluster with a thread that has not exited. -/
def State.gangsAt (s : State) (cl : Nat) : List GangAt :=
  let gs := ((List.range 4).map fun k => ((List.range 4).map fun q => s.gangsOn (4 * cl + k) q).flatten).flatten
  (gs.filter (fun x => !(x.1.gangLive x.2).isEmpty)).map fun x =>
    { bid := x.1.bid, gang := x.2, core := x.1.core, ridx := x.1.ridx, slot := x.1.slots.getD x.2 0 }

/-- The order of a record's entries: by core, quarter and slot (R360). -/
def GangAt.before (x y : GangAt) : Bool :=
  let key (g : GangAt) : Nat := (g.core * 4 + g.gang % 4) * 8 + g.slot
  decide (key x ≤ key y)

/-- A stop with its record: the debug unit's fields, and every thread asked to halt (R359, R360). n: the matches that only count. -/
def State.stopWith (s : State) (cl : Nat) (h : Hit) (n : Nat) : State :=
  let s := s.modCluster cl fun c => { c with
    stop := true, recorded := false, iblk := BitVec.ofNat 32 h.iblk, nhit := sat8 n, ngang := 0, wp := BitVec.ofNat 4 h.wp
    kind := BitVec.ofNat 3 h.kind, retd := h.ret, ictr := h.ictr, ispo := h.ispo, icore := BitVec.ofNat 9 h.core
    bkn := h.bkn, gangs := [], present := s.gangsAt cl, listed := [] }
  (s.modClusterThreads cl (fun t => { t with skid := 0, inPlace := false })).askHalt

/-- The match that fills the record: the lowest watchpoint, the first of its kind (R363, R373). -/
def firstHit : List Hit → Option Hit
  | [] => none
  | h :: hs => match firstHit hs with
    | some g => if g.wp < h.wp then some g else some h
    | none => some h

/-- WATCHPOINT_MATCH (R358, R359, R363, R373): the matches of a cluster stop it, or count while it is stopped. -/
def execWatchpointMatch (cluster : Nat) (s : State) : Out :=
  .next (
    let hs := (s.cluster cluster).hits
    let s := if hs.isEmpty then s else s.modCluster cluster fun c => { c with hits := [] }
    match firstHit hs with
    | none => s
    | some h =>
      if (s.cluster cluster).stop then s.modCluster cluster fun c => { c with nhit := sat8 (c.nhit + hs.length) }
      else s.stopWith cluster h (hs.length - 1))

/-- STOP_REQUEST (R372): a DBG.REQ write with STOPREQ. -/
def execStopRequest (cluster : Nat) (s : State) : Out :=
  .next (
    if clusters ≤ cluster || (s.cluster cluster).stop then s
    else s.stopWith cluster { wp := 15, kind := 7, iblk := 0, ictr := 0, ispo := 0xFFFFF#20, core := 0, ret := false, bkn := 0 } 0)

/-- BKPT (R174, R373): with breakpoints enabled the thread halts after it and its cluster stops, but in a clause without stop sites (R74).
[log 82: DEDUCED, unsafe] -/
def execBkpt (c : Ctl) (n : BitVec 26) (s : State) : Out :=
  execWith c s (fun _ => precise [] [] []) fun u =>
    let cl := clusterOf u.b.core
    let ord := s.ordinal u.b u.t
    let ictr := s.launchHandle u.b.launch
    let s := s.done u c 1 u.t
    if (s.cluster cl).bken && u.t.header.spo != 0xFFFFF#20 then
      let h : Hit := { wp := 15, kind := 6, iblk := u.b.lin, ictr := ictr, ispo := ord, core := u.b.core, ret := false, bkn := n }
      let s := s.modCluster cl fun k => { k with hits := k.hits ++ [h] }
      let s := s.modThread u.b.bid u.tid fun t => { t with halted := true, haltReq := true }
      { s with agenda := .watchpointMatch cl :: s.agenda }
    else s

/-! ### Halting (R359) -/

/-- Whether a thread stands still for a stop: halted, gone or in place. -/
def Thread.still (t : Thread) : Bool := t.life != .live || t.halted || t.inPlace || t.park != .running

/-- Whether a thread stands at EXIT, which it issues next. -/
def State.atExit (s : State) (b : Block) (t : Thread) : Bool :=
  t.fault.isNone && (match s.nextWord b t with
    | some w => (Fields.unpack w).op == 0xA5#8
    | none => false)

/-- A thread asked to halt that is parked halts in place; one that has reached EXIT halts before it. -/
def State.settleHalt (s : State) (b : Block) (tid : Nat) (t : Thread) : State :=
  if !t.haltReq || t.halted || t.life != .live then s
  else
    if t.park != .running || (s.atExit b t && !t.leaving) then s.modThread b.bid tid (fun t => { t with halted := true, inPlace := false }) else s

/-- The part of a gang's entry that a step rewrites: SPO, MULTI, PARK, WAIT (R360, R361). -/
def gangPlace (ts : List Thread) : Nat :=
  let spo := match ts with | t :: _ => t.spo.toNat | [] => 0xFFFFF
  let multi := match ts with | t :: rest => rest.any (fun x => x.pc != t.pc) | [] => false
  spo * 2 ^ 40 + (if ts.any (fun t => t.inPlace) then 2 ^ 27 else 0) + (if multi then 2 ^ 26 else 0)
    + (if ts.any (fun t => t.park != .running) then 2 ^ 24 else 0)

/-- The entry of a gang with the live threads ts (R360). -/
def gangEntry (x : GangAt) (ts : List Thread) : DWord :=
  let skid := sat8 (ts.foldl (fun m t => if m < t.skid then t.skid else m) 0)
  BitVec.ofNat 64 (gangPlace ts + skid * 2 ^ 32 + x.gang * 2 ^ 19 + x.ridx % 32 * 2 ^ 14 + x.gang % 4 * 2 ^ 12 + x.core % 4 * 2 ^ 10)

/-- The live threads of a gang that a record lists; none when its block is killed or gone (R363). -/
def State.liveAt (s : State) (x : GangAt) : List Thread :=
  match s.block? x.bid with
  | some b => if b.killed then [] else b.gangLive x.gang
  | none => []

/-- STOP_RECORD_DONE (R359, R360): every thread of a stopped cluster stands still, and the gang entries are written: of the gangs that had a
thread that had not exited at the match, and of those that came to the cluster since. -/
def execStopRecordDone (cluster : Nat) (s : State) : Out :=
  .next (
    let c := s.cluster cluster
    let here := s.blocks.filter (fun b => b.resident && clusterOf b.core == cluster)
    if !c.stop || c.recorded || !here.all (fun b => b.threads.all Thread.still) then s
    else
      let new := (s.gangsAt cluster).filter (fun x => !c.present.contains x)
      let gs := sortBy GangAt.before (c.present ++ new)
      let es := gs.map fun x => gangEntry x (s.liveAt x)
      s.setCluster cluster { c with recorded := true, ngang := es.length, gangs := es.mapIdx (fun i e => (i, e)), listed := gs })

/-- HALT_WAIT_TIMEOUT (R359, R361): a thread that has issued nothing for 1024 cycles since the stop took effect or its step began, and
neither is parked nor can issue, waits in place.
[log 64: DEDUCED, unsafe] -/
def execHaltWaitTimeout (bid tid : Nat) (s : State) : Out :=
  .next (
    match s.block? bid, s.thread? bid tid with
    | some b, some t =>
      if t.haltReq && !t.still && !s.canIssue b tid t && decide (t.last + 1024 ≤ s.clkOf b.core) && decide (t.askedAt + 1024 ≤ s.clkOf b.core) then
        s.modThread bid tid (fun t => { t with inPlace := true })
      else s
    | _, _ => s)

/-! ### Steps and resuming (R361, R362) -/

/-- The block at a resident index of a core. -/
def State.atIndex (s : State) (core ridx : Nat) : Option Block := (s.holders core).find? (fun b => b.ridx == ridx && b.phase == .resident)

/-- What a step reports (R361): all exited, parked at BAR, parked elsewhere or in place, else 0. -/
def stepResult (ts : List Thread) : Nat :=
  if ts.isEmpty then 3
  else if ts.any (fun t => t.park == .bar) then 1
  else if ts.any (fun t => t.park != .running || t.inPlace) then 2 else 0

/-- A gang's entry after a step of it, found by its place (R361). -/
def Cluster.rewrite (c : Cluster) (b : Block) (g : Nat) (ts : List Thread) (res : Nat) : Cluster :=
  let here (e : DWord) : Bool :=
    bitsOf e 23 19 == g && bitsOf e 18 14 == b.ridx % 32 && bitsOf e 13 12 == g % 4 && bitsOf e 11 10 == b.core % 4
  let new (e : DWord) : DWord :=
    BitVec.ofNat 64 (gangPlace ts + (if res == 1 then 2 ^ 25 else 0) + bitsOf e 39 32 * 2 ^ 32 + bitsOf e 23 10 * 2 ^ 10)
  { c with gangs := c.gangs.map fun x => (x.1, if here x.2 then new x.2 else x.2) }

/-- The entries of a record whose blocks have been killed read with every thread exited (R363). -/
def State.settleKilled (s : State) (cl : Nat) : State :=
  let c := s.cluster cl
  let dead (i : Nat) : Bool := match c.listed[i]? with
    | some x => (match s.block? x.bid with | some b => b.killed | none => true)
    | none => false
  let exited (e : DWord) : DWord := BitVec.ofNat 64 (gangPlace [] + bitsOf e 39 32 * 2 ^ 32 + bitsOf e 23 10 * 2 ^ 10)
  if !c.recorded || c.gangs.all (fun x => !dead x.1 || x.2 == exited x.2) then s
  else s.setCluster cl { c with gangs := c.gangs.map fun x => (x.1, if dead x.1 then exited x.2 else x.2) }

/-- A step ends once every thread of its gang stands still (R361). -/
def State.settleStep (s : State) (cl : Nat) : State :=
  let c := s.cluster cl
  match c.stepping with
  | none => s
  | some (bid, g) =>
    match s.block? bid with
    | none => s.setCluster cl { c with stepping := none, stepRes := 3 }
    | some b =>
      let ts := b.gangLive g
      if !ts.all Thread.still then s
      else
        let r := stepResult ts
        s.setCluster cl { c.rewrite b g ts r with stepping := none, stepRes := BitVec.ofNat 2 r }

/-- A thread that a step of its gang lets run (R361).
[log 20: DEDUCED, unsafe] -/
def State.stepThread (b : Block) (g : Nat) (s : State) (l : Nat) : State :=
  s.modThread b.bid (32 * g + l) fun t =>
    let t := { t with inPlace := false, askedAt := s.clkOf b.core }
    if t.halted && t.park == .running && t.life == .live then
      { t with halted := false, haltReq := true, leaving := s.atExit b t }
    else t

/-- DEBUG_STEP (R361): a DBG.STEP write; with GO the halted, unparked threads of the named gang run on to their next stop site;
one that stands at EXIT issues it. A write whose GO is discarded changes nothing (log 26).
[log 26: DEDUCED, unsafe] -/
def execDebugStep (cluster : Nat) (v : DWord) (s : State) : Out :=
  .next (
    if clusters ≤ cluster then s
    else
      let named (s : State) : State := s.modCluster cluster fun c => { c with stepReg := v &&& 0xFFF#64 }
      if !v.getLsbD 15 then named s else
      let g := bitsOf v 4 0
      match s.atIndex (4 * cluster + bitsOf v 11 10) (bitsOf v 9 5) with
      | none => s
      | some b =>
        if (s.cluster cluster).stepping.isSome || !(s.cluster cluster).stop || b.shape.gangs ≤ g then s
        else
          let s := (named s).modCluster cluster fun c => { c with stepping := some (b.bid, g) }
          ((List.range 32).foldl (State.stepThread b g) s).settleStep cluster)

/-- DEBUG_RESUME (R362): a DBG.CTL write with RESUME. -/
def execDebugResume (cluster : Nat) (s : State) : Out :=
  .next (
    if !(s.cluster cluster).stop then s
    else
      let s := s.modCluster cluster fun c => { c with stop := false, recorded := false, stepping := none }
      s.modClusterThreads cluster (fun t => { t with halted := false, haltReq := false, inPlace := false }))

/-! ### Threads by their slot (R41, R368, R372) -/

/-- The thread in a slot of a quarter's lane of a core; none when no live thread stands there. -/
def State.inSlot (s : State) (core quar lane slot : Nat) : Option (Block × Nat × Thread) :=
  (s.gangsOn core quar).findSome? fun x =>
    if x.1.slots.getD x.2 0 == slot then
      match x.1.thread? (32 * x.2 + lane) with
      | some t => if t.life == .live then some (x.1, 32 * x.2 + lane, t) else none
      | none => none
    else none

/-- DEBUG_KILL (R41, R372): a DBG.KILL write; with GO it kills the named thread of a stopped cluster.
[log 58: DEDUCED, unsafe] -/
def execDebugKill (cluster : Nat) (v : DWord) (s : State) : Out :=
  .next (
    if clusters ≤ cluster then s
    else
      let s := s.modCluster cluster fun c => { c with killReg := v &&& 0xFFF#64 }
      if !v.getLsbD 15 || !(s.cluster cluster).stop then s
      else
        match s.inSlot (4 * cluster + bitsOf v 11 10) (bitsOf v 9 8) (bitsOf v 7 3) (bitsOf v 2 0) with
        | none => s
        | some (b, tid, _) =>
          let s := s.modBlock b.bid fun b => (b.leaveGang tid).modThread tid fun t => { t with life := .killed, park := .running }
          { s with issue := s.issue.filter (fun p => p != (b.bid, tid)) })

/-! ### The shadow port (R368-R371) -/

/-- DBG.SHSEL's fields. -/
def shCls (r : DWord) : Nat := bitsOf r 23 20
def shIdx (r : DWord) : Nat := bitsOf r 7 0

/-- The slot DBG.SHSEL names on a cluster. -/
def State.selected (s : State) (cl : Nat) : Option (Block × Nat × Thread) :=
  let r := (s.cluster cl).shsel
  s.inSlot (4 * cl + bitsOf r 39 38) (bitsOf r 37 36) (bitsOf r 35 31) (bitsOf r 30 28)

/-- A handle as the shadow port gives it (R165, R369).
[log 63: DEDUCED, unsafe] -/
def Handle.shown : Handle → Nat
  | .idle => 3
  | .pending .. => 2 ^ 32
  | .complete st _ => 2 * 2 ^ 32 + st.toNat

/-- The value and type bit the shadow port reads of a thread (R369). -/
def State.shadow (s : State) (b : Block) (tid : Nat) (t : Thread) (cls idx : Nat) : Nat × TBit :=
  match cls with
  | 0 => match t.regs[idx]? with | some r => (r.val.toNat, r.ty) | none => (0, .P)
  | 1 => if idx == 7 then (1, .P) else match t.preds[idx]? with | some p => (if p.val then 1 else 0, p.ty) | none => (0, .P)
  | 2 => (t.flags.getD idx 0, .P)
  | 3 => (match t.hands[idx]? with | some h => h.shown | none => 0, .P)
  | 4 => (s.special { b := b, tid := tid, t := t } (BitVec.ofNat 8 idx), .P)
  | 5 =>
    if idx == 0 then
      ((if t.mode == .trap then 2 ^ 63 else 0) + (match t.rpt with | some r => r.k % 64 | none => 0) * 2 ^ 57 + t.pc.toNat, .P)
    else (0, .P)
  | 6 => (if idx == 0 then t.genX.toNat else if idx == 1 then t.genY.toNat else 0, .P)
  | 7 => (if idx < 32 then (t.bufs.getD (idx / 2) 0).toNat / 2 ^ (64 * (idx % 2)) % 2 ^ 64 else 0, .P)
  | _ => (0, .P)

/-- DBG.SHST's word. -/
def shStatus (wrej halt : Bool) (ty : TBit) (valid : Bool) : DWord :=
  BitVec.ofNat 64 ((if wrej then 8 else 0) + (if halt then 4 else 0) + (if ty == .A then 2 else 0) + (if valid then 1 else 0))

/-- SHADOW_READ (R368-R370): a read of DBG.SHDATA. -/
def execShadowRead (cluster : Nat) (s : State) : Out :=
  .next (
    if clusters ≤ cluster then s
    else
      let c := s.cluster cluster
      let wrej := c.shst.getLsbD 3
      match s.selected cluster with
      | none => s.setCluster cluster { c with shdata := 0, shst := shStatus wrej false .P false }
      | some (b, tid, t) =>
        let v := s.shadow b tid t (shCls c.shsel) (shIdx c.shsel)
        s.setCluster cluster { c with shdata := BitVec.ofNat 64 v.1, shst := shStatus wrej t.halted v.2 true })

/-- The thread with a register written through the shadow port; none when the write is discarded (R371). -/
def Thread.shadowed (t : Thread) (cls idx : Nat) (ty : TBit) (v : DWord) : Option Thread :=
  match cls with
  | 0 => if idx < t.regs.length then some { t with regs := t.regs.set idx ⟨v.setWidth 32, ty⟩ } else none
  | 1 => if idx < 7 then some { t with preds := t.preds.set idx ⟨v.getLsbD 0, ty⟩ } else none
  | 4 => if idx == 0x27 then some { t with sts := v.setWidth 8 } else none
  | 5 => if idx == 0 && v.toNat % 8 == 0 then some (t.goTo (v.setWidth 57)) else none
  | 6 => if idx == 0 then some { t with genX := v } else if idx == 1 then some { t with genY := v } else none
  | 7 =>
    let old := t.bufs.getD (idx / 2) 0
    let lo := old.toNat % 2 ^ 64
    let hi := old.toNat / 2 ^ 64
    let img : Rec := BitVec.ofNat 128 (if idx % 2 == 0 then v.toNat + hi * 2 ^ 64 else lo + v.toNat * 2 ^ 64)
    if idx < 32 && recOk img then some { t with bufs := t.bufs.set (idx / 2) img } else none
  | _ => none

/-- SHADOW_WRITE (R366, R371): a write of DBG.SHDATA, which reaches a halted thread of a stopped cluster while no step runs.
[log 63: DEDUCED, unsafe] -/
def execShadowWrite (cluster : Nat) (v : DWord) (s : State) : Out :=
  .next (
    if clusters ≤ cluster then s
    else
      let s := s.modCluster cluster fun c => { c with shdata := v }
      let c := s.cluster cluster
      let rej (b : Bool) : DWord := if b then c.shst ||| 8#64 else c.shst &&& ~~~8#64
      let no := s.setCluster cluster { c with shst := rej true }
      match s.selected cluster with
      | none => no
      | some (b, tid, t) =>
        if !t.halted || !c.stop || c.stepping.isSome then no
        else
          match t.shadowed (shCls c.shsel) (shIdx c.shsel) (if c.shsel.getLsbD 27 then .A else .P) v with
          | some t' => (s.setCluster cluster { c with shst := rej false }).setThread b.bid tid t'
          | none => no)

end Sys2Proof.Machine
end

