-- ==== Sys2Proof/Machine/TimeSeries.lean ====
section
/-! DEFINITION. The time series and the sensors (R374-R377, R417-R419). -/

namespace Sys2Proof.Machine

/-! ### Latches (R374-R377) -/

/-- The period of the latches, in cycles of the reference count (R374).
[log 67: DEDUCED, unsafe] -/
def State.period (s : State) : Nat := 2 ^ bitsOf s.tsCtl 12 8

/-- A core's C7 (R376): the thread that led the quarter on the latch cycle, if it still stands there. -/
def State.sample (s : State) (core quarter : Nat) : Nat :=
  let q := (s.core core).quarters.get Quarter.reset quarter
  match if q.latchAt == s.refClk then q.latchLead else none with
  | none => 0xFFFFF
  | some (bid, tid) =>
    match s.block? bid, s.thread? bid tid with
    | some b, some t =>
      if b.resident && b.core == core then t.spo.toNat + b.ridx % 32 * 2 ^ 20 + b.slots.getD (gangOf tid) 0 % 8 * 2 ^ 25 else 0xFFFFF
    | _, _ => 0xFFFFF

/-- Counters the model counts: C0 to C6, X0 to X3, D5 to D7 (R375); not D0 to D4, which count what the L2 and the networks do.
[log 68: DESIGN CHOICE, safe] -/
def counted (key : Nat) : Bool := decide (key < 432) || [437, 438, 439].contains key

/-- The islands of a die whose counters a key is one of (R377, R417). -/
def keyIslands (die key : Nat) : List Nat :=
  if key < 384 then [124 * die + key / 8, 124 * die + 48 + key / 8]
  else if key < 432 then [124 * die + 96 + (key - 384) / 4]
  else (List.range 16).map (fun i => 124 * die + 108 + i)

/-- The value of a die's counter at a latch (R375-R377): one the model does not count is free.
[log 68: DESIGN CHOICE, safe] -/
def State.latched (s : State) (die quarter key : Nat) : Nat :=
  if (keyIslands die key).any (s.islFence.contains ·) then 0
  else if key < 384 && key % 8 == 7 then s.sample (48 * die + key / 8) quarter
  else if counted key then (s.die die).counts.get 0 key
  else (Config.freeWord (s.free + key)).toNat % 2 ^ 32

/-- A record (R375). -/
def State.seriesRecord (s : State) (die : Nat) : List Byte :=
  let d := s.die die
  bytesOf 8 d.tsNext ++ bytesOf 4 d.tsTail.toNat ++ bytesOf 1 die ++ bytesOf 1 (bitsOf s.tsCtl 12 8) ++ bytesOf 18 0
    ++ ((List.range 440).map (fun k => bytesOf 4 (s.latched die (d.tsTail.toNat % 4) k))).flatten

/-- TS_LATCH (R374): a die latches its counters on the cycle on which the reference count is the next multiple of the period.
[log 67: DEDUCED, unsafe] -/
def execTsLatch (die : Nat) (s : State) : Out :=
  .next (
    let d := s.die die
    if 8 ≤ die || !s.tsCtl.getLsbD 0 || s.refClk != d.tsNext then s
    else
      let n := ringSize d.tsRing
      let full := (d.tsTail.toNat + 2 ^ 31 - d.tsHead.toNat) % 2 ^ 31 == n
      let r := s.seriesRecord die
      let s := { s with free := s.free + 440 }
      let s := if full then s else s.writeMem (ringBase d.tsRing + 2048 * (d.tsTail.toNat % n)) r
      s.setDie die { d with tsTail := d.tsTail + 1, tsLost := d.tsLost || full, counts := [], tsNext := d.tsNext + s.period })

/-! ### Sensors (R417-R419) -/

/-- Islands of the package (R417). -/
def islands : Nat := 1024

/-- A list with an element, or without it. -/
def withIf (on : Bool) (x : Nat) (l : List Nat) : List Nat :=
  let l := l.filter (· != x)
  if on then x :: l else l

/-- The cores an island's clock drives (R417). -/
def islandCores (isl : Nat) : List Nat :=
  let d := isl / 124
  let i := isl % 124
  if 992 ≤ isl then []
  else if i < 96 then [48 * d + i % 48]
  else if i < 108 then (List.range 4).map (fun k => 4 * (12 * d + (i - 96)) + k)
  else []

/-- Whether a core is throttled by one of its islands. -/
def State.throttles (s : State) (core : Nat) : Bool := s.islThrottle.any (fun i => (islandCores i).contains core)

/-- An island trips (R418): its partition stops dispatching and its resident launches are killed, until a partition reset. -/
def State.trip (s : State) (isl : Nat) : State :=
  if 992 ≤ isl then s.event (Config.eventCode 2).toNat isl 0
  else
    let part := s.partOf (isl / 124)
    let s := s.event (Config.eventCode 2).toNat isl part
    let s := { s with tripped := withIf true part s.tripped, partup := s.partup &&& ~~~(1#8 <<< part) }
    s.killPartition part

/-- SENSOR_REPORT (R417, R418): an island's sensor reports; throttle and trip tell what its limits make Muslin do. -/
def execSensorReport (island : Nat) (throttle trip : Bool) (s : State) : Out :=
  .next (
    if islands ≤ island then s
    else
      let s := { s with islThrottle := withIf throttle island s.islThrottle }
      let s := (islandCores island).foldl (fun s c => s.modCore c fun k => { k with throttled := s.throttles c }) s
      if trip then s.trip island else s)

end Sys2Proof.Machine
end

