-- ==== Sys2Proof/Machine/Manage.lean ====
section
/-! DEFINITION. Muslin: the monitor's and the firmware's calls, the event log, firmware banks, partition and module reset (R353,
R380-R384, R413-R415, R419-R425). -/

namespace Sys2Proof.Machine

/-! ### Mailboxes (R413, R415) -/

/-- Fields of a call register (R415). -/
def Mailbox.target (m : Mailbox) : Nat := bitsOf m.call 63 48
def Mailbox.code (m : Mailbox) : Nat := bitsOf m.call 39 32
def Mailbox.go (m : Mailbox) : Bool := m.call.getLsbD 8
/-- Whether a reserved field of a call is not 0 (R415). -/
def Mailbox.reserved (m : Mailbox) : Bool := bitsOf m.call 47 40 != 0 || bitsOf m.call 31 9 != 0

/-- What a call gives: its status, its results from RES0 on, and the machine. -/
structure Called where
  status : Nat
  res    : List DWord
  s      : State

/-- A mailbox whose call is done: GO reads 0, STATUS and the results stand (R415). -/
def Mailbox.finish (m : Mailbox) (st : Nat) (res : List DWord) : Mailbox :=
  { m with
    call := (m.call &&& ~~~0x1FF#64) ||| BitVec.ofNat 64 st
    res := (List.range 8).map fun i => if i < res.length then res.getD i 0 else m.res.getD i 0 }

/-- The monitor's mailbox: M1's own or the host's (R413, R414). -/
def State.mon (s : State) (m1 : Bool) : Mailbox := if m1 then s.monM1 else s.monHost
def State.setMon (s : State) (m1 : Bool) (m : Mailbox) : State := if m1 then { s with monM1 := m } else { s with monHost := m }

/-- A call waiting in a mailbox is performed: status 3 for a reserved field or a target outside its range (R415).
[log 72: DEDUCED, unsafe] -/
def Mailbox.perform (m : Mailbox) (s : State) (code range : Nat) (f : Nat → DWord → Called) : Option (Mailbox × State) :=
  if !m.go || m.code != code then none
  else if m.reserved || range ≤ m.target then some (m.finish 3 [], s)
  else
    let c := f m.target m.arg
    some (m.finish c.status c.res, c.s)

/-- A monitor call (R413). -/
def monCall (m1 : Bool) (code range : Nat) (s : State) (f : Nat → DWord → Called) : Out :=
  .next (match (s.mon m1).perform s code range f with
    | some (m, s') => s'.setMon m1 m
    | none => s)

/-- A firmware call (R415). -/
def fwCall (code range : Nat) (s : State) (f : Nat → DWord → Called) : Out :=
  .next (match s.fwBox.perform s code range f with
    | some (m, s') => { s' with fwBox := m }
    | none => s)

/-! ### Partitions (R382, R383, R413, R421) -/

/-- Dies of a partition. -/
def State.diesOf (s : State) (part : Nat) : List Nat := (List.range 8).filter (fun d => s.partOf d == part)

/-- Whether a block runs on a die. -/
def State.runsOn (s : State) (die : Nat) : Bool := s.blocks.any (fun b => b.resident && dieOf b.core == die)

/-- PARTUP's bit of a partition written. -/
def State.setUp (s : State) (part : Nat) (on : Bool) : State :=
  { s with partup := if on then s.partup ||| (1#8 <<< part) else s.partup &&& ~~~(1#8 <<< part) }

/-- The TEST bit of every die of a partition set as v has it (R382, R421).
[log 71: DEDUCED, unsafe] -/
def State.setTest (s : State) (part : Nat) (v : DWord) : State :=
  (List.range 8).foldl (fun s e =>
    if s.partOf e == part then s.modDie e (fun x => { x with reg := (x.reg &&& 7#64) ||| (v &&& 8#64) }) else s) s

/-- PART.DIEd written (R382, R421): PARTUP follows, and every die of the partition has the same TEST. -/
def State.setdie (s : State) (d : Nat) (v : DWord) : State :=
  let old := s.partOf d
  let new := v.toNat % 8
  let s := s.modDie d fun x => { x with reg := v }
  let s := s.setTest new v
  let s := if (s.diesOf old).isEmpty then s.setUp old false else s
  if new != old && !s.tripped.contains new then s.setUp new true else s

/-- SETDIE (R382, R413).
[log 71: DEDUCED, unsafe] -/
def execSetdie (m1 : Bool) (s : State) : Out :=
  monCall m1 0x01 8 s fun d v =>
    if v.toNat / 16 != 0 then ⟨3, [], s⟩
    else if s.runsOn d then ⟨2, [], s⟩
    else ⟨0, [], s.setdie d v⟩

/-- SETVF (R382, R413). -/
def execSetvf (m1 : Bool) (s : State) : Out :=
  monCall m1 0x02 functions s fun f v =>
    if v.toNat / 8 != 0 then ⟨3, [], s⟩
    else if s.blocks.any (fun b => b.vf == f && b.resident) || s.activeCount f != 0 then ⟨2, [], s⟩
    else ⟨0, [], s.modVf f fun x => { x with part := v }⟩

/-- TWILL.FWd with a value written: SEEN is cleared by ones, bit d of OPEN always reads 1 (R383). -/
def fwWritten (old v : DWord) (d : Nat) : DWord :=
  BitVec.ofNat 64 (bitsOf ((old &&& ~~~v)) 15 8 * 256) ||| (v &&& 0xFF#64) ||| BitVec.ofNat 64 (2 ^ d)

/-- SETFW (R383, R413): OPEN must equal the dies of d's partition. -/
def execSetfw (m1 : Bool) (s : State) : Out :=
  monCall m1 0x03 8 s fun d v =>
    let open_ := total ((s.diesOf (s.partOf d)).map (2 ^ ·))
    if v.toNat % 256 != open_ then ⟨3, [], s⟩
    else ⟨0, [], s.modDie d fun x => { x with fw := fwWritten x.fw v d }⟩

/-! ### The injector (R353, R413) -/

/-- Whether PART of an INJ.CTL value names a test partition. -/
def State.namesTest (s : State) (v : DWord) : Bool :=
  (List.range 8).any fun d => (s.die d).reg.getLsbD 3 && v.getLsbD (40 + s.partOf d)

/-- INJ (R353, R413): the count and the stream start when EN goes from 0 to 1. -/
def execInj (m1 : Bool) (s : State) : Out :=
  monCall m1 0x04 2 s fun t v =>
    if t == 1 then ⟨0, [], { s with injSeed := v }⟩
    else if !s.namesTest v then ⟨1, [], s⟩
    else
      let ctl := v &&& 0xFFFFFFF8FFFF0003#64
      let g := rngSeed s.injSeed 0
      ⟨0, [], if v.getLsbD 0 && !s.injCtl.getLsbD 0 then { s with injCtl := ctl, injCount := 0, injX := g.1, injY := g.2 }
              else { s with injCtl := ctl }⟩

/-! ### Firmware banks (R413, R420) -/

/-- MEASURE (R413). -/
def execMeasure (m1 : Bool) (s : State) : Out :=
  monCall m1 0x05 (2 ^ 16) s fun _ _ =>
    ⟨0, (List.range 6).map (fun i => (Config.measurement s.bankRun).extractLsb' (64 * i) 64), s⟩

/-- BANK (R413, R420, R425): the inactive bank is verified and selected for the next module reset. -/
def execBank (m1 : Bool) (s : State) : Out :=
  monCall m1 0x06 1 s fun _ _ =>
    if !s.ready then ⟨2, [], s⟩
    else
      let ok := Config.bankVerifies s.free (!s.bankRun)
      let s := { s with free := s.free + 1 }
      if ok then ⟨0, [], { s with bankSel := !s.bankRun, bootFails := 0 }⟩ else ⟨1, [], s⟩

/-! ### Partition reset (R421, R422, R425) -/

/-- The functions of a partition. -/
def State.vfsOf (s : State) (part : Nat) : List Nat := (List.range functions).filter (fun f => s.vfPart f == part)

/-- Whether a physical address lies in the HBM stacks of a partition's dies.
[log 9: DEDUCED, unsafe] -/
def State.inStacks (s : State) (part pa : Nat) : Bool :=
  match s.target pa with
  | .hbm d => s.partOf d == part
  | _ => false

/-- DONEW and TAG of a job; those of a queued one are read from its record (R28). -/
def State.jobDonew (s : State) (j : Job) : Option (Nat × Word) × State :=
  if j.active then (j.donew.map (fun a => (a, j.tag)), s)
  else
    let p := s.dispRead (.jobRec j.obj) j.vf j.va 64
    match p.1 with
    | .error _ => (none, p.2)
    | .ok bs =>
      let r := ofBytes bs
      let dn := field r 191 128
      (if dn % 8 == 0 && dn < 2 ^ 57 then some (dn, BitVec.ofNat 32 (field r 127 96)) else none, p.2)

/-- A job ends under a partition reset: its completion word says cancelled, unless it lies in the partition's own stacks, and the
function's interrupt is raised for a word written (R422).
[log 53: DEDUCED, unsafe] -/
def State.resetJob (part : Nat) (s : State) (j : Job) : State :=
  let d := s.jobDonew j
  match d.1 with
  | none => d.2
  | some (va, tag) =>
    let p := d.2.dispLines j.vf va 8 true
    match p.1 with
    | .error _ => p.2
    | .ok m =>
      if p.2.inStacks part (physLine m (va / 128) * 128) then p.2
      else
        let bs := bytesOf 8 (tag.toNat * 2 ^ 32 + 2)
        let s := match p.2.target (physLine m (va / 128) * 128) with
          | .damask pkg win ofs =>
            let q := p.2.newId
            q.2.send j.vf pkg opStore (win * 2 ^ 32 + ofs / 128 * 128 + va % 128) bs false (.access q.1)
          | _ => (List.range 8).foldl (fun s i => s.putGlobal j.vf m (va + i) (bs.getD i 0)) p.2
        s.irq j.vf 1#4

/-- The work of a partition's functions is gone: blocks, commands, counters, levels, jobs, waiting entries and records (R422). -/
def State.dropWork (s : State) (fs : List Nat) : State :=
  let bs := (s.blocks.filter (fun b => fs.contains b.vf)).map (·.bid)
  { s with
    blocks := s.blocks.filter (fun b => !fs.contains b.vf)
    counters := s.counters.filter (fun c => !fs.contains c.vf)
    launches := s.launches.filter (fun l => !fs.contains l.vf)
    graphs := s.graphs.filter (fun g => !fs.contains g.vf)
    phases := s.phases.filter (fun p => !fs.contains p.vf)
    jobs := s.jobs.filter (fun j => !fs.contains j.vf)
    due := s.due.filter (fun d => !fs.contains d.vf)
    pend := s.pend.filter (fun p => !bs.contains p.bid)
    rels := s.rels.filter (fun r => !(r.space != 0 && bs.contains (r.space - 1)))
    oplog := s.oplog.filter (fun o => !fs.contains o.vf)
    xq := s.xq.filter (fun c => !bs.contains c.bid)
    ccols := s.ccols.filter (fun c => !bs.contains c.bid)
    issue := s.issue.filter (fun p => !bs.contains p.1)
    pktFaults := s.pktFaults.filter (fun p => !fs.contains p.1) }

/-- A function of a reset partition: it keeps its registers but the job counts, its fault records are dropped, and a migration ends
(R422, R425).
[log 69: DEDUCED, unsafe] -/
def State.resetVf (s : State) (f : Nat) : State :=
  let moving := (s.vf f).migState != 0
  let s := s.modVf f fun v => { v with
    frecs := [], age := [], armed := false, migctl := if moving then v.migctl &&& ~~~0xF0#64 else v.migctl
    moved := none }
  if moving then s.irq f 8#4 else s

/-- Memory without the cells of some addresses. -/
def dropCells (m : List Host.Cell) (gone : Nat → Bool) : List Host.Cell := m.filter (fun c => !gone c.1)

/-- The dies of a partition after its reset: cores, clusters and the die's fence at reset, islands neither fenced nor throttled; its
stacks read 0 with tag P (R421, R422). What Muslin keeps of them, PART.DIEd, TWILL.FWd, PART.CLOWNc and the series' ring, stays.
[log 69: DEDUCED, unsafe] -/
def State.resetDies (s : State) (part : Nat) : State :=
  let ds := s.diesOf part
  let keep (isl : Nat) : Bool := !(decide (isl < 992) && ds.contains (isl / 124))
  let gone (pa : Nat) : Bool := s.inStacks part pa
  { s with
    mem := dropCells s.mem gone
    tags := s.tags.filter (fun l => !gone (128 * l))
    poisoned := s.poisoned.filter (fun l => !gone (128 * l))
    cores := s.cores.filter (fun c => !ds.contains (dieOf c.1))
    clusters := s.clusters.map fun c => if ds.contains (c.1 / 12) then (c.1, { Cluster.reset with clown := c.2.clown }) else c
    dies := s.dies.map fun d => if ds.contains d.1 then (d.1, { d.2 with counts := [], pool := 0, fenced := false }) else d
    islErr := s.islErr.filter (fun e => keep e.1)
    islFence := s.islFence.filter keep
    islThrottle := s.islThrottle.filter keep
    tripped := withIf false part s.tripped }

/-- PRESET (R413, R421, R422, R425): the partition's work is settled, then its dies come up again.
[log 69: DEDUCED, unsafe] -/
def State.preset (s : State) (part : Nat) : State :=
  let fs := s.vfsOf part
  let s := s.setUp part false
  let js := s.jobs.filter (fun j => fs.contains j.vf)
  let s := js.foldl (State.resetJob part) s
  let s := s.event (Config.eventCode 4).toNat 0 part
  let s := fs.foldl State.resetVf (s.dropWork fs)
  (s.resetDies part).setUp part true

/-- PRESET (R413): status 3 for a partition that holds no die. -/
def execPreset (m1 : Bool) (s : State) : Out :=
  monCall m1 0x07 8 s fun p _ => if (s.diesOf p).isEmpty then ⟨3, [], s⟩ else ⟨0, [], s.preset p⟩

/-! ### Firmware calls (R380, R384, R415, R419) -/

/-- SETQOS (R380): a WEIGHT of 0 is refused. -/
def execSetqos (s : State) : Out :=
  fwCall 0x10 functions s fun f v =>
    if v.toNat % 16 == 0 then ⟨3, [], s⟩ else ⟨0, [], s.modVf f fun x => { x with qos := v &&& 0xFFFF070F#64 }⟩

/-- SETOWN (R384): a function outside the cluster's partition is refused. -/
def execSetown (s : State) : Out :=
  fwCall 0x11 clusters s fun c v =>
    let f := v.toNat % 128
    if functions ≤ f || s.vfPart f != s.partOf (c / 12) then ⟨3, [], s⟩
    else ⟨0, [], s.modCluster c fun x => { x with clown := v &&& 0x1FF#64 }⟩

/-- The 64 bytes of an event-log record (R419). Where the code, the island and the partition stand in their 16 bytes is left open. -/
def EvRec.words (r : EvRec) : List DWord :=
  let h := Config.eventHead r.code r.island r.part
  r.time :: h.1 :: h.2 :: r.detail

/-- EVREAD (R415, R419). -/
def execEvread (s : State) : Out :=
  fwCall 0x12 (2 ^ 16) s fun _ v =>
    match s.evlog[v.toNat]? with
    | some r => ⟨0, r.words, s⟩
    | none => ⟨3, [], s⟩

/-- EVCOUNT (R415, R419). -/
def execEvcount (s : State) : Out :=
  fwCall 0x13 (2 ^ 16) s fun _ _ =>
    ⟨0, [BitVec.ofNat 64 s.evlog.length, match s.evlog.getLast? with | some r => r.time | none => 0], s⟩

/-! ### Module reset (R420, R421, R423, R424) -/

/-- The other bank boots when the selected one fails verification, or three boots of it in a row have failed (R420). -/
def State.bootBank (s : State) : Bool × Bool × State :=
  let ok := Config.bankVerifies s.free s.bankSel
  let alt := Config.bankVerifies (s.free + 1) (!s.bankSel)
  let s := { s with free := s.free + 2 }
  if ok && s.bootFails < 3 then (s.bankSel, true, s) else (!s.bankSel, alt, s)

/-- CXL ports enumerated, a failure logged (R424). -/
def State.enumerate (s : State) (n : Nat) : State :=
  (List.range 4).foldl (fun s p =>
    let r := Config.cxlPort n p &&& 0xFFFFFF03#64
    let s := { s with cxl := s.cxl.set p r }
    if r.getLsbD 1 then s.event (Config.eventCode 5).toNat 0 0 else s) s

/-- What a module reset leaves of the package before its boot: the event log, the banks' selection, the package number, what lies
outside the package, and the model's own counts.
[log 70: DEDUCED, unsafe] -/
def State.powered (s : State) : State :=
  { State.reset with
    mem := dropCells s.mem (fun a => a / 2 ^ 50 % 4 == 0)
    poisoned := s.poisoned.filter (fun l => 128 * l / 2 ^ 50 % 4 != 0)
    sent := s.sent, inbox := s.inbox, outbox := s.outbox, evlog := s.evlog, avcal := s.avcal, pkg := s.pkg
    bankSel := s.bankSel, bankRun := s.bankRun, bootFails := s.bootFails, resets := s.resets + 1, free := s.free, ids := s.ids
    ready := false, bringup := 0, partup := 0 }

/-- MODULE_RESET (R420, R421, R423): the whole package comes up in the order of the phases; a boot that does not reach READY counts
against its bank.
[log 70: DEDUCED, unsafe] -/
def execModuleReset (s : State) : Out :=
  .next (
    let p := s.powered.bootBank
    let s := p.2.2
    let s := if p.1 != s.bankRun then { s with bankRun := p.1, bankSel := p.1, bootFails := 0 }.event (Config.eventCode 3).toNat 0 0 else s
    if !p.2.1 then { s with bringup := 1 }
    else if Config.bootsReady s.resets p.1 then
      let s := s.enumerate s.resets
      { s with bootFails := 0, ready := true, bringup := 6, partup := 1 }
    else
      let q := s.pick 5
      { q.2 with bootFails := q.2.bootFails + 1, bringup := 1 + q.1 })

end Sys2Proof.Machine
end

