-- ==== Sys2Proof/Machine/Links.lean ====
section
/-! DEFINITION. Migration of a virtual device, Damask, the host link and CXL (R393-R407, R412). -/

namespace Sys2Proof.Config

/-- The execution state that another package sends when it moves a function here (R395): nothing is known of it. Log 32.
[log 32: DEDUCED, unsafe] -/
opaque freeExec : Nat → Machine.ExecState

end Sys2Proof.Config

namespace Sys2Proof.Machine

/-! ### Leaves (R239, R240, R396) -/

/-- The entry that gives a leaf: its place, level and value; from level l with table t. fuel is l + 1. -/
def pteFrom (m : List Host.Cell) (va : Nat) : Nat → Nat → Option (Nat × Nat × Nat)
  | 0, _ => none
  | l + 1, t =>
    let a := t + 8 * levelIdx l va
    let e := ofBytes (readBytes m a 8)
    if e % 2 == 0 || pteReserved e then none
    else if e / 2 % 2 == 1 then (if l ≤ 3 then some (a, l, e) else none)
    else pteFrom m va l (e / 2 ^ 7 % 2 ^ 45 * 2 ^ 7)

/-- The root of a function's tables. -/
def Vf.root (v : Vf) : Nat := v.ptroot.toNat / 2 ^ 12 % 2 ^ 40 * 2 ^ 12

/-- The entry of the leaf that maps an address of a function. -/
def State.pteAt (s : State) (vf va : Nat) : Option (Nat × Nat × Nat) :=
  if (s.vf vf).ptroot.getLsbD 0 then pteFrom s.mem va 6 (s.vf vf).root else none

/-- OWN of an entry (R239). -/
def pteOwn (e : Nat) : Nat := e / 2 ^ 54 % 4
/-- The frame of an entry. -/
def pteFrame (e : Nat) : Nat := e / 2 ^ 7 % 2 ^ 45 * 2 ^ 7

/-- OWN of a leaf written by a migration engine (R396); cached translations of the page are gone (R241, R397). -/
def State.setOwn (s : State) (vf va : Nat) (p : Nat × Nat × Nat) (own : Nat) : State :=
  let e := p.2.2 - pteOwn p.2.2 * 2 ^ 54 + own * 2 ^ 54
  let n := levelSize p.2.1
  (s.writeMem p.1 (bytesOf 8 e)).modVf vf fun v => { v with
    tlb := v.tlb.filter fun t => !(decide (t.va < va - va % n + n) && decide (va - va % n < t.va + t.size)) }

/-- Entries of a table of a level, and the bytes of VA one covers (R240). -/
def levelEntries (l : Nat) : Nat := match l with | 1 => 32 | 0 => 16 | _ => 512
def levelSpan (l : Nat) : Nat := match l with | 5 => 2 ^ 48 | 4 => 2 ^ 39 | _ => levelSize l

/-- The first address below a table whose leaf is Remote (R393, R396). fuel is l + 1. -/
def firstRemote (m : List Host.Cell) : Nat → Nat → Nat → Option Nat
  | 0, _, _ => none
  | l + 1, t, va =>
    (List.range (levelEntries l)).findSome? fun i =>
      let e := ofBytes (readBytes m (t + 8 * i) 8)
      if e % 2 == 0 || pteReserved e then none
      else if e / 2 % 2 == 1 then (if pteOwn e == 1 then some (va + levelSpan l * i) else none)
      else firstRemote m l (pteFrame e) (va + levelSpan l * i)

/-- The lowest page of a function that is Remote. -/
def State.remotePage (s : State) (vf : Nat) : Option Nat :=
  if (s.vf vf).ptroot.getLsbD 0 then firstRemote s.mem 6 (s.vf vf).root 0 else none

/-! ### VF.MIGCTL (R393, R405) -/

/-- PEER and SWEEP. -/
def Vf.peer (v : Vf) : BitVec 12 := v.migctl.extractLsb' 36 12
def Vf.sweep (v : Vf) : Bool := v.migctl.getLsbD 8

/-- VF.MIGCTL of its fields; CMD is write only. -/
def migWord (peer : BitVec 12) (sweep : Bool) (st : Nat) : DWord :=
  BitVec.ofNat 64 (peer.toNat * 2 ^ 36 + (if sweep then 256 else 0) + st % 16 * 16)

/-- A change of STATE. -/
def State.setMig (s : State) (vf st : Nat) : State :=
  (s.modVf vf fun v => { v with migctl := migWord v.peer v.sweep st }).irq vf 8#4

/-- A target with no Remote leaf left is complete (R397). -/
def State.settlePull (s : State) (vf : Nat) : State :=
  if (s.vf vf).migState == 4 && (s.remotePage vf).isNone then s.setMig vf 5 else s

/-- Every resident block of a function that is quiescing is saved (R394), a relaunched one again (R401). -/
def State.saveAll (s : State) (vf : Nat) : State :=
  ((s.blocks.filter (fun b => b.vf == vf && b.stoppable)).map (·.bid)).foldl State.beginSave s

/-- MIGRATE_SEND (R393, R394): a VF.MIGCTL write with CMD 1: STATE 1, and every resident block is saved. -/
def execMigrateSend (vf : Nat) (peer : BitVec 12) (sweep : Bool) (s : State) : Out :=
  .next (
    if functions ≤ vf || (s.vf vf).migState != 0 then s
    else
      let s := s.modVf vf fun v => { v with migctl := migWord peer sweep 0, armed := false, moved := none }
      (s.setMig vf 1).saveAll vf)

/-- Whether a function that is quiescing has come to rest (R394, R399, R401): no block on a core or to be relaunched, no operation in flight,
no collective, no line of a copy on its way to another package.
[log 32: DEDUCED, unsafe] -/
def State.quiesced (s : State) (vf : Nat) : Bool :=
  let mine (bid : Nat) : Bool := match s.block? bid with | some b => b.vf == vf | none => false
  !s.blocks.any (fun b => b.vf == vf
      && (b.resident || b.phase == .gone || b.killed || (match b.phase with | .relaunch _ => true | _ => false)))
    && !s.pend.any (fun p => mine p.bid) && !s.ccols.any (fun c => mine c.bid)
    && !s.oplog.any (fun o => o.vf == vf && s.awaitsResponse o.id) && !s.xq.any (fun c => mine c.bid && s.linesAway c.id)

/-- The execution state of a function (R395).
[log 32: DEDUCED, unsafe] -/
def State.execState (s : State) (vf : Nat) : ExecState :=
  let mine (bid : Nat) : Bool := match s.block? bid with | some b => b.vf == vf | none => false
  { vf := vf
    blocks := s.blocks.filter (fun b => b.vf == vf)
    counters := s.counters.filter (fun c => c.vf == vf)
    launches := s.launches.filter (fun l => l.vf == vf)
    graphs := s.graphs.filter (fun g => g.vf == vf)
    phases := s.phases.filter (fun p => p.vf == vf)
    jobs := s.jobs.filter (fun j => j.vf == vf)
    due := s.due.filter (fun d => d.vf == vf)
    oplog := s.oplog.filter (fun o => o.vf == vf)
    xq := s.xq.filter (fun c => mine c.bid)
    binds := if (s.vf vf).bindt.getLsbD 0 then (List.range (s.bindCount vf)).map (s.bindEntry vf) else []
    regs := s.vf vf
    ids := s.ids }

/-- The source side of a move goes on (R394): at rest it is ready to send; then it sends, and forwards. What it sends to its own package
arrives there. -/
def State.settleSource (s : State) (vf : Nat) : State :=
  match (s.vf vf).migState with
  | 1 =>
    let s := s.saveAll vf
    if s.quiesced vf then s.setMig vf 2 else s
  | 2 =>
    let e := s.execState vf
    let home : Bool := (s.vf vf).peer == s.pkg
    ({ s.dropWork [vf] with outbox := s.outbox ++ [e], inbox := if home then s.inbox ++ [e] else s.inbox } : State).setMig vf 3
  | _ => s

/-- MIGRATE_RECEIVE (R393, R394): a VF.MIGCTL write with CMD 2. -/
def execMigrateReceive (vf : Nat) (peer : BitVec 12) (sweep : Bool) (s : State) : Out :=
  .next (
    if functions ≤ vf || (s.vf vf).migState != 0 || s.blocks.any (fun b => b.vf == vf && b.resident) then s
    else s.modVf vf fun v => { v with migctl := migWord peer sweep 0, armed := true, moved := none })

/-- END_FORWARDING (R393, R400): a VF.MIGCTL write with CMD 3; the pages stay where PEER names. The PEER and SWEEP of the write itself are
stored by writeMigctl, which names the pages' place by the PEER before it.
[log 73: DEDUCED, unsafe] -/
def execEndForwarding (vf : Nat) (s : State) : Out :=
  .next (
    if functions ≤ vf || (s.vf vf).migState != 3 then s
    else (s.modVf vf fun v => { v with moved := some v.peer }).setMig vf 0)

/-! ### Arrival (R394, R395, R399) -/

/-- A binding table's entries written into the target's table (R302, R395). -/
def State.putBinds (s : State) (vf : Nat) (l : List (Nat × Nat × Nat)) : State :=
  if !(s.vf vf).bindt.getLsbD 0 then s
  else
    let at_ (i : Nat) : Nat := ringBase (s.vf vf).bindt + 32 * i
    (List.range (s.bindCount vf)).foldl (fun s i =>
      let e := l.getD i (0, 0, 0)
      s.writeMem (at_ i) (bytesOf 8 e.1 ++ bytesOf 8 e.2.1 ++ bytesOf 4 e.2.2 ++ bytesOf 12 0)) s

/-- Whether a waiter moves with the function: an access does, and replays. -/
def OpEntry.moves (o : OpEntry) : Bool := o.acc.isSome

/-- Whether the names of a function's state are none that this package has used, and its blocks stand on no core. -/
def ExecState.fresh (e : ExecState) (n : Nat) : Bool :=
  let ok (x : Nat) : Bool := decide (n ≤ x) && decide (x < e.ids)
  e.blocks.all (fun b => ok b.bid && (match b.phase with | .stopped _ => true | .relaunch _ => true | _ => false))
    && e.launches.all (fun l => ok l.obj) && e.graphs.all (fun g => ok g.obj) && e.phases.all (fun p => ok p.obj)
    && e.jobs.all (fun j => ok j.obj) && e.due.all (fun d => ok d.id) && e.xq.all (fun c => ok c.id)
    && e.oplog.all (fun o => ok o.id && o.acc.all (fun a => ok a.wid))

/-- The state of a function that another package sends, where none stands in the inbox: a free one, whose numbers this package has not used.
[log 32: DEDUCED, unsafe] -/
def State.arriving (s : State) (which : Nat) : Option ExecState :=
  match s.inbox[which]? with
  | some e => some e
  | none =>
    let e := Config.freeExec s.free
    if e.fresh s.ids then some e else none

/-- A block that arrives: it waits as a pre-empted one (R394). -/
def Block.arrived (vf : Nat) (b : Block) : Block :=
  { b with vf := vf, phase := match b.phase with | .relaunch o => .stopped o | p => p }

/-- EXECUTION_STATE_ARRIVAL (R394, R395, R399): the state of a function reaches its target; its blocks wait as pre-empted ones.
[log 32: DEDUCED, unsafe] -/
def execExecutionStateArrival (vf : Nat) (which : Nat) (s : State) : Out :=
  .next (
    match s.arriving which with
    | none => s
    | some e =>
      if functions ≤ vf || !(s.vf vf).armed then s
      else
        let s := { s with
          inbox := s.inbox.eraseIdx which
          ids := if s.ids < e.ids then e.ids else s.ids
          free := s.free + 1
          blocks := s.blocks ++ e.blocks.map (Block.arrived vf)
          counters := e.counters.map (fun (c : Counter) => { c with vf := vf }) ++ s.counters
          launches := s.launches ++ e.launches.map (fun (l : Launch) => { l with vf := vf })
          graphs := s.graphs ++ e.graphs.map (fun (g : Graph) => { g with vf := vf })
          phases := s.phases ++ e.phases.map (fun (p : PhaseObj) => { p with vf := vf })
          jobs := s.jobs ++ e.jobs.map (fun (j : Job) => { j with vf := vf })
          due := s.due ++ e.due.map (fun (d : Due) => { d with vf := vf, held := false })
          oplog := s.oplog ++ (e.oplog.filter OpEntry.moves).map (fun (o : OpEntry) => { o with vf := vf, replay := true })
          xq := s.xq ++ e.xq.map (fun (c : XCmd) => { c with lines := c.lines.map fun (l : XLine) => { l with held := false } }) }
        let s := s.modVf vf fun v => { v with
          acc := e.regs.acc, badw := e.regs.badw, ovf := e.regs.ovf, xvec := e.regs.xvec, wdog := e.regs.wdog
          pairctl := e.regs.pairctl, xbkt := e.regs.xbkt, tok := [], debt := [], armed := false }
        let s := ((s.putBinds vf e.binds).setMig vf 4).settlePull vf
        (e.oplog.filterMap (fun o => match o.waiter with | .disp r _ => some r | _ => none)).foldl State.dispRetry s)

/-! ### Pulling a page (R396-R398, R401) -/

/-- Whether a pull of a page is running. -/
def State.pulling (s : State) (vf va : Nat) : Bool := s.awaits.any (fun a => a.what == .pull vf va)

/-- The cause-5 records of a function within a page that are not answered. -/
def State.pageRecords (s : State) (vf lo n : Nat) : List Word :=
  ((s.vf vf).frecs.filter (fun r => r.cause == 5 && !r.answered && decide (lo ≤ r.page) && decide (r.page < lo + n))).map (·.seq)

/-- PAGE_PULL (R397): on a cause-5 fault of a page, or as the sweep's choice, the target asks the source for it. -/
def execPagePull (vf : Nat) (va : Addr) (s : State) : Out :=
  .next (
    let v := s.vf vf
    match s.pteAt vf va.toNat with
    | none => s
    | some p =>
      let n := levelSize p.2.1
      let lo := va.toNat - va.toNat % n
      let due := !(s.pageRecords vf lo n).isEmpty || (v.sweep && s.remotePage vf == some lo)
      if v.migState != 4 || pteOwn p.2.2 != 1 || s.cut.contains v.peer || s.pulling vf lo || !due then s
      else s.send vf v.peer.toNat opPull lo (bytesOf 1 p.2.1) false (.pull vf lo))

/-- Flits that follow a message's header (R406). -/
def flits (n : Nat) : BitVec 8 := BitVec.ofNat 8 (if n ≤ 224 then 0 else (n + 255) / 256)

/-- A response (R406); bad: its bytes are poisoned (R339). -/
def State.respond (s : State) (m : Msg) (stat : Nat) (peer : BitVec 12) (data : List Byte) (a : Bool) (bad : Bool := false) : State :=
  let r : Msg :=
    { dst := m.src, src := s.pkg, resp := true, op := m.op, vf := BitVec.ofNat 8 ioFunction, tag := m.tag, addr := m.addr,
      ndata := flits data.length, stat := BitVec.ofNat 8 stat, peer := peer, data := data, aTag := a, bad := bad }
  { s with sent := s.sent ++ [r] }

/-- The tag and poison of every line of a page, one byte a line. -/
def State.lineMarks (s : State) (pa n : Nat) : List Byte :=
  (List.range (n / 128)).map fun i =>
    BitVec.ofNat 8 ((if s.tag (pa + 128 * i) == .A then 1 else 0) + (if s.poisoned.contains (pa / 128 + i) then 2 else 0))

/-- The request message of a pull. -/
def State.pullMsg (s : State) (p : Pull) : Msg :=
  { dst := s.pkg, src := p.from_, resp := false, op := opPull, vf := BitVec.ofNat 8 p.vf, tag := p.tag, addr := p.va.setWidth 64, ndata := 0,
    stat := 0, peer := 0, data := [], aTag := false, bad := false }

/-- A pull that was begun is finished (R397): every act at a home is one step, so nothing on the page is half done. The leaf is given away
when it stands where the request says, and the pull fails otherwise. -/
def State.finishPull (s : State) (x : Pull) : State :=
  let s := { s with pulls := s.pulls.filter (· != x) }
  let m := s.pullMsg x
  match s.pteAt x.vf x.va.toNat with
  | none => s.respond m 3 0 [] false
  | some p =>
    let n := levelSize p.2.1
    if p.2.1 != x.level || x.va.toNat % n != 0 then s.respond m 3 0 [] false
    else
      let pa := pteFrame p.2.2
      (s.respond m 0 0 (s.readMem pa n ++ s.lineMarks pa n) false).setOwn x.vf x.va.toNat p 3

/-- PULL_REQUEST (R396-R398): a request for a page comes, and the page is Transferring, so that new accesses to it wait; the same step again
is the pull's end. A page the source does not forward, or that is Gone, is not pulled.
[log 81: DEDUCED, unsafe] -/
def execPullRequest (vf : Nat) (va : Addr) (level : Nat) (from_ : BitVec 12) (tag : BitVec 16) (s : State) : Out :=
  .next (
    let v := s.vf vf
    let x : Pull := { vf := vf, va := va, level := level, from_ := from_, tag := tag }
    if s.cut.contains from_ then s
    else if s.pulls.contains x then s.finishPull x
    else if v.migState != 3 || v.peer != from_ then s.respond (s.pullMsg x) 3 0 [] false
    else
      match s.pteAt vf va.toNat with
      | none => s.respond (s.pullMsg x) 3 0 [] false
      | some p =>
        if pteOwn p.2.2 == 0 then ({ s with pulls := x :: s.pulls } : State).setOwn vf va.toNat p 2
        else if pteOwn p.2.2 == 2 then { s with pulls := x :: s.pulls }
        else s.respond (s.pullMsg x) 3 0 [] false)

/-- The lines of a pulled page, with tags and poison, in its frame. -/
def State.putPage (s : State) (pa n : Nat) (data : List Byte) (aLines : List Bool) (poison : List Nat) : State :=
  let s := s.writeMem pa ((List.range n).map (fun i => data.getD i 0))
  let ls := List.range (n / 128)
  let s := ls.foldl (fun s i => s.setTag (pa + 128 * i) (aLines.getD i false)) s
  { s with poisoned := (ls.filter poison.contains).map (pa / 128 + ·)
      ++ s.poisoned.filter (fun l => !(decide (pa / 128 ≤ l) && decide (l < pa / 128 + n / 128))) }

/-- PULL_REPLY (R397, R401): a page comes to the target, or does not. -/
def execPullReply (vf : Nat) (va : Addr) (ok : Bool) (data : List Byte) (aLines : List Bool) (poison : List Nat) (s : State) : Out :=
  .next (
    let lo := va.toNat
    if !s.pulling vf lo || s.cut.contains (s.vf vf).peer then s
    else
      let s := { s with awaits := s.awaits.filter (fun a => a.what != Await.pull vf lo) }
      match s.pteAt vf lo with
      | none => s
      | some p =>
        let n := levelSize p.2.1
        let qs := s.pageRecords vf lo n
        let reply (f : State → OpEntry → State) (s : State) : State :=
          qs.foldl (fun s q => (s.attached vf q).foldl f (s.answered vf q)) s
        if !ok then reply State.failEntry s
        else
          let s := ((s.putPage (pteFrame p.2.2) n data aLines poison).setOwn vf lo p 0)
          (reply State.retryEntry s).settlePull vf)

/-! ### Damask (R400, R402, R406, R407) -/

/-- Bytes written at a home by another package or the host; bad: they are poisoned (R339). -/
def State.writeIo (s : State) (pa : Nat) (bs : List Byte) (bad : Bool := false) : State :=
  let s := ((s.writeMem pa bs).promotePa pa 0 engineTid).overwritten 0 pa bs.length
  if bad then s.poison (pa / 128) true
  else if bs.length == 128 && pa % 128 == 0 then s.poison (pa / 128) false
  else s

/-- A load's, a store's, an atomic's and an LTAG's request performed at its home for another package (R254, R406). -/
def State.serveLoad (s : State) (m : Msg) (pa : Nat) : State :=
  let bs := s.readMem (pa / 128 * 128) 128
  let n := m.data.length / 8
  let picked := (List.range n).map fun i => bs.getD (ofBytes ((m.data.drop (8 * i)).take 8) % 128) 0
  s.respond m 0 0 (if n == 0 then bs else picked) (s.tag pa == .A) (s.poisoned.contains (pa / 128))
def State.serveStore (s : State) (m : Msg) (pa : Nat) : State :=
  let a := s.tag pa == .A
  if a != m.aTag then s.respond m 3 0 [] a
  else if m.data.length == 9 then
    let v := ofBytes (m.data.take 8)
    let old := ofBytes (s.readMem pa 8)
    (s.writeIo pa (bytesOf 8 (if m.data.getD 8 0 == 0 then v else (old + v) % 2 ^ 64)) m.bad).respond m 0 0 [] a
  else (s.writeIo pa (m.data.take (128 - pa % 128)) m.bad).respond m 0 0 [] a
def State.serveAtom (s : State) (m : Msg) (pa : Nat) : State :=
  match AOp.ofCode ((m.data.getD 0 0).setWidth 4), Ty.ofCode ((m.data.getD 1 0).setWidth 5) with
  | some op, some t =>
    if s.tag pa == .A then s.respond m 3 0 [] true
    else if pa % (t.bits / 8) != 0 then s.respond m 3 0 [] false
    else
      let old := ofBytes (s.readMem pa (t.bits / 8))
      let new := aopNew op t old (ofBytes ((m.data.drop 2).take 8)) (ofBytes ((m.data.drop 10).take 8))
      let bad := s.poisoned.contains (pa / 128)
      let s := if new == old && !m.bad then s else s.writeIo pa (bytesOf (t.bits / 8) new) m.bad
      s.respond m 0 0 (bytesOf (t.bits / 8) old) false bad
  | _, _ => s.respond m 3 0 [] false
def State.serveLtag (s : State) (m : Msg) (pa : Nat) : State :=
  let a := s.tag pa == .A
  let stored := (s.target pa).tagged
  if m.data.isEmpty then s.respond m 0 0 [if stored then 1 else 0] a
  else if m.aTag && !stored then s.respond m 3 0 [] a
  else if a == m.aTag then s.respond m 0 0 [] a
  else ((s.setTag pa m.aTag).writeIo (pa / 128 * 128) (List.replicate 128 0) m.bad).respond m 0 0 [] m.aTag

/-- A request performed at its home for another package (R406). What its bytes mean is the model's.
[log 22: PRESUMED, unsafe] -/
def State.serve (s : State) (m : Msg) (pa : Nat) : State :=
  if m.op == opLoad then s.serveLoad m pa
  else if m.op == opStore then s.serveStore m pa
  else if m.op == opLtag then s.serveLtag m pa
  else s.serveAtom m pa

/-- Whether a request only reads. -/
def readsOnly (m : Msg) : Bool := m.op == opLoad || (m.op == opLtag && m.data.isEmpty)

/-- DAMASK_ACCESS (R396, R400, R402, R407): a request of another package, through an export window. One that meets a page that is
Remote or being transferred waits: the step leaves it to come again.
[log 81: DEDUCED, unsafe] -/
def execDamaskAccess (m : Msg) (s : State) : Out :=
  .next (
    if m.resp || m.dst != s.pkg || s.cut.contains m.src || !([opLoad, opStore, opAtom, opLtag].contains m.op) then s
    else
      let o := m.addr.toNat
      match s.windows.get none (o / 2 ^ 32) with
      | none => s.respond m 2 0 [] false
      | some (f, base) =>
        let v := s.vf f
        match v.moved with
        | some p => s.respond m 1 p [] false
        | none =>
          let va := (base + o % 2 ^ 32) % 2 ^ 57
          let q := s.leafOf ioDie f va
          match q.1 with
          | .error _ => q.2.respond m 3 0 [] false
          | .ok e =>
            match e.own with
            | 3 => q.2.respond m 1 v.peer [] false
            | 2 => s
            | 1 =>
              (q.2.faultRecord f (va / 4096 * 4096) 5 (if readsOnly m then 0 else 1) 0 0xFFFFF#32 0 0).2.settleRecords
            | _ =>
              let pa := e.pa + va % e.size
              let r := q.2.reach ioDie pa
              let here : Bool := match s.target pa with | .damask .. => false | _ => true
              if !r.1 || !here || (!readsOnly m && !e.w) then r.2.respond m 3 0 [] false else r.2.serve m pa)

/-- An entry of a commit performed in another package: it is matched there, and a RED that changed memory counts for the spin detector
(R53, R358). w: the commit waits for it. -/
def State.remoteEntry (s : State) (b : Block) (acc : Acc) (e : Entry) (w : Bool) (m : Msg) : State :=
  let s := match e.kind with
    | .red op t =>
      let old := ofBytes (m.data.take (t.bits / 8))
      let s := s.watchGlobal 6 4 e.va e.bytes.length b e.team e.site
      if aopNew op t old (ofBytes e.bytes) 0 == old then s else s.modBoth b.bid e.tid e.wid Thread.worked
    | .ltag .. => s.watchGlobal 5 4 (e.va / 128 * 128) 128 b e.team e.site
    | _ => s.watchGlobal 5 4 e.va e.bytes.length b e.team e.site
  if w then s.entriesDone acc.bid [e.eid] else s

/-- The act of an access at a home in another package is done: what it writes follows (R292, R300, R358, R406). -/
def State.remoteAct (s : State) (b : Block) (acc : Acc) (m : Msg) : State :=
  match acc.kind with
  | .atom d op t v cmp ord sc =>
    let old := ofBytes (m.data.take (t.bits / 8))
    let s := (s.eccLine b (acc.pa.getD 0) m.bad).watchGlobal 6 2 acc.a acc.n b acc.team acc.site
    let q := (s.atomSpin acc (aopNew op t old v cmp != old) (0, acc.a / 128)).atomSync acc b.core 0 (acc.pa.getD 0) ord sc
    q.2.2.addPendBoth acc (.regs (regWrites d (t.bits / 8) old .P) q.1 q.2.1)
  | .rel .. => (s.watchGlobal 5 1 acc.a 8 b acc.team acc.site).addPendBoth acc .nothing
  | .home e w => s.remoteEntry b acc e w m
  | _ => s

/-- An access whose line stands in another package has its answer: the act is done there, or the line's bytes and tag have come, and the
checks of the access with them (R237, R249, R254, R298, R299, R309, R38, R406). -/
def State.remoteDone (s : State) (b : Block) (acc : Acc) (m : Msg) : State :=
  let ty : TBit := if m.aTag then .A else .P
  let bs := acc.overlay ((m.data.drop (acc.a % 128)).take acc.n)
  if acc.homed then s.remoteAct b acc m
  else
    match acc.kind.tagFault acc.lt ty with
    | some f => s.failLate acc f
    | none =>
      match acc.kind with
      | .lnch _ => if (launchShape bs).isNone then s.failLate acc 0x70 else s.loaded b acc bs ty (acc.pa.getD 0) m.bad
      | .ltag a => if a && m.data.getD 0 0 == 0 then s.failLate acc 0x13 else s.carry acc [] ty
      | k => if k.loads then s.loaded b acc bs ty (acc.pa.getD 0) m.bad else s.carry acc [] ty

/-- The cause of the record of an access that a response turns away (R400, R407).
[log 33: DEDUCED, unsafe] -/
def statCause (m : Msg) : Nat := if m.stat == 1#8 then 6 else 4

/-- A response turns an access away (R400, R407): it waits for a reply, as at a page fault. A line whose tag has become another since the
check refuses a buffered store for good (R256), and an atomic with fault 0x21 (R298).
[log 33: DEDUCED, unsafe] -/
def State.remoteRefused (s : State) (b : Block) (acc : Acc) (m : Msg) : State :=
  let retagged (a : Bool) : Bool := m.stat == 3#8 && m.aTag != a
  let wait : State := (s.pageFault b acc (statCause m)).settleRecords
  match acc.kind with
  | .home e w =>
    (match e.kind with
     | .ltag .. => wait
     | _ =>
       if retagged e.appr && !e.merged then
         let s := s.lostStore b e
         if w then s.entriesDone acc.bid [e.eid] else s
       else wait)
  | .atom .. => if acc.homed && retagged false then s.failAccess acc 0x21 else wait
  | _ => wait

/-- The bytes of a source line that another package has answered with are the command's, up to those of the line that needs them. -/
def XCmd.takeBytes (c : XCmd) (ln : XLine) (m : Msg) : List Got :=
  let gone := ln.reads.filterMap fun x => match x.2 with
    | .global va => if (c.gotAt x.1).isNone then some (x.1, va) else none
    | .scr .. => none
  match gone with
  | [] => []
  | y :: _ =>
    (gone.filter (fun x => x.2 / 128 == y.2 / 128)).map fun x =>
      { off := x.1, val := m.data.getD (x.2 % 128) 0, bad := m.bad, ty := if m.aTag then .A else .P }

/-- A line of a collective's result that another package turns away: the command waits for a reply, and writes its result again (R271, R400). -/
def State.refuseCcol (s : State) (cmd line cause : Nat) : State :=
  match s.ccols.find? (fun c => c.id == cmd) with
  | none => s
  | some c =>
    match s.block? c.bid with
    | none => s
    | some b =>
      ({ s with ccols := s.ccols.map fun x => if x.id == cmd then { x with out := x.out.map (fun y => (y.1, false)) } else x } : State).holdCcol b
        c (128 * line) cause true

/-- Whether another message of a line that is written in another package is under way, or was refused and waits for a reply. -/
def State.lineOut (s : State) (cmd idx : Nat) : Bool :=
  s.awaits.any (fun w => w.what == .line cmd idx true) || s.oplog.any (fun o => o.waiter == .line cmd idx true)

/-- A line of an engine that another package has written, or answered with its bytes (R271, R402); one that is written is matched here
(R358) and lands with the last of its messages. -/
def State.remoteLine (s : State) (cmd idx : Nat) (write : Bool) (m : Msg) : State :=
  match s.xq.find? (fun c => c.id == cmd) with
  | none => if m.stat == 0 then s else s.refuseCcol cmd idx (statCause m)
  | some c =>
    match s.block? c.bid, c.lines.find? (fun l => l.idx == idx) with
    | some b, some ln =>
      let new := c.takeBytes ln m
      let page := if write then ln.writes.headD 0
        else (ln.reads.findSome? fun x => match x.2 with | .global va => if (c.gotAt x.1).isNone then some va else none | .scr .. => none).getD 0
      if m.stat == 3#8 && write && m.aTag != recA c.drec then s.failLine c 0x21
      else if m.stat != 0 then s.holdLine b c idx page (statCause m) write
      else if !write then
        let s := s.modLine cmd idx (fun l => { l with held := false })
        let s := { s with xq := s.xq.map fun (x : XCmd) => if x.id == cmd then x.take new else x }
        (s.landLine b cmd idx false).2
      else if s.lineOut cmd idx then s
      else (s.watchLine b c.team c.site ((ln.written c).map (·.1))).lineLanded c ln
    | _, _ => s

/-- A code line that another package has answered, or the record of its failure (R75, R244). -/
def State.remoteFetch (s : State) (bid tid : Nat) (m : Msg) : State :=
  match s.block? bid, s.thread? bid tid with
  | some b, some t =>
    match (distinct ((s.clauseOf b t).map (fun a => a.toNat / 128))).filter (fun l => (s.codeLine b (BitVec.ofNat 57 (128 * l))).isNone) with
    | [] => s
    | l :: _ => if m.stat != 0 then s.fetchFault b tid (128 * l) (statCause m) else s.putCode b l (if m.aTag then .A else .P) m.data
  | _, _ => s

/-- DAMASK_RESPONSE (R400, R406, R407): the response that a waiting access, fetch or line awaits. -/
def execDamaskResponse (m : Msg) (s : State) : Out :=
  .next (
    if !m.resp || m.dst != s.pkg || s.cut.contains m.src then s
    else
      match s.awaits.find? (fun a => a.tag == m.tag && a.peer == m.src) with
      | none => s
      | some w =>
        let s' := { s with awaits := s.awaits.filter (fun a => !(a.tag == m.tag && a.peer == m.src)) }
        match w.what with
        | .pull .. => s
        | .line cmd idx write => s'.remoteLine cmd idx write m
        | .access op =>
          match s'.oplog.find? (fun o => o.id == op) with
          | none => s'
          | some o =>
            let s' := s'.dropWaiter op
            match o.acc, o.waiter with
            | some acc, _ =>
              (match s'.block? acc.bid with
               | none => s'
               | some b =>
                 if m.stat != 0 then s'.remoteRefused b acc m else s'.remoteDone b acc m)
            | none, .fetch bid tid => s'.remoteFetch bid tid m
            | none, .disp r va => s'.dispAnswer o.vf r va m (statCause m)
            | none, _ => s')

/-- DAMASK_PARTITION (R401): the links to another package are lost or restored.
[log 80: DEDUCED, unsafe] -/
def execDamaskPartition (peer : BitVec 12) (up : Bool) (s : State) : Out :=
  .next { s with cut := if up then s.cut.filter (· != peer) else peer :: s.cut.filter (· != peer) }

/-! ### The host link and CXL (R403, R412) -/

/-- HOST_MEM_ACCESS (R403): the host reads or writes device memory; a read leaves the machine as it is. -/
def execHostMemAccess (pa : Nat) (write : Option (List Byte)) (_len : Nat) (s : State) : Out :=
  .next (
    let ok (a : Nat) : Bool := match s.target a with | .hbm _ => true | .tier2 => true | _ => false
    match write with
    | none => s
    | some bs => if ok pa && ok (pa + bs.length - 1) && !bs.isEmpty then s.writeIo pa bs else s)

/-- Whether a physical address lies behind a CXL port. -/
def State.behind (s : State) (port pa : Nat) : Bool := s.target pa == .cxl port

/-- A read that waits for a line behind a port that has dropped fails its translation (R412). -/
def State.loseRead (s : State) (p : Pend) (acc : Acc) : State :=
  match s.block? acc.bid with
  | none => s
  | some b => (({ s with pend := s.pend.filter (fun x => x.id != p.id) } : State).pageFault b acc 4).settleRecords

/-- CXL_LINK_DOWN (R412, R424): a port drops its link: UP clears, and pending accesses to it fail with cause 4.
[log 80: DEDUCED, unsafe] -/
def execCxlLinkDown (port : Nat) (s : State) : Out :=
  .next (
    if 4 ≤ port then s
    else
      let lost := s.pend.filterMap fun p => match p.acc with
        | some acc => if acc.kind.recKind == 0 && (match acc.pa with | some pa => s.behind port pa | none => false) then some (p, acc) else none
        | none => none
      let s := { s with cxl := s.cxl.set port (s.cxl.get 0 port &&& ~~~1#64) }
      lost.foldl (fun s x => s.loseRead x.1 x.2) s)

end Sys2Proof.Machine
end

