-- ==== Sys2Proof/Machine/Registers.lean ====
section
/-! DEFINITION. Writes of registers through the function pages, the management page and the debug port (R30, R238, R245-R247, R281,
R302, R333, R345, R347, R352, R356, R358-R372, R374, R393, R404, R405, R407, R414-R416). -/

namespace Sys2Proof.Machine

/-! ### A function's page (R404) -/

/-- VF.FQBASE, VF.FLBASE or VF.BINDT takes a value (R246): its reserved bits are 0 and LOG2N is 7 to 15. -/
def ringTakes (v : DWord) : Bool :=
  bitsOf v 63 52 == 0 && bitsOf v 11 8 == 0 && bitsOf v 3 1 == 0 && decide (7 ≤ bitsOf v 7 4)

/-- TS.RINGd takes a value (R246): its reserved bits are 0 and LOG2N is 4 to 15. -/
def seriesTakes (v : DWord) : Bool :=
  bitsOf v 63 52 == 0 && bitsOf v 11 8 == 0 && bitsOf v 3 0 == 0 && decide (4 ≤ bitsOf v 7 4)

/-- VF.DMKEXP written (R407): a write to a window held by another function is discarded; EN opens the window or closes it. -/
def State.writeExport (s : State) (f : Nat) (v : DWord) : State :=
  let w := bitsOf v 8 3
  let other : Bool := match s.windows.get none w with | some (g, _) => g != f | none => false
  if other then s
  else
    let s := s.modVf f fun x => { x with dmkexp := v &&& 0x01FFFFFF000001F9#64 }
    { s with windows := s.windows.set w (if v.getLsbD 0 then some (f, bitsOf v 56 32 * 2 ^ 32) else none) }

/-- VF.MIGCTL written (R393): a write whose CMD fits STATE stores PEER and SWEEP.
[log 73: DEDUCED, unsafe] -/
def writeMigctl (f : Nat) (v : DWord) (s : State) : Out :=
  let peer : BitVec 12 := v.extractLsb' 36 12
  let stores (s' : State) : State :=
    if (s.vf f).migState != 3 then s' else s'.modVf f fun x => { x with migctl := migWord peer (v.getLsbD 8) x.migState }
  match v.toNat % 16 with
  | 1 => execMigrateSend f peer (v.getLsbD 8) s
  | 2 => execMigrateReceive f peer (v.getLsbD 8) s
  | 3 => (match execEndForwarding f s with | .next s' => .next (stores s') | o => o)
  | _ => .next s

/-- A write of a register of function f's page (R404).
[log 60: DEDUCED, unsafe] [log 73: DEDUCED, unsafe] [log 75: DEDUCED, unsafe] -/
def writeVf (f off : Nat) (v : DWord) (s : State) : Out :=
  let set (g : Vf → Vf) : Out := .next (s.modVf f g)
  match off with
  | 0x000 => execSubmit f v s
  | 0x008 => set fun x => { x with badw := x.badw && !v.getLsbD 1, ovf := x.ovf && !v.getLsbD 0 }
  | 0x010 => set fun x => { x with ptroot := v &&& 0x000FFFFFFFFFF001#64, moved := none }
  | 0x018 =>
    (match v.toNat % 4 with
     | 1 => execTlbinvVa f ((v &&& 0x01FFFFFFFFFFF000#64).setWidth 57) s
     | 2 => execTlbinvAll f s
     | _ => .next s)
  | 0x020 => if ringTakes v then .next (flushRing f 32768 (s.modVf f fun x => { x with fqbase := v })) else .next s
  | 0x028 => .next (flushRing f 32768 (s.modVf f fun x => { x with fqhead := highWord v }))
  | 0x030 =>
    (match v.toNat % 4 with
     | 1 => execFqrspRetry f (highWord v) s
     | 2 => execFqrspFail f (highWord v) s
     | _ => .next s)
  | 0x038 => if ringTakes v then set fun x => { x with flbase := v } else .next s
  | 0x040 => set fun x => { x with flhead := v.extractLsb' 33 31, fllost := x.fllost && !v.getLsbD 32 }
  | 0x048 => set fun x => { x with xvec := v &&& 0x01FFFFFFFFFFFFF9#64 }
  | 0x050 => let n := v.toNat % 64; if n == 0 || (20 ≤ n && n ≤ 40) then set fun x => { x with wdog := n } else .next s
  | 0x058 => if 1 ≤ v.toNat % 512 && v.toNat % 512 ≤ 256 then set fun x => { x with pairctl := v &&& 0xF1FF#64 } else .next s
  | 0x060 => if ringTakes v then set fun x => { x with bindt := v } else .next s
  | 0x068 => set fun x => { x with xbkt := v &&& 0x00FFFFFF0000FFFF#64 }
  | 0x080 => writeMigctl f v s
  | 0x088 => set fun x => { x with isr := x.isr &&& ~~~(v.setWidth 4) }
  | 0x090 => .next (s.writeExport f v)
  | _ => .next s

/-! ### The management page (R414, R415) -/

/-- Call codes of the monitor and of the firmware (R413, R415). -/
def monCodes : List Nat := [1, 2, 3, 4, 5, 6, 7]
def fwCodes : List Nat := [0x10, 0x11, 0x12, 0x13]

/-- A call register written (R415): discarded while GO reads 1; a code that names no call ends at once with status 3.
[log 72: DEDUCED, unsafe] -/
def Mailbox.write (m : Mailbox) (codes : List Nat) (v : DWord) : Mailbox :=
  if m.go then m
  else
    let n := { m with call := (v &&& ~~~0xFF#64) ||| (m.call &&& 0xFF#64) }
    if n.go && !codes.contains n.code then n.finish 3 [] else n

/-- A write of the management page, as the host or M1 makes it (R413, R414). -/
def State.writePage (s : State) (m1 : Bool) (off : Nat) (v : DWord) : State :=
  match off with
  | 0x000 => s.setMon m1 ((s.mon m1).write monCodes v)
  | 0x008 => s.setMon m1 { s.mon m1 with arg := v }
  | 0x040 => { s with fwBox := s.fwBox.write fwCodes v }
  | 0x048 => { s with fwBox := { s.fwBox with arg := v } }
  | _ => s

/-! ### The debug port (R356, R358-R372, R374, R416) -/

/-- DBG.WPCk takes a value: its bytes lie in one line (R358).
[log 74: DEDUCED, unsafe] -/
def Cluster.takesWpc (c : Cluster) (k : Nat) (v : DWord) : Bool := decide (bitsOf (c.wpa.get 0 k) 6 0 + bitsOf v 23 16 < 128)

/-- A write in a cluster's window (R416).
[log 74: DEDUCED, unsafe] -/
def writeCluster (cl off : Nat) (v : DWord) (s : State) : Out :=
  match off with
  | 0x000 =>
    let s := s.modCluster cl fun c => { c with bken := v.getLsbD 0 }
    if v.getLsbD 1 then execDebugResume cl s else .next s
  | 0x008 => if v.getLsbD 0 then execStopRequest cl s else .next s
  | 0x010 => execDebugKill cl v s
  | 0x018 => execDebugStep cl v s
  | 0x040 => .next (s.modCluster cl fun c => { c with shsel := v &&& 0x000000FFF8F000FF#64 })
  | 0x048 => execShadowWrite cl v s
  | _ =>
    if off / 0x40 == 4 then .next (s.modCluster cl fun c => { c with wpa := c.wpa.set (off % 0x40 / 8) (v &&& 0x01FFFFFFFFFFFFFF#64) })
    else if off / 0x40 == 5 then
      let k := off % 0x40 / 8
      .next (if (s.cluster cl).takesWpc k v then s.modCluster cl fun c => { c with wpc := c.wpc.set k (v &&& 0x0000FF0000FF00F3#64) } else s)
    else .next s

/-- Every die changed alike. -/
def State.allDies (s : State) (f : Die → Die) : State := (List.range 8).foldl (fun s d => s.modDie d f) s

/-- TS.CTL written (R374): setting EN starts the series at SEQ 0, clearing it stops the counters.
[log 67: DEDUCED, unsafe] -/
def State.writeSeries (s : State) (v : DWord) : State :=
  let k := bitsOf v 12 8
  let on := s.tsCtl.getLsbD 0
  if k < 10 || 24 < k || (on && k != bitsOf s.tsCtl 12 8) then s
  else
    let s := { s with tsCtl := v &&& 0x1F01#64 }
    if v.getLsbD 0 && !on then
      let t := (s.refClk / 2 ^ k + 1) * 2 ^ k
      s.allDies fun d => { d with tsTail := 0, tsNext := t, counts := [] }
    else if !v.getLsbD 0 then s.allDies fun d => { d with counts := [] }
    else s

/-- VF.DBGPIN takes a value for function f (R356). -/
def State.takesPin (s : State) (f : Nat) (v : DWord) : Bool :=
  !v.getLsbD 11 || (v.toNat % 16 != 0 && decide (bitsOf v 7 4 ≤ 11) && s.partOf (bitsOf v 10 8) == s.vfPart f)

/-- A write in the package window (R416).
[log 60: DEDUCED, unsafe] -/
def State.writePackage (s : State) (off : Nat) (v : DWord) : State :=
  let d := off % 0x40 / 8
  if off == 0x60000 then s.writeSeries v
  else if off / 0x40 == 0x60100 / 0x40 then (if seriesTakes v then s.modDie d fun x => { x with tsRing := v } else s)
  else if off / 0x40 == 0x60140 / 0x40 then
    s.modDie d fun x => { x with tsHead := v.extractLsb' 33 31, tsLost := x.tsLost && !v.getLsbD 32 }
  else if 0x61000 ≤ off && off < 0x61300 then
    let f := (off - 0x61000) / 8
    if s.takesPin f v then s.modVf f fun x => { x with pin := v &&& 0xFFF#64 } else s
  else s

/-! ### REGISTER_WRITE -/

/-- REGISTER_WRITE (R246, R404, R414, R416): an 8-byte register written; a write to an offset that holds none, or to a register that
is read only there, is discarded. -/
def execRegisterWrite (page : RegPage) (off : Nat) (v : DWord) (s : State) : Out :=
  if off % 8 != 0 then .next s
  else
    match page with
    | .vf f => if functions ≤ f then .next s else writeVf f off v s
    | .bar2 => .next (s.writePage false off v)
    | .m1 => .next (s.writePage true off v)
    | .bar4 => if off < 0x60000 then writeCluster (off / 0x1000) (off % 0x1000) v s else .next (s.writePackage off v)

end Sys2Proof.Machine
end

