-- ==== Sys2Proof/Machine/Agents.lean ====
section
/-! DEFINITION. The agents that act on their own: time passing, what settles by itself before a step, and which whole steps can come
next. -/

namespace Sys2Proof.Machine

/-- Time of a thread's waits: the remaining cycles of SLEEP, and of RJW unless the debug agent halts the thread (R60, R158). -/
def Thread.pass (t : Thread) (dt : Nat) : Thread :=
  match t.park with
  | .sleep n => if t.halted then t else { t with park := .sleep (n - dt) }
  | .rjw i e n => if t.halted then t else { t with park := .rjw i e (n - dt) }
  | _ => t

/-- Whether a block counts for its launch's hang watchdog (R352): resident, neither throttled nor in a save, nor halted by the
debug agent. -/
def State.counted (s : State) (b : Block) : Bool :=
  b.phase == .resident && !b.killed && !(s.core b.core).throttled && !(b.threads.any (fun t => t.halted))
    && !(s.cluster (clusterOf b.core)).stop

/-! ### Time -/

/-- The reference count at the next latch of a die that has not latched (R374); none while sampling is off. -/
def State.nextLatch (s : State) : Option Nat :=
  if !s.tsCtl.getLsbD 0 then none
  else
    (((List.range 8).map fun d => (s.die d).tsNext).filter (fun t => decide (s.refClk ≤ t))).foldl
      (fun m t => match m with | some x => some (if t < x then t else x) | none => some t) none

/-- Cycles that pass at a step: not beyond one on which the dies latch, before they have (R374). -/
def State.passes (s : State) : Nat :=
  let dt := Config.elapse s.free
  match s.nextLatch with
  | some t => if s.refClk + dt < t then dt else t - s.refClk
  | none => dt

/-- Busy cycles of the engines, and cycles of a die with a throttled island, count (R375): C6, X0, D7. -/
def State.countTime (s : State) (dt : Nat) : State :=
  if !s.tsCtl.getLsbD 0 then s
  else
    let s := (s.cores.filter (fun c => c.2.mq.any (fun m => m.started.isSome))).foldl (fun s c => s.count (dieOf c.1) (cKey c.1 6) dt) s
    let busy := distinct ((s.xq.filter (fun c => c.accepted && c.ended.isNone)).map (fun c => clusterOf (s.coreOf c.bid)))
    let s := busy.foldl (fun s c => s.count (c / 12) (xKey c 0) dt) s
    let hot := distinct ((s.islThrottle.filter (fun i => decide (i < 992))).map (fun i => i / 124))
    hot.foldl (fun s d => s.count d (dKey 7) dt) s

/-- An error arises in a store that ECC protects and cannot correct, at any time and place (R339, R343): a line of memory, an entry of a
share, an element of an accumulator store, a granule of a scratchpad, an entry of an operand log. Its reader consumes it. It arises
as an agent acts; within a packet, which issues in one cycle, none does.
[log 31: DEDUCED, unsafe] -/
def State.struck (s : State) : State :=
  match Config.upset s.free with
  | none => s
  | some (kind, a, x) =>
    match kind % 5 with
    | 0 => s.poison a true
    | 1 => { s with blocks := s.blocks.map fun b => { b with share := b.share.map fun e => if e.eid == a then { e with bad := true } else e } }
    | 2 => s.modCore a fun k => { k with badElems := (x / 1024, x % 1024) :: k.badElems }
    | 3 => s.modBlock a fun b => { b with badScr := if 128 * x < b.pbytes then x :: b.badScr else b.badScr }
    | _ => { s with oplog := s.oplog.map fun o => if o.id == a then { o with bad := true } else o }

/-- Muslin's firmware sets how many errors of an island, within how many cycles, fence it (R344), at any time and to any values.
[log 62: DEDUCED, unsafe] -/
def State.tuned (s : State) : State :=
  match Config.firmwareFence s.free with
  | none => s
  | some (n, t) => { s with fenceAt := n, fenceIn := t }

/-- Time passes at a step: the reference count, the waits of resident blocks, the watchdogs' counts (R60, R94, R352); on the cycle of a
latch the dies are due to latch (R374). A block that is being saved is not resident for the count of an RJW. The number of cycles is left
open (log 3).
[log 3: DESIGN CHOICE, unsafe] [log 95: DEDUCED, unsafe] -/
def State.elapsed (s : State) : State :=
  let dt := s.passes
  let latches : List Instr := if s.nextLatch == some (s.refClk + dt) && dt != 0 then (List.range 8).map Instr.tsLatch else []
  let s := s.countTime dt
  { s with
    free := s.free + 1
    refClk := s.refClk + dt
    agenda := s.agenda ++ latches
    blocks := s.blocks.map fun b =>
      if b.phase == .resident then { b with threads := b.threads.map (fun t => t.pass dt) } else b
    launches := s.launches.map fun l =>
      if s.blocks.any (fun b => b.launch == l.obj && s.counted b) then { l with count := l.count + dt } else l }

/-! ### What settles by itself -/

/-- What a parked thread waits for has come about: it runs on (R45, R57, R60, R158, R268, R303). -/
def State.settlePark (s : State) (bid tid : Nat) (b : Block) (t : Thread) : State :=
  let run (s : State) : State := s.setThread bid tid { t with park := .running }
  match t.park with
  | .rjw id e _ =>
    (match b.gangs[gangOf tid]? with
     | some g => if g.covers id e then run s else s
     | none => s)
  | .awt _ o pos gen _ =>
    (match s.block? o with
     | some x =>
       (match awtFinds (x.word pos) gen with
        | some (ok, sts) => s.setThread bid tid (t.awake ok sts (s.learn (1 + o) pos .sys bid b.core))
        | none => s)
     | none => s)
  | .fence .. => s.settleFence b tid t
  | .cwtVal .. => s.settleCwt b tid t
  | .cwtDone .. => s.settleCwt b tid t
  | .lnch =>
    if s.due.any (fun d => match d.what with
      | .lnch x y pc op => x == bid && y == tid && (op.isSome || (pc == t.pc && !s.dueNext d))
      | _ => false) then s else run s
  | .handle h => (match t.hand h with | .pending .. => s | _ => run s)
  | .pairPartner => if b.offers.any (fun o => o.tid == tid) then run s else s
  | _ => s

/-- A parked thread whose wait is over runs on, or its operation goes on (R38, R58, R165, R167, R178, R268, R303, R330, R359). -/
def State.settleThread (bid : Nat) (s : State) (tid : Nat) : State :=
  match s.block? bid, s.thread? bid tid with
  | some b, some t =>
    if t.life != .live then s
    else
      let s := s.settlePark bid tid b t
      match s.block? bid, s.thread? bid tid with
      | some b, some t => s.settleHalt b tid t
      | _, _ => s
  | _, _ => s

/-- A BAR whose threads have all arrived, and a CKPT whose threads have, in both copies, go on (R304, R332). -/
def State.settleMeet (s : State) (bid : Nat) : State :=
  match s.block? bid with
  | none => s
  | some b =>
    let s := if s.barReady b then s.endBar b else s
    if !b.trailing && s.ckptGo b then
      let s := s.startCkpt b
      match b.partner.bind s.block? with
      | some x => s.startCkpt x
      | none => s
    else s

/-- Whether a copy has left a signature of the other unmatched for good, its thread having exited with fewer of them (R331), or an operation
that the other copy presents (R330). -/
def State.fewer (s : State) (l : Block) : Bool :=
  let trail := l.partner.bind s.block?
  let gone (o : Option Block) (tid : Nat) (p : Thread → Bool) : Bool :=
    match o.bind (fun x => x.thread? tid) with | some t => t.life == .exited && p t | none => false
  l.sigs.any (fun x => gone (if x.side then some l else trail) x.tid (fun t => decide (t.nsig ≤ x.n)))
    || l.offers.any (fun o => gone (some l) o.tid (fun _ => true))
    || (List.range l.threads.length).any (fun i =>
      (match l.thread? i with | some t => t.park == .pairPartner | none => false)
        && !l.offers.any (fun o => o.tid == i) && gone trail i (fun _ => true))

/-- A block's threads, its meetings and its commits settle. -/
def State.settleWork (s : State) (b : Block) : State :=
  let s := if b.phase == .resident && !b.killed then (List.range b.threads.length).foldl (State.settleThread b.bid) s else s
  let s := if b.phase == .resident && !b.killed then s.settleMeet b.bid else s
  if b.commits.isEmpty then s else State.advance b.bid commitFuel s

/-- A block's errors settle, with the signatures left unmatched for good. -/
def State.settleFaults (s : State) (b : Block) : State :=
  let s := if b.errs.isEmpty then s else s.settleErrors b.bid
  let told := s.agenda.any (fun i => match i with | .ueConsumed x _ _ => x == b.bid | _ => false)
  if !b.trailing && !b.killed && b.errs.isEmpty && !told && s.fewer b then s.consumes b.bid 0x90 0 else s

/-- A block settles: its work, its errors, what it no longer holds. -/
def State.settleBlock (s : State) (bid : Nat) : State :=
  match s.block? bid with
  | none => s
  | some b =>
    let s := s.settleWork b
    match s.block? bid with
    | none => s
    | some b =>
      let s := (s.freeEnded b).settleFaults b
      if b.phase == .gone && b.commits.isEmpty && !s.hasCommands b then s.removeBlock b else s

/-- Everything that comes about by itself between steps. -/
def State.settle (s : State) : State :=
  let s := (s.blocks.map (·.bid)).foldl State.settleBlock s
  let s := ((s.cores.filter (fun c => !c.2.mq.isEmpty)).map (·.1)).foldl State.settleEngine s
  let s := (s.clusters.map (·.1)).foldl (fun s c => ((s.settleStep c).settleKilled c).settleLoan c) s
  let s := (s.vfs.map (·.1)).foldl (fun s f => (s.settleSource f).settlePull f) s.settleAges
  let s := { s with due := s.due.filter s.dueStands }
  s.freeCounters

/-- What a step begins with: time passes, and what settles by itself settles. -/
def State.tick (s : State) : State := s.elapsed.settle

/-! ### What the outside world may do next, with free values (log 1) -/

/-- Free value k of the present step; value 0 is the choice between the steps. -/
def State.wild (s : State) (k : Nat) : DWord := Config.freeWord (s.free + 1 + k)
/-- n free bytes from value k. -/
def State.wildBytes (s : State) (k n : Nat) : List Byte := (List.range n).map fun i => (s.wild (k + i)).setWidth 8
/-- A free Bool. -/
def State.wildBool (s : State) (k : Nat) : Bool := (s.wild k).getLsbD 0
/-- A free number below n. -/
def State.wildNat (s : State) (k n : Nat) : Nat := (s.wild k).toNat % n

/-- A free message, a response to tag when one is given. -/
def State.wildMsg (s : State) (resp : Option Awaited) : Msg :=
  let base : Msg :=
    { dst := s.pkg, src := (s.wild 2).setWidth 12, resp := false, op := (s.wild 3).setWidth 7, vf := (s.wild 4).setWidth 8,
      tag := (s.wild 5).setWidth 16, addr := s.wild 6, ndata := (s.wild 7).setWidth 8, stat := (s.wild 8).setWidth 8,
      peer := (s.wild 9).setWidth 12, data := s.wildBytes 16 (s.wildNat 10 1024), aTag := s.wildBool 11, bad := s.wildBool 12 }
  match resp with
  | none => base
  | some a => { base with resp := true, src := a.peer, tag := a.tag }

/-- Writes of registers, doorbells and calls.
[log 17: DEDUCED, safe] -/
def State.hostSteps (s : State) : List Instr :=
  let f := s.wildNat 0 functions
  let v := s.wild 1
  let off := 8 * s.wildNat 2 131072
  [.submit f (v &&& 0x01FFFFFFFFFFFFC0#64), .submit f v, .registerWrite (.vf f) (off % 0x200) v, .registerWrite .bar2 (off % 0x1000) v,
   .registerWrite .m1 (off % 0x1000) v, .registerWrite .bar4 off v, .tlbinvVa f (v.setWidth 57), .tlbinvAll f,
   .migrateSend f (v.setWidth 12) (s.wildBool 3), .migrateReceive f (v.setWidth 12) (s.wildBool 3), .endForwarding f,
   .hostMemAccess (s.wildNat 4 (2 ^ 50)) (if s.wildBool 5 then some (s.wildBytes 16 (s.wildNat 6 4096)) else none) 64,
   .moduleReset, .setqos, .setown, .evread, .evcount]
  ++ [true, false].flatMap (fun m => [.setdie m, .setvf m, .setfw m, .inj m, .measure m, .bank m, .preset m])

/-- What the debug agent does on a cluster.
[log 17: DEDUCED, safe] -/
def State.debugSteps (s : State) : List Instr :=
  let c := s.wildNat 0 Machine.clusters
  let v := s.wild 1
  [.debugStep c v, .debugResume c, .stopRequest c, .debugKill c v, .shadowRead c, .shadowWrite c v, .watchpointMatch c]
  ++ (List.range Machine.clusters).map (fun c => .stopRecordDone c)

/-- What comes over the links.
[log 17: DEDUCED, safe] -/
def State.linkSteps (s : State) : List Instr :=
  let f := s.wildNat 0 functions
  [.damaskAccess (s.wildMsg none), .damaskPartition ((s.wild 1).setWidth 12) (s.wildBool 2), .cxlLinkDown (s.wildNat 1 4),
   .pullRequest f ((s.wild 1).setWidth 57) (s.wildNat 2 4) ((s.wild 3).setWidth 12) ((s.wild 4).setWidth 16)]
  ++ s.awaits.flatMap (fun a => match a.what with
      | .pull f va =>
        [.pullReply f (BitVec.ofNat 57 va) false [] [] [],
         .pullReply f (BitVec.ofNat 57 va) true (s.wildBytes 16 (2 ^ 30)) ((List.range (2 ^ 23)).map (fun i => s.wildBool (16 + 2 ^ 30 + i)))
           ((List.range (2 ^ 23)).filter (fun i => s.wildBool (16 + 2 ^ 31 + i)))]
      | _ => [.damaskResponse (s.wildMsg (some a))])
  ++ s.pulls.map (fun p => .pullRequest p.vf p.va p.level p.from_ p.tag)
  ++ (List.range (s.inbox.length + 1)).map (fun i => .executionStateArrival f i)
  ++ s.vfs.flatMap (fun v =>
      (match s.remotePage v.1 with | some va => [Instr.pagePull v.1 (BitVec.ofNat 57 va)] | none => [])
        ++ v.2.frecs.map (fun r => .pagePull v.1 (BitVec.ofNat 57 r.page)))

/-- What faults, sensors and clocks do.
[log 17: DEDUCED, safe] -/
def State.envSteps (s : State) : List Instr :=
  [.sensorReport (s.wildNat 0 islands) (s.wildBool 1) (s.wildBool 2), .arbiterAgeTick]
  ++ (List.range 8).flatMap (fun d => [.tokenRefill d, .dispatchAgeTick d, .tsLatch d])
  ++ s.blocks.flatMap (fun b =>
      [.ueConsumed b.bid 0x91#8 (s.wildNat 0 islands), .ueConsumed b.bid 0x92#8 (coreIsland b.core),
       .ueConsumed b.bid 0x93#8 (coreIsland b.core), .scratchUe b.bid (coreIsland b.core)])

/-! ### What the machine's own agents may do next -/

/-- The dispatcher's levels, jobs and launches. -/
def State.levelSteps (s : State) : List Instr :=
  s.jobs.map (fun j => .jobStart j.vf) ++ s.due.map (fun d => .levelStart d.id)
  ++ s.launches.flatMap (fun l => [.ticketTurn l.obj, .watchdogExpire l.obj])
  ++ s.vfs.flatMap (fun v => .tlbinvDone v.1 :: v.2.frecs.flatMap (fun r => [.fqrspRetry v.1 r.seq, .fqrspFail v.1 r.seq]))

/-- Blocks placed, completed, stopped and placed again. -/
def State.blockSteps (s : State) : List Instr :=
  ((List.range 8).flatMap fun d => (List.range 48).map fun c => Instr.blockDispatch d c)
  ++ s.blocks.flatMap (fun b =>
      [Instr.blockComplete b.bid, .blockSave b.bid, .preempt b.bid .slice, .preempt b.bid .reclaim, .preempt b.bid .quiesce]
      ++ s.launches.map (fun l => .preempt b.bid (.priority l.obj))
      ++ (List.range 384).map (fun c => .blockRestore b.bid c) ++ [.sliceEnd b.vf b.core, .clusterReclaim (clusterOf b.core)])

/-- What a block's threads, commits and collectives do. -/
def State.threadSteps (s : State) : List Instr :=
  s.blocks.flatMap fun b =>
    (List.range b.threads.length).flatMap (fun t =>
      [Instr.clauseFetch b.bid t, .demotionTimeout b.bid t, .rejoinTimeout b.bid t, .sleepExpire b.bid t, .haltWaitTimeout b.bid t])
    ++ b.share.map (fun e => .commitPerformed b.bid e.eid)
    ++ (List.range b.gangs.length).flatMap (fun g => match b.gangs[g]? with
        | some x => x.arrivals.map (fun a => .rendezvousComplete b.bid g a.seq)
        | none => [])

/-- What quarters, operand logs, rails and engines do. -/
def State.unitSteps (s : State) : List Instr :=
  ((List.range 384).flatMap fun c => (List.range 4).map fun q => Instr.packetIssue c q)
  ++ s.cores.flatMap (fun c => c.2.quarters.flatMap (fun q => [.replayReexecute c.1 q.1 false, .replayReexecute c.1 q.1 true])
      ++ c.2.mq.flatMap (fun m => [.matrixAccept m.id, .matrixComplete m.id]) ++ [.railReached c.1 (s.request c.1)])
  ++ s.pend.map (fun p => .loadComplete p.id) ++ s.oplog.map (fun o => .operandReplay o.id)
  ++ s.xq.flatMap (fun c => .xferAccept c.id :: .xferComplete c.id :: c.lines.flatMap (fun l => [.copyLineLand c.id l.idx, .copyLineLand c.id (l.idx + c.lines.length)])
      ++ (match c.kind.ring with | some (m, t) => [.xrotRound (clusterOf (s.coreOf c.bid)) m t] | none => []))
  ++ s.ccols.flatMap (fun c =>
      let n := match ccolDesc c.kind c.desc with | some d => d.count * (c.t.bits / 8) | none => 0
      [.ccolComplete c.id [] false, .ccolComplete c.id ((List.range 2304).map fun q => s.wildBytes (16 + n * q) n) true])

/-- The whole steps that can come next: some of them may turn out to change nothing.
[log 1: DESIGN CHOICE, unsafe] -/
def State.candidates (s : State) : List Instr :=
  s.hostSteps ++ s.debugSteps ++ s.linkSteps ++ s.envSteps ++ s.levelSteps ++ s.blockSteps ++ s.threadSteps ++ s.unitSteps

/-- One of them, by a free choice; with it an error may have arisen in a store (R339) and the firmware set a fence's threshold (R344).
[log 1: DESIGN CHOICE, unsafe] -/
def State.choose (s : State) : Instr × State :=
  let l := s.candidates
  (l.getD ((Config.freeWord s.free).toNat % l.length) .moduleReset, { s.struck.tuned with free := s.free + 2 ^ 48 })

end Sys2Proof.Machine
end

