-- ==== Sys2Proof/Machine/Integer.lean ====
section
/-! DEFINITION. Integer arithmetic (R108-R112). Every operand of a 64-bit type is a pair (R107). -/

namespace Sys2Proof.Machine

/-- Operands and result of a two-source integer instruction: checks, and the result f computes from the operands' bits. -/
def execInt2 (c : Ctl) (d a b : G) (t : IntTy) (f : Nat → Nat → Nat) (s : State) : Out :=
  execLocal c 1 s (fun _ => precise [(d, t.n)] [(a, t.n), (b, t.n)] [])
    (fun u => u.t.setNum t.wide d (f (u.t.num t.wide a) (u.t.num t.wide b)))

/-- As execInt2, with an immediate for the second source (R83). -/
def execIntI (c : Ctl) (d a : G) (imm : Word) (t : IntTy) (f : Nat → Nat → Nat) (s : State) : Out :=
  execLocal c 1 s (fun _ => precise [(d, t.n)] [(a, t.n)] [])
    (fun u => u.t.setNum t.wide d (f (u.t.num t.wide a) (immNum t imm)))

/-- As execInt2, with one source. -/
def execInt1 (c : Ctl) (d a : G) (t : IntTy) (f : Nat → Nat) (s : State) : Out :=
  execLocal c 1 s (fun _ => precise [(d, t.n)] [(a, t.n)] [])
    (fun u => u.t.setNum t.wide d (f (u.t.num t.wide a)))

/-- A sum or difference, saturated to the type when sat is set, else cut to its width (R108). -/
def addValue (t : IntTy) (sat : Bool) (v : Int) : Nat := wrapInt t.w (if sat then clampInt t.ty v else v)

/-- ADD (R108). -/
def execAdd (c : Ctl) (d a b : G) (t : IntTy) (sat : Bool) (s : State) : Out :=
  execInt2 c d a b t (fun x y => addValue t sat (t.val x + t.val y)) s

/-- ADD with an immediate (R108). -/
def execAddI (c : Ctl) (d a : G) (imm : Word) (t : IntTy) (s : State) : Out :=
  execIntI c d a imm t (fun x y => addValue t false (t.val x + t.val y)) s

/-- The carry-in of ADDC and the borrow-in of SUBB (R109). -/
def Thread.carry (t : Thread) (k : Option PF) : Nat :=
  match k with
  | none => 0
  | some p => carryIn (t.pred p).val

/-- ADDC (R109). -/
def execAddc (c : Ctl) (d : G) (j : PF) (a b : G) (k : Option PF) (s : State) : Out :=
  execLocal c 1 s (fun _ => precise [(d, 1)] [(a, 1), (b, 1)] k.toList)
    (fun u =>
      let x := u.t.nat a
      let y := u.t.nat b
      let z := u.t.carry k
      (u.t.setReg d ⟨BitVec.ofNat 32 (x + y + z), .P⟩).setPred j ⟨carryOut x y z, .P⟩)

/-- SUB (R108). -/
def execSub (c : Ctl) (d a b : G) (t : IntTy) (sat : Bool) (s : State) : Out :=
  execInt2 c d a b t (fun x y => addValue t sat (t.val x - t.val y)) s

/-- SUB with an immediate (R108). -/
def execSubI (c : Ctl) (d a : G) (imm : Word) (t : IntTy) (s : State) : Out :=
  execIntI c d a imm t (fun x y => addValue t false (t.val x - t.val y)) s

/-- SUBB (R109). -/
def execSubb (c : Ctl) (d : G) (j : PF) (a b : G) (k : Option PF) (s : State) : Out :=
  execLocal c 1 s (fun _ => precise [(d, 1)] [(a, 1), (b, 1)] k.toList)
    (fun u =>
      let x := u.t.nat a
      let y := u.t.nat b
      let z := u.t.carry k
      (u.t.setReg d ⟨BitVec.ofInt 32 ((x : Int) - y - z), .P⟩).setPred j ⟨borrowOut x y z, .P⟩)

/-- MUL (R110). -/
def execMul (c : Ctl) (d a b : G) (t : IntTy) (s : State) : Out :=
  execInt2 c d a b t (fun x y => wrapInt t.w (t.val x * t.val y)) s

/-- MUL with an immediate (R110). -/
def execMulI (c : Ctl) (d a : G) (imm : Word) (t : IntTy) (s : State) : Out :=
  execIntI c d a imm t (fun x y => wrapInt t.w (t.val x * t.val y)) s

/-- MULH (R110): the high half of the product. -/
def execMulh (c : Ctl) (d a b : G) (t : IntTy) (s : State) : Out :=
  execInt2 c d a b t (fun x y => wrapInt t.w ((t.val x * t.val y) / (2 ^ t.w : Nat))) s

/-- MAD (R110). -/
def execMad (c : Ctl) (d a b cc : G) (t : IntTy) (s : State) : Out :=
  execLocal c 1 s (fun _ => precise [(d, t.n)] [(a, t.n), (b, t.n), (cc, t.n)] [])
    (fun u =>
      let x := t.val (u.t.num t.wide a)
      let y := t.val (u.t.num t.wide b)
      u.t.setNum t.wide d (wrapInt t.w (x * y + t.val (u.t.num t.wide cc))))

/-- MAD with an immediate (R110): reads d. -/
def execMadI (c : Ctl) (d a : G) (imm : Word) (t : IntTy) (s : State) : Out :=
  execLocal c 1 s (fun _ => precise [] [(d, t.n), (a, t.n)] [])
    (fun u =>
      let x := t.val (u.t.num t.wide a)
      u.t.setNum t.wide d (wrapInt t.w (x * t.val (immNum t imm) + t.val (u.t.num t.wide d))))

/-- The lesser or the greater of two operands (R111). -/
def minMax (t : IntTy) (mx : Bool) (x y : Nat) : Nat :=
  if mx then (if t.val x < t.val y then y else x) else (if t.val y < t.val x then y else x)

/-- MIN (R111). -/
def execMin (c : Ctl) (d a b : G) (t : IntTy) (s : State) : Out := execInt2 c d a b t (minMax t false) s

/-- MIN with an immediate (R111). -/
def execMinI (c : Ctl) (d a : G) (imm : Word) (t : IntTy) (s : State) : Out := execIntI c d a imm t (minMax t false) s

/-- MAX (R111). -/
def execMax (c : Ctl) (d a b : G) (t : IntTy) (s : State) : Out := execInt2 c d a b t (minMax t true) s

/-- MAX with an immediate (R111). -/
def execMaxI (c : Ctl) (d a : G) (imm : Word) (t : IntTy) (s : State) : Out := execIntI c d a imm t (minMax t true) s

/-- ABS (R111): the most negative value stays, or gives the greatest with `.sat`. -/
def execAbs (c : Ctl) (d a : G) (t : IntTy) (sat : Bool) (s : State) : Out :=
  execInt1 c d a t (fun x => addValue t sat ((t.val x).natAbs : Nat)) s

/-- CMP (R112). -/
def execCmp (c : Ctl) (p : PF) (cond : Cond) (a b : G) (t : IntTy) (s : State) : Out :=
  execLocal c 1 s (fun _ => precise [] [(a, t.n), (b, t.n)] [])
    (fun u => u.t.setPred p ⟨cond.holds (t.val (u.t.num t.wide a)) (t.val (u.t.num t.wide b)), .P⟩)

/-- CMP with an immediate (R112). -/
def execCmpI (c : Ctl) (p : PF) (cond : Cond) (a : G) (imm : Word) (t : IntTy) (s : State) : Out :=
  execLocal c 1 s (fun _ => precise [] [(a, t.n)] [])
    (fun u => u.t.setPred p ⟨cond.holds (t.val (u.t.num t.wide a)) (t.val (immNum t imm)), .P⟩)

end Sys2Proof.Machine
end

