-- ==== Sys2Proof/Machine/Logic.lean ====
section
/-! DEFINITION. Logic, shifts, bit counts and bit fields (R113-R116, R68). -/

namespace Sys2Proof.Machine

/-- AND (R113). -/
def execAnd (c : Ctl) (d a b : G) (t : IntTy) (s : State) : Out := execInt2 c d a b t (fun x y => x &&& y) s
/-- AND with an immediate (R113). -/
def execAndI (c : Ctl) (d a : G) (imm : Word) (t : IntTy) (s : State) : Out :=
  execIntI c d a imm t (fun x y => x &&& y) s
/-- OR (R113). -/
def execOr (c : Ctl) (d a b : G) (t : IntTy) (s : State) : Out := execInt2 c d a b t (fun x y => x ||| y) s
/-- OR with an immediate (R113). -/
def execOrI (c : Ctl) (d a : G) (imm : Word) (t : IntTy) (s : State) : Out :=
  execIntI c d a imm t (fun x y => x ||| y) s
/-- XOR (R113). -/
def execXor (c : Ctl) (d a b : G) (t : IntTy) (s : State) : Out := execInt2 c d a b t (fun x y => x ^^^ y) s
/-- XOR with an immediate (R113). -/
def execXorI (c : Ctl) (d a : G) (imm : Word) (t : IntTy) (s : State) : Out :=
  execIntI c d a imm t (fun x y => x ^^^ y) s
/-- NOT (R113). -/
def execNot (c : Ctl) (d a : G) (t : IntTy) (s : State) : Out := execInt1 c d a t (fun x => 2 ^ t.w - 1 - x) s

/-- Shifts of a width (R114). -/
def shlValue (t : IntTy) (x n : Nat) : Nat := if n < t.w then x * 2 ^ n % 2 ^ t.w else 0
def shrValue (t : IntTy) (x n : Nat) : Nat :=
  if t.sgn then wrapInt t.w (t.val x / (2 ^ (if n < t.w then n else t.w - 1) : Nat))
  else if n < t.w then x / 2 ^ n else 0

/-- A left rotation of w bits by n mod w (R114). -/
def rolValue (w x n : Nat) : Nat := (x * 2 ^ (n % w) % 2 ^ w) ||| (x / 2 ^ (w - n % w))
def rorValue (w x n : Nat) : Nat := rolValue w x (w - n % w)

/-- A shift or rotation by the low byte of one register (R114). -/
def execShift (c : Ctl) (d a b : G) (wide : Bool) (f : Nat → Nat → Nat) (s : State) : Out :=
  execLocal c 1 s (fun _ => precise [(d, wideN wide)] [(a, wideN wide), (b, 1)] [])
    (fun u => u.t.setNum wide d (f (u.t.num wide a) (u.t.nat b % 256)))

/-- A shift or rotation by an immediate (R114). -/
def execShiftI (c : Ctl) (d a : G) (n : BitVec 8) (wide : Bool) (f : Nat → Nat → Nat) (s : State) : Out :=
  execLocal c 1 s (fun _ => precise [(d, wideN wide)] [(a, wideN wide)] [])
    (fun u => u.t.setNum wide d (f (u.t.num wide a) n.toNat))

/-- SHL (R114). -/
def execShl (c : Ctl) (d a b : G) (t : IntTy) (s : State) : Out := execShift c d a b t.wide (shlValue t) s
/-- SHL with an immediate (R114). -/
def execShlI (c : Ctl) (d a : G) (n : BitVec 8) (t : IntTy) (s : State) : Out :=
  execShiftI c d a n t.wide (shlValue t) s
/-- SHR (R114). -/
def execShr (c : Ctl) (d a b : G) (t : IntTy) (s : State) : Out := execShift c d a b t.wide (shrValue t) s
/-- SHR with an immediate (R114). -/
def execShrI (c : Ctl) (d a : G) (n : BitVec 8) (t : IntTy) (s : State) : Out :=
  execShiftI c d a n t.wide (shrValue t) s
/-- ROL (R114). -/
def execRol (c : Ctl) (d a b : G) (wide : Bool) (s : State) : Out :=
  execShift c d a b wide (rolValue (if wide then 64 else 32)) s
/-- ROL with an immediate (R114). -/
def execRolI (c : Ctl) (d a : G) (n : BitVec 8) (wide : Bool) (s : State) : Out :=
  execShiftI c d a n wide (rolValue (if wide then 64 else 32)) s
/-- ROR (R114). -/
def execRor (c : Ctl) (d a b : G) (wide : Bool) (s : State) : Out :=
  execShift c d a b wide (rorValue (if wide then 64 else 32)) s
/-- ROR with an immediate (R114). -/
def execRorI (c : Ctl) (d a : G) (n : BitVec 8) (wide : Bool) (s : State) : Out :=
  execShiftI c d a n wide (rorValue (if wide then 64 else 32)) s

/-- A bit-field extraction (R68). -/
def bfxValue (x pos width : Nat) (sgn : Bool) : Nat :=
  let w := if width < 32 then width else 32
  let m := (2 ^ w - 1) * 2 ^ pos % 2 ^ 32
  let v := (x &&& m) / 2 ^ pos
  let n := if w < 32 - pos then w else 32 - pos
  if sgn && 0 < n && v.testBit (n - 1) then v + (2 ^ 32 - 2 ^ n) else v

/-- A bit-field insertion (R68). -/
def bfiValue (d x pos width : Nat) : Nat :=
  let w := if width < 32 then width else 32
  let m := (2 ^ w - 1) * 2 ^ pos % 2 ^ 32
  (d &&& (2 ^ 32 - 1 - m)) ||| ((x * 2 ^ pos % 2 ^ 32) &&& m)

/-- BFX (R68). -/
def execBfx (c : Ctl) (d a b cc : G) (sgn : Bool) (s : State) : Out :=
  execLocal c 1 s (fun _ => precise [(d, 1)] [(a, 1), (b, 1), (cc, 1)] [])
    (fun u => u.t.setNum false d (bfxValue (u.t.nat a) (u.t.nat b % 32) (u.t.nat cc % 64) sgn))

/-- BFX with immediates (R116). -/
def execBfxI (c : Ctl) (d a : G) (pos : BitVec 5) (width : BitVec 6) (sgn : Bool) (s : State) : Out :=
  execLocal c 1 s (fun _ => precise [(d, 1)] [(a, 1)] [])
    (fun u => u.t.setNum false d (bfxValue (u.t.nat a) pos.toNat width.toNat sgn))

/-- BFI (R68): reads d. -/
def execBfi (c : Ctl) (d a b cc : G) (s : State) : Out :=
  execLocal c 1 s (fun _ => precise [] [(d, 1), (a, 1), (b, 1), (cc, 1)] [])
    (fun u => u.t.setNum false d (bfiValue (u.t.nat d) (u.t.nat a) (u.t.nat b % 32) (u.t.nat cc % 64)))

/-- BFI with immediates (R116): reads d. -/
def execBfiI (c : Ctl) (d a : G) (pos : BitVec 5) (width : BitVec 6) (s : State) : Out :=
  execLocal c 1 s (fun _ => precise [] [(d, 1), (a, 1)] [])
    (fun u => u.t.setNum false d (bfiValue (u.t.nat d) (u.t.nat a) pos.toNat width.toNat))

/-- The set bits among the low n of a number. -/
def popCount (x : Nat) : Nat → Nat
  | 0 => 0
  | n + 1 => (if x.testBit n then 1 else 0) + popCount x n

/-- The low w bits of a number in reverse order. -/
def bitRev (x w : Nat) : Nat → Nat
  | 0 => 0
  | n + 1 => (if x.testBit n then 2 ^ (w - 1 - n) else 0) + bitRev x w n

/-- POPC (R115). -/
def execPopc (c : Ctl) (d a : G) (wide : Bool) (s : State) : Out :=
  execLocal c 1 s (fun _ => precise [(d, 1)] [(a, wideN wide)] [])
    (fun u => u.t.setNum false d (popCount (u.t.num wide a) (if wide then 64 else 32)))

/-- CLZ (R115). -/
def execClz (c : Ctl) (d a : G) (wide : Bool) (s : State) : Out :=
  execLocal c 1 s (fun _ => precise [(d, 1)] [(a, wideN wide)] [])
    (fun u =>
      let w := if wide then 64 else 32
      let x := u.t.num wide a
      u.t.setNum false d (if x == 0 then w else w - 1 - Nat.log2 x))

/-- BREV (R115). -/
def execBrev (c : Ctl) (d a : G) (wide : Bool) (s : State) : Out :=
  execLocal c 1 s (fun _ => precise [(d, wideN wide)] [(a, wideN wide)] [])
    (fun u =>
      let w := if wide then 64 else 32
      u.t.setNum wide d (bitRev (u.t.num wide a) w w))

end Sys2Proof.Machine
end

