-- ==== Sys2Proof/Machine/Dispatch.lean ====
section
/-! DEFINITION. exec: one arm per instruction and step of the opcode table. -/

namespace Sys2Proof.Machine

/-- What an instruction or a whole step does. -/
def exec (i : Instr) (s : State) : Host.Outcome State Fault Refusal :=
  match i with
  | .rpt n sd sa sb sc => Sys2Proof.Machine.execRpt n sd sa sb sc s
  | .mov c d a wide => Sys2Proof.Machine.execMov c d a wide s
  | .movi c d imm => Sys2Proof.Machine.execMovi c d imm s
  | .sel c d k a b wide => Sys2Proof.Machine.execSel c d k a b wide s
  | .selI c d k imm => Sys2Proof.Machine.execSelI c d k imm s
  | .srd c d idx wide => Sys2Proof.Machine.execSrd c d idx wide s
  | .swr c a => Sys2Proof.Machine.execSwr c a s
  | .plop c d a b cc lut => Sys2Proof.Machine.execPlop c d a b cc lut s
  | .lea c d a b form sh => Sys2Proof.Machine.execLea c d a b form sh s
  | .leaI c d a imm t => Sys2Proof.Machine.execLeaI c d a imm t s
  | .add c d a b t sat => Sys2Proof.Machine.execAdd c d a b t sat s
  | .addI c d a imm t => Sys2Proof.Machine.execAddI c d a imm t s
  | .addc c d j a b k => Sys2Proof.Machine.execAddc c d j a b k s
  | .sub c d a b t sat => Sys2Proof.Machine.execSub c d a b t sat s
  | .subI c d a imm t => Sys2Proof.Machine.execSubI c d a imm t s
  | .subb c d j a b k => Sys2Proof.Machine.execSubb c d j a b k s
  | .mul c d a b t => Sys2Proof.Machine.execMul c d a b t s
  | .mulI c d a imm t => Sys2Proof.Machine.execMulI c d a imm t s
  | .mulh c d a b t => Sys2Proof.Machine.execMulh c d a b t s
  | .mad c d a b cc t => Sys2Proof.Machine.execMad c d a b cc t s
  | .madI c d a imm t => Sys2Proof.Machine.execMadI c d a imm t s
  | .min c d a b t => Sys2Proof.Machine.execMin c d a b t s
  | .minI c d a imm t => Sys2Proof.Machine.execMinI c d a imm t s
  | .max c d a b t => Sys2Proof.Machine.execMax c d a b t s
  | .maxI c d a imm t => Sys2Proof.Machine.execMaxI c d a imm t s
  | .abs c d a t sat => Sys2Proof.Machine.execAbs c d a t sat s
  | .cmp c p cond a b t => Sys2Proof.Machine.execCmp c p cond a b t s
  | .cmpI c p cond a imm t => Sys2Proof.Machine.execCmpI c p cond a imm t s
  | .and c d a b t => Sys2Proof.Machine.execAnd c d a b t s
  | .andI c d a imm t => Sys2Proof.Machine.execAndI c d a imm t s
  | .or c d a b t => Sys2Proof.Machine.execOr c d a b t s
  | .orI c d a imm t => Sys2Proof.Machine.execOrI c d a imm t s
  | .xor c d a b t => Sys2Proof.Machine.execXor c d a b t s
  | .xorI c d a imm t => Sys2Proof.Machine.execXorI c d a imm t s
  | .not c d a t => Sys2Proof.Machine.execNot c d a t s
  | .shl c d a b t => Sys2Proof.Machine.execShl c d a b t s
  | .shlI c d a n t => Sys2Proof.Machine.execShlI c d a n t s
  | .shr c d a b t => Sys2Proof.Machine.execShr c d a b t s
  | .shrI c d a n t => Sys2Proof.Machine.execShrI c d a n t s
  | .rol c d a b wide => Sys2Proof.Machine.execRol c d a b wide s
  | .rolI c d a n wide => Sys2Proof.Machine.execRolI c d a n wide s
  | .ror c d a b wide => Sys2Proof.Machine.execRor c d a b wide s
  | .rorI c d a n wide => Sys2Proof.Machine.execRorI c d a n wide s
  | .bfx c d a b cc sgn => Sys2Proof.Machine.execBfx c d a b cc sgn s
  | .bfxI c d a pos width sgn => Sys2Proof.Machine.execBfxI c d a pos width sgn s
  | .bfi c d a b cc => Sys2Proof.Machine.execBfi c d a b cc s
  | .bfiI c d a pos width => Sys2Proof.Machine.execBfiI c d a pos width s
  | .popc c d a wide => Sys2Proof.Machine.execPopc c d a wide s
  | .clz c d a wide => Sys2Proof.Machine.execClz c d a wide s
  | .brev c d a wide => Sys2Proof.Machine.execBrev c d a wide s
  | .rngs c a => Sys2Proof.Machine.execRngs c a s
  | .rng c d => Sys2Proof.Machine.execRng c d s
  | .rngj c a => Sys2Proof.Machine.execRngj c a s
  | .kmax c d a b t => Sys2Proof.Machine.execKmax c d a b t s
  | .kmin c d a b t => Sys2Proof.Machine.execKmin c d a b t s
  | .kcmp c p lt a b t => Sys2Proof.Machine.execKcmp c p lt a b t s
  | .fadd c ap d a b t rm => Sys2Proof.Machine.execFadd c ap d a b t rm s
  | .faddI c ap d a imm t => Sys2Proof.Machine.execFaddI c ap d a imm t s
  | .fsub c ap d a b t rm => Sys2Proof.Machine.execFsub c ap d a b t rm s
  | .fmul c ap d a b t rm => Sys2Proof.Machine.execFmul c ap d a b t rm s
  | .fmulI c ap d a imm t => Sys2Proof.Machine.execFmulI c ap d a imm t s
  | .ffma c ap d a b cc t rm neg => Sys2Proof.Machine.execFfma c ap d a b cc t rm neg s
  | .ffmaI c ap d a imm t => Sys2Proof.Machine.execFfmaI c ap d a imm t s
  | .fmin c ap d a b t => Sys2Proof.Machine.execFmin c ap d a b t s
  | .fmax c ap d a b t => Sys2Proof.Machine.execFmax c ap d a b t s
  | .fcmp c ap p cond u a b t => Sys2Proof.Machine.execFcmp c ap p cond u a b t s
  | .fcmpI c ap p cond u a imm t => Sys2Proof.Machine.execFcmpI c ap p cond u a imm t s
  | .fcls c d a t => Sys2Proof.Machine.execFcls c d a t s
  | .frnd c d a t rm => Sys2Proof.Machine.execFrnd c d a t rm s
  | .fscl c d a b t rm => Sys2Proof.Machine.execFscl c d a b t rm s
  | .frcp c d a t rm => Sys2Proof.Machine.execFrcp c d a t rm s
  | .fsqrt c d a t rm => Sys2Proof.Machine.execFsqrt c d a t rm s
  | .frsq c d a t => Sys2Proof.Machine.execFrsq c d a t s
  | .fex2 c d a t => Sys2Proof.Machine.execFex2 c d a t s
  | .flg2 c d a t => Sys2Proof.Machine.execFlg2 c d a t s
  | .fsin c d a t => Sys2Proof.Machine.execFsin c d a t s
  | .fcos c d a t => Sys2Proof.Machine.execFcos c d a t s
  | .ftnh c d a t => Sys2Proof.Machine.execFtnh c d a t s
  | .hadd2 c ap d a b t rm => Sys2Proof.Machine.execHadd2 c ap d a b t rm s
  | .hsub2 c ap d a b t rm => Sys2Proof.Machine.execHsub2 c ap d a b t rm s
  | .hmul2 c ap d a b t rm => Sys2Proof.Machine.execHmul2 c ap d a b t rm s
  | .hfma2 c ap d a b cc t rm neg => Sys2Proof.Machine.execHfma2 c ap d a b cc t rm neg s
  | .hfma2I c ap d a imm t => Sys2Proof.Machine.execHfma2I c ap d a imm t s
  | .hmin2 c ap d a b t => Sys2Proof.Machine.execHmin2 c ap d a b t s
  | .hmax2 c ap d a b t => Sys2Proof.Machine.execHmax2 c ap d a b t s
  | .hcmp2 c ap d a b t cond u => Sys2Proof.Machine.execHcmp2 c ap d a b t cond u s
  | .hdot2 c ap d a b cc dt st rm => Sys2Proof.Machine.execHdot2 c ap d a b cc dt st rm s
  | .cvt c ap d a dt st rm sat => Sys2Proof.Machine.execCvt c ap d a dt st rm sat s
  | .cvtn c ap d a b dt rm sat k => Sys2Proof.Machine.execCvtn c ap d a b dt rm sat k s
  | .cvtw c ap d a dt st k => Sys2Proof.Machine.execCvtw c ap d a dt st k s
  | .sdot c d a b cc ta tb q => Sys2Proof.Machine.execSdot c d a b cc ta tb q s
  | .cbx c d a b dt => Sys2Proof.Machine.execCbx c d a b dt s
  | .bra c imm => Sys2Proof.Machine.execBra c imm s
  | .brx c a imm stride => Sys2Proof.Machine.execBrx c a imm stride s
  | .call c imm => Sys2Proof.Machine.execCall c imm s
  | .callr c a => Sys2Proof.Machine.execCallr c a s
  | .ret c => Sys2Proof.Machine.execRet c s
  | .exit c => Sys2Proof.Machine.execExit c s
  | .rjp c id mask => Sys2Proof.Machine.execRjp c id mask s
  | .rjpReg c id r => Sys2Proof.Machine.execRjpReg c id r s
  | .rjw c id => Sys2Proof.Machine.execRjw c id s
  | .brk c n => Sys2Proof.Machine.execBrk c n s
  | .yld c => Sys2Proof.Machine.execYld c s
  | .sleep c n => Sys2Proof.Machine.execSleep c n s
  | .rdv c m => Sys2Proof.Machine.execRdv c m s
  | .rdvI c mask => Sys2Proof.Machine.execRdvI c mask s
  | .gshf c d a b m wide ps => Sys2Proof.Machine.execGshf c d a b m wide ps s
  | .gshx c d a b m wide ps => Sys2Proof.Machine.execGshx c d a b m wide ps s
  | .gshu c d a b m wide ps => Sys2Proof.Machine.execGshu c d a b m wide ps s
  | .gshd c d a b m wide ps => Sys2Proof.Machine.execGshd c d a b m wide ps s
  | .gbal c d pa m => Sys2Proof.Machine.execGbal c d pa m s
  | .gbalI c d pa mask => Sys2Proof.Machine.execGbalI c d pa mask s
  | .gany c pd pa m => Sys2Proof.Machine.execGany c pd pa m s
  | .ganyI c pd pa mask => Sys2Proof.Machine.execGanyI c pd pa mask s
  | .gall c pd pa m => Sys2Proof.Machine.execGall c pd pa m s
  | .gallI c pd pa mask => Sys2Proof.Machine.execGallI c pd pa mask s
  | .gred c ap d a t op m => Sys2Proof.Machine.execGred c ap d a t op m s
  | .gscn c ap d a t op excl m => Sys2Proof.Machine.execGscn c ap d a t op excl m s
  | .gmat c d a wide m => Sys2Proof.Machine.execGmat c d a wide m s
  | .ld c d k b t n cache disp => Sys2Proof.Machine.execLd c d k b t n cache disp s
  | .st c ap d k b t n cache disp => Sys2Proof.Machine.execSt c ap d k b t n cache disp s
  | .bset c d k => Sys2Proof.Machine.execBset c d k s
  | .bget c kd k b disp => Sys2Proof.Machine.execBget c kd k b disp s
  | .bchk c p k b t n disp => Sys2Proof.Machine.execBchk c p k b t n disp s
  | .ltag c k b appr disp => Sys2Proof.Machine.execLtag c k b appr disp s
  | .pref c k b l2 disp => Sys2Proof.Machine.execPref c k b l2 disp s
  | .xcp c e drec srec ddisp sdisp ncode aw pw => Sys2Proof.Machine.execXcp c e drec srec ddisp sdisp ncode aw pw s
  | .xcpDesc c e drec srec desc aw pw => Sys2Proof.Machine.execXcpDesc c e drec srec desc aw pw s
  | .xln c e drec gx srec gy sz aw => Sys2Proof.Machine.execXln c e drec gx srec gy sz aw s
  | .xrot c e gx disp n mask aw tag => Sys2Proof.Machine.execXrot c e gx disp n mask aw tag s
  | .ainit c k disp off tgt force => Sys2Proof.Machine.execAinit c k disp off tgt force s
  | .aarv c k disp off bytes => Sys2Proof.Machine.execAarv c k disp off bytes s
  | .awt c pd k b e disp => Sys2Proof.Machine.execAwt c pd k b e disp s
  | .atom c d k b v op ord sc t => Sys2Proof.Machine.execAtom c d k b v op ord sc t s
  | .red c k b v op t => Sys2Proof.Machine.execRed c k b v op t s
  | .acq c d k b sc disp => Sys2Proof.Machine.execAcq c d k b sc disp s
  | .rel c v k b sc addv disp => Sys2Proof.Machine.execRel c v k b sc addv disp s
  | .bind c v k b disp => Sys2Proof.Machine.execBind c v k b disp s
  | .fence c ord sc => Sys2Proof.Machine.execFence c ord sc s
  | .bar c => Sys2Proof.Machine.execBar c s
  | .cmt c sc => Sys2Proof.Machine.execCmt c sc s
  | .mop c e m => Sys2Proof.Machine.execMop c e m s
  | .ald c e m r t => Sys2Proof.Machine.execAld c e m r t s
  | .ast c e m ai rm r t => Sys2Proof.Machine.execAst c e m ai rm r t s
  | .azr c e r => Sys2Proof.Machine.execAzr c e r s
  | .ckpt c => Sys2Proof.Machine.execCkpt c s
  | .ccol c e kind op t desc => Sys2Proof.Machine.execCcol c e kind op t desc s
  | .ftst c pd h e => Sys2Proof.Machine.execFtst c pd h e s
  | .fwt c d h => Sys2Proof.Machine.execFwt c d h s
  | .fwtToken c d t => Sys2Proof.Machine.execFwtToken c d t s
  | .fcan c h => Sys2Proof.Machine.execFcan c h s
  | .fcanToken c t => Sys2Proof.Machine.execFcanToken c t s
  | .trap c n => Sys2Proof.Machine.execTrap c n s
  | .tret c => Sys2Proof.Machine.execTret c s
  | .bkpt c n => Sys2Proof.Machine.execBkpt c n s
  | .sysr c d num => Sys2Proof.Machine.execSysr c d num s
  | .sysw c a num => Sys2Proof.Machine.execSysw c a num s
  | .lnch c d a => Sys2Proof.Machine.execLnch c d a s
  | .cncl c a => Sys2Proof.Machine.execCncl c a s
  | .csig c a b rel sc => Sys2Proof.Machine.execCsig c a b rel sc s
  | .cwtVal c pd a b acq sc => Sys2Proof.Machine.execCwtVal c pd a b acq sc s
  | .cwtDone c pd a acq sc => Sys2Proof.Machine.execCwtDone c pd a acq sc s
  | .avset c a => Sys2Proof.Machine.execAvset c a s
  | .avsetI c v => Sys2Proof.Machine.execAvsetI c v s
  | .endr c d a wide => Sys2Proof.Machine.execEndr c d a wide s
  | .endrPred c d a => Sys2Proof.Machine.execEndrPred c d a s
  | .endrc c d a b cc t => Sys2Proof.Machine.execEndrc c d a b cc t s
  | .submit vf v => Sys2Proof.Machine.execSubmit vf v s
  | .jobStart vf => Sys2Proof.Machine.execJobStart vf s
  | .levelStart due => Sys2Proof.Machine.execLevelStart due s
  | .blockDispatch die core => Sys2Proof.Machine.execBlockDispatch die core s
  | .blockComplete bid => Sys2Proof.Machine.execBlockComplete bid s
  | .packetIssue core quarter => Sys2Proof.Machine.execPacketIssue core quarter s
  | .demotionTimeout bid tid => Sys2Proof.Machine.execDemotionTimeout bid tid s
  | .rejoinTimeout bid tid => Sys2Proof.Machine.execRejoinTimeout bid tid s
  | .sleepExpire bid tid => Sys2Proof.Machine.execSleepExpire bid tid s
  | .loadComplete op => Sys2Proof.Machine.execLoadComplete op s
  | .rendezvousComplete bid gang seq => Sys2Proof.Machine.execRendezvousComplete bid gang seq s
  | .replayReexecute core quarter bad => Sys2Proof.Machine.execReplayReexecute core quarter bad s
  | .fqrspRetry vf seq => Sys2Proof.Machine.execFqrspRetry vf seq s
  | .fqrspFail vf seq => Sys2Proof.Machine.execFqrspFail vf seq s
  | .operandReplay op => Sys2Proof.Machine.execOperandReplay op s
  | .tlbinvVa vf va => Sys2Proof.Machine.execTlbinvVa vf va s
  | .tlbinvAll vf => Sys2Proof.Machine.execTlbinvAll vf s
  | .tlbinvDone vf => Sys2Proof.Machine.execTlbinvDone vf s
  | .commitPerformed bid entry => Sys2Proof.Machine.execCommitPerformed bid entry s
  | .ticketTurn launch => Sys2Proof.Machine.execTicketTurn launch s
  | .xferAccept cmd => Sys2Proof.Machine.execXferAccept cmd s
  | .copyLineLand cmd line => Sys2Proof.Machine.execCopyLineLand cmd line s
  | .xferComplete cmd => Sys2Proof.Machine.execXferComplete cmd s
  | .xrotRound cluster mask tag => Sys2Proof.Machine.execXrotRound cluster mask tag s
  | .matrixAccept cmd => Sys2Proof.Machine.execMatrixAccept cmd s
  | .matrixComplete cmd => Sys2Proof.Machine.execMatrixComplete cmd s
  | .ccolComplete cmd ranks agree => Sys2Proof.Machine.execCcolComplete cmd ranks agree s
  | .tokenRefill die => Sys2Proof.Machine.execTokenRefill die s
  | .arbiterAgeTick => Sys2Proof.Machine.execArbiterAgeTick s
  | .dispatchAgeTick die => Sys2Proof.Machine.execDispatchAgeTick die s
  | .railReached core mv => Sys2Proof.Machine.execRailReached core mv s
  | .ueConsumed bid code island => Sys2Proof.Machine.execUeConsumed bid code island s
  | .scratchUe bid island => Sys2Proof.Machine.execScratchUe bid island s
  | .preempt bid why => Sys2Proof.Machine.execPreempt bid why s
  | .blockSave bid => Sys2Proof.Machine.execBlockSave bid s
  | .blockRestore bid core => Sys2Proof.Machine.execBlockRestore bid core s
  | .sliceEnd vf core => Sys2Proof.Machine.execSliceEnd vf core s
  | .clusterReclaim cluster => Sys2Proof.Machine.execClusterReclaim cluster s
  | .watchdogExpire launch => Sys2Proof.Machine.execWatchdogExpire launch s
  | .watchpointMatch cluster => Sys2Proof.Machine.execWatchpointMatch cluster s
  | .stopRecordDone cluster => Sys2Proof.Machine.execStopRecordDone cluster s
  | .haltWaitTimeout bid tid => Sys2Proof.Machine.execHaltWaitTimeout bid tid s
  | .debugStep cluster v => Sys2Proof.Machine.execDebugStep cluster v s
  | .debugResume cluster => Sys2Proof.Machine.execDebugResume cluster s
  | .stopRequest cluster => Sys2Proof.Machine.execStopRequest cluster s
  | .debugKill cluster v => Sys2Proof.Machine.execDebugKill cluster v s
  | .shadowRead cluster => Sys2Proof.Machine.execShadowRead cluster s
  | .shadowWrite cluster v => Sys2Proof.Machine.execShadowWrite cluster v s
  | .tsLatch die => Sys2Proof.Machine.execTsLatch die s
  | .sensorReport island throttle trip => Sys2Proof.Machine.execSensorReport island throttle trip s
  | .migrateSend vf peer sweep => Sys2Proof.Machine.execMigrateSend vf peer sweep s
  | .migrateReceive vf peer sweep => Sys2Proof.Machine.execMigrateReceive vf peer sweep s
  | .endForwarding vf => Sys2Proof.Machine.execEndForwarding vf s
  | .pagePull vf va => Sys2Proof.Machine.execPagePull vf va s
  | .pullRequest vf va level from_ tag => Sys2Proof.Machine.execPullRequest vf va level from_ tag s
  | .pullReply vf va ok data aLines poison => Sys2Proof.Machine.execPullReply vf va ok data aLines poison s
  | .damaskAccess m => Sys2Proof.Machine.execDamaskAccess m s
  | .damaskResponse m => Sys2Proof.Machine.execDamaskResponse m s
  | .hostMemAccess pa write len => Sys2Proof.Machine.execHostMemAccess pa write len s
  | .cxlLinkDown port => Sys2Proof.Machine.execCxlLinkDown port s
  | .setdie m1 => Sys2Proof.Machine.execSetdie m1 s
  | .setvf m1 => Sys2Proof.Machine.execSetvf m1 s
  | .setfw m1 => Sys2Proof.Machine.execSetfw m1 s
  | .inj m1 => Sys2Proof.Machine.execInj m1 s
  | .measure m1 => Sys2Proof.Machine.execMeasure m1 s
  | .bank m1 => Sys2Proof.Machine.execBank m1 s
  | .preset m1 => Sys2Proof.Machine.execPreset m1 s
  | .setqos => Sys2Proof.Machine.execSetqos s
  | .setown => Sys2Proof.Machine.execSetown s
  | .evread => Sys2Proof.Machine.execEvread s
  | .evcount => Sys2Proof.Machine.execEvcount s
  | .moduleReset => Sys2Proof.Machine.execModuleReset s
  | .registerWrite page off v => Sys2Proof.Machine.execRegisterWrite page off v s
  | .clauseFetch bid tid => Sys2Proof.Machine.execClauseFetch bid tid s
  | .executionStateArrival vf which => Sys2Proof.Machine.execExecutionStateArrival vf which s
  | .damaskPartition peer up => Sys2Proof.Machine.execDamaskPartition peer up s

end Sys2Proof.Machine
end

