-- ==== Sys2Proof/Machine/Step.lean ====
section
/-! DEFINITION. One step of the machine (log 1): time passes; then the next member of the packet being issued runs its
instruction; or, with no packet, the next event of the agenda acts; or one agent of the machine or the outside world acts. -/

namespace Sys2Proof.Machine

/-- One step.
[log 1: DESIGN CHOICE, unsafe] -/
def step (s : State) : Host.Outcome State Fault Refusal :=
  let s := s.tick
  match s.issue with
  | _ :: _ =>
    match s.front with
    | .ends s' => .next s'
    | .issue i s' => exec i s'
  | [] =>
    match s.agenda with
    | i :: rest => if i.isEvent then exec i { s with agenda := rest } else .next { s with agenda := rest }
    | [] =>
      exec s.choose.1 s.choose.2

/-- The state s with a thread about to issue the instruction word whose low nbits are w (log 1).
[log 1: DESIGN CHOICE, unsafe] -/
def State.withFetchWord (s : State) (nbits w : Nat) : State := s.placeWord (w % 2 ^ nbits)

end Sys2Proof.Machine
end

