-- ==== Sys2Proof/Safety.lean ====
section
/-! DEFINITION. What the claims are stated in: a safe state, when an issued instruction has its effect, and what it leaves as it was. -/

namespace Sys2Proof.Machine

/-- A state whose memory is in canonical form. -/
def Safe (s : State) : Prop := Memory.wf s.mem = true

/-- The thread u issues, and the instruction with control fields c and checks k has its effect: every register range exists,
the guard is true, no operand is of a wrong type, no value faults. -/
def Ready (s : State) (u : Cur) (c : Ctl) (k : Checks) : Prop := s.cur = some u ∧ k.pass u.t c = true

/-- A thread without what issuing any instruction may change in it beside the instruction's effect: its mode (R55), its last stop
site and its halting there (R367), the skid count, its spin detector (R53), and the model's own bookkeeping. -/
def Thread.bare (t : Thread) : Thread :=
  { t with mode := .normal, spo := 0, halted := false, skid := 0, spin := Spin.reset, leaving := false, seen := [], early := [],
           last := 0, waitCnt := 0 }

/-- Thread t' is t gone on to its next slot or repetition (R70, R71): nothing else of it differs but a demoted thread's return to
normal mode (R55) and, at a stop site, the last stop site and the halting there (R367). -/
def GoesOn (c : Ctl) (t t' : Thread) : Prop :=
  t'.bare = t.advance.bare ∧ (t'.mode = t.mode ∨ (t.mode = .demoted ∧ t'.mode = .normal))
    ∧ (c.sp = false → t'.spo = t.spo ∧ t'.halted = t.halted)

/-- As GoesOn, for a thread whose pc and slot the instruction set. -/
def GoesOnAt (c : Ctl) (t t' : Thread) : Prop :=
  t'.bare = t.bare ∧ (t'.mode = t.mode ∨ (t.mode = .demoted ∧ t'.mode = .normal))
    ∧ (c.sp = false → t'.spo = t.spo ∧ t'.halted = t.halted)

/-- The launches differ in nothing but the progress count of the hang watchdog (R352). -/
def SameLaunches (a b : List Launch) : Prop :=
  a.map (fun l : Launch => { l with count := 0 }) = b.map (fun l : Launch => { l with count := 0 })

/-- The state with other blocks, launches and count of free values, and nothing else changed. -/
def State.put (s : State) (bs : List Block) (ls : List Launch) (free : Nat) : State :=
  { s with blocks := bs, launches := ls, free := free }

/-- State s' is s with thread u changed to one that P relates to t, the packet's head gone, n free values used, and nothing else
changed but the watchdog's progress counts: no other thread, no other block, no other unit. Memory is that of s.popIssue: it is that of s
unless a fault record of this packet waits to be written. -/
def ThreadOnly (P : Thread → Prop) (n : Nat) (s s' : State) (u : Cur) : Prop :=
  ∃ t', P t' ∧ SameLaunches s.launches s'.launches ∧
    s' = s.popIssue.put (s.setThread u.b.bid u.tid t').blocks s'.launches (s.free + n)

/-- The answer o is a next state in which thread u has become t and has gone on, n free values are used, and nothing else changed. -/
def Completes (c : Ctl) (s : State) (u : Cur) (n : Nat) (o : Out) (t : Thread) : Prop :=
  ∃ s', o = .next s' ∧ ThreadOnly (GoesOn c t) n s s' u

/-- As Completes, for an instruction that sets the thread's pc and slot itself. -/
def CompletesAt (c : Ctl) (s : State) (u : Cur) (n : Nat) (o : Out) (t : Thread) : Prop :=
  ∃ s', o = .next s' ∧ ThreadOnly (GoesOnAt c t) n s s' u

end Sys2Proof.Machine
end

