-- ==== Sys2Proof/Certificates/Slice0/Obligations.lean ====
section
/-! DEFINITION. The statements of the model, from the numbered rules of the spec. -/

/-! ### Vocabulary of the statements -/

namespace Sys2Proof.Machine

/-- The bits n of a register or pair read as signed for an `.s` type and as natural for an `.n` type (R108). -/
def readAs (t : IntTy) (n : Nat) : Int := if t.sgn && decide (2 ^ (t.w - 1) ≤ n) then (n : Int) - 2 ^ t.w else n

/-- An integer source: register or pair a of the issuing thread (R107). -/
def srcOf (u : Cur) (t : IntTy) (a : G) : Int := readAs t (u.t.num t.wide a)

/-- A 32-bit immediate as a source of the type (R83, R106). -/
def immOf (t : IntTy) (imm : Word) : Int := if t.sgn then imm.toInt else imm.toNat

/-- Destination d of the type receives v mod 2^w, P-typed (R107, R108). -/
def writeMod (u : Cur) (t : IntTy) (d : G) (v : Int) : Thread :=
  if t.wide then u.t.setPair d (BitVec.ofInt 64 v) else u.t.setReg d ⟨BitVec.ofInt 32 v, .P⟩

/-- Destination d receives a 64-bit or a 32-bit value, by width, P-typed. -/
def writeBits (u : Cur) (wide : Bool) (d : G) (v64 : DWord) (v32 : Word) : Thread :=
  if wide then u.t.setPair d v64 else u.t.setReg d ⟨v32, .P⟩

/-- The least and the greatest value of an integer type (R108). -/
def leastOf (t : IntTy) : Int := if t.sgn then -2 ^ (t.w - 1) else 0
def greatestOf (t : IntTy) : Int := if t.sgn then 2 ^ (t.w - 1) - 1 else 2 ^ t.w - 1

/-- The checks of the integer instructions: destination, then sources, of one type. -/
def int2 (t : IntTy) (d a b : G) : Checks := precise [(d, t.n)] [(a, t.n), (b, t.n)] []
def int1 (t : IntTy) (d a : G) : Checks := precise [(d, t.n)] [(a, t.n)] []

end Sys2Proof.Machine

open Sys2Proof Sys2Proof.Machine

/-! ### Integer arithmetic (R108 to R112) -/

/-- R108: ADD and SUB in register and immediate form, with and without `.sat`. -/
def Sys2Proof.Machine.AddSubResults : Prop :=
  ∀ (s : State) (u : Cur) (c : Ctl) (d a b : G) (imm : Word) (t : IntTy),
    (Ready s u c (int2 t d a b) →
      Completes c s u 0 (exec (.add c d a b t false) s) (writeMod u t d (srcOf u t a + srcOf u t b)) ∧
      Completes c s u 0 (exec (.sub c d a b t false) s) (writeMod u t d (srcOf u t a - srcOf u t b)) ∧
      Completes c s u 0 (exec (.add c d a b t true) s)
        (writeMod u t d (min (max (srcOf u t a + srcOf u t b) (leastOf t)) (greatestOf t))) ∧
      Completes c s u 0 (exec (.sub c d a b t true) s)
        (writeMod u t d (min (max (srcOf u t a - srcOf u t b) (leastOf t)) (greatestOf t)))) ∧
    (Ready s u c (int1 t d a) →
      Completes c s u 0 (exec (.addI c d a imm t) s) (writeMod u t d (srcOf u t a + immOf t imm)) ∧
      Completes c s u 0 (exec (.subI c d a imm t) s) (writeMod u t d (srcOf u t a - immOf t imm)))

/-- R109: ADDC and SUBB; the carry-in is 0 when the source omits it. -/
def Sys2Proof.Machine.CarryResults : Prop :=
  ∀ (s : State) (u : Cur) (c : Ctl) (d a b : G) (j : PF) (k : Option PF),
    Ready s u c (precise [(d, 1)] [(a, 1), (b, 1)] k.toList) →
    ∀ cin : Nat, cin = (match k with | none => 0 | some p => if (u.t.pred p).val then 1 else 0) →
      Completes c s u 0 (exec (.addc c d j a b k) s)
        ((u.t.setReg d ⟨u.t.val a + u.t.val b + BitVec.ofNat 32 cin, .P⟩).setPred j
          ⟨decide (2 ^ 32 ≤ (u.t.val a).toNat + (u.t.val b).toNat + cin), .P⟩) ∧
      Completes c s u 0 (exec (.subb c d j a b k) s)
        ((u.t.setReg d ⟨u.t.val a - u.t.val b - BitVec.ofNat 32 cin, .P⟩).setPred j
          ⟨decide (((u.t.val a).toNat : Int) - (u.t.val b).toNat - cin < 0), .P⟩)

/-- R110: MUL, MULH and MAD in their forms. -/
def Sys2Proof.Machine.MultiplyResults : Prop :=
  ∀ (s : State) (u : Cur) (c : Ctl) (d a b cc : G) (imm : Word) (t : IntTy),
    (Ready s u c (int2 t d a b) →
      Completes c s u 0 (exec (.mul c d a b t) s) (writeMod u t d (srcOf u t a * srcOf u t b)) ∧
      Completes c s u 0 (exec (.mulh c d a b t) s) (writeMod u t d (srcOf u t a * srcOf u t b / 2 ^ t.w))) ∧
    (Ready s u c (int1 t d a) →
      Completes c s u 0 (exec (.mulI c d a imm t) s) (writeMod u t d (srcOf u t a * immOf t imm))) ∧
    (Ready s u c (precise [(d, t.n)] [(a, t.n), (b, t.n), (cc, t.n)] []) →
      Completes c s u 0 (exec (.mad c d a b cc t) s) (writeMod u t d (srcOf u t a * srcOf u t b + srcOf u t cc))) ∧
    (Ready s u c (precise [] [(d, t.n), (a, t.n)] []) →
      Completes c s u 0 (exec (.madI c d a imm t) s) (writeMod u t d (srcOf u t a * immOf t imm + srcOf u t d)))

/-- R108 to R110: ADD, SUB, ADDC, SUBB, MUL, MULH and MAD in every form. -/
def Obligations.IntegerArithmetic : Prop := AddSubResults ∧ CarryResults ∧ MultiplyResults

/-- R111: MIN and MAX write the lesser and the greater, ABS the absolute value mod 2^w, saturated with `.sat`. -/
def Obligations.MinMaxAbsResults : Prop :=
  ∀ (s : State) (u : Cur) (c : Ctl) (d a b : G) (imm : Word) (t : IntTy),
    (Ready s u c (int2 t d a b) →
      Completes c s u 0 (exec (.min c d a b t) s) (writeMod u t d (min (srcOf u t a) (srcOf u t b))) ∧
      Completes c s u 0 (exec (.max c d a b t) s) (writeMod u t d (max (srcOf u t a) (srcOf u t b)))) ∧
    (Ready s u c (int1 t d a) →
      Completes c s u 0 (exec (.minI c d a imm t) s) (writeMod u t d (min (srcOf u t a) (immOf t imm))) ∧
      Completes c s u 0 (exec (.maxI c d a imm t) s) (writeMod u t d (max (srcOf u t a) (immOf t imm))) ∧
      Completes c s u 0 (exec (.abs c d a t false) s) (writeMod u t d (srcOf u t a).natAbs) ∧
      Completes c s u 0 (exec (.abs c d a t true) s)
        (writeMod u t d (if srcOf u t a = -2 ^ (t.w - 1) ∧ t.sgn = true then 2 ^ (t.w - 1) - 1 else ((srcOf u t a).natAbs : Int))))

/-- R112: CMP writes its predicate P-typed; nothing else changes. -/
def Sys2Proof.Machine.CompareResults : Prop :=
  ∀ (s : State) (u : Cur) (c : Ctl) (p : PF) (a b : G) (imm : Word) (t : IntTy) (r : Cond → Int → Int → Prop),
    (∀ x y, (r .eq x y ↔ x = y) ∧ (r .ne x y ↔ x ≠ y) ∧ (r .lt x y ↔ x < y) ∧ (r .le x y ↔ x ≤ y) ∧ (r .gt x y ↔ x > y)
      ∧ (r .ge x y ↔ x ≥ y)) →
    ∀ (k : Cond) (v : Bool),
      (Ready s u c (precise [] [(a, t.n), (b, t.n)] []) → (v = true ↔ r k (srcOf u t a) (srcOf u t b)) →
        Completes c s u 0 (exec (.cmp c p k a b t) s) (u.t.setPred p ⟨v, .P⟩)) ∧
      (Ready s u c (precise [] [(a, t.n)] []) → (v = true ↔ r k (srcOf u t a) (immOf t imm)) →
        Completes c s u 0 (exec (.cmpI c p k a imm t) s) (u.t.setPred p ⟨v, .P⟩))

/-! ### Logic, shifts, bit fields (R113 to R116) -/

/-- R113: the logic instructions, bit by bit; for `.s64` the immediate is sign-extended, for `.n64` zero-extended. -/
def Obligations.LogicResults : Prop :=
  ∀ (s : State) (u : Cur) (c : Ctl) (d a b : G) (imm : Word) (t : IntTy),
    (Ready s u c (int2 t d a b) →
      Completes c s u 0 (exec (.and c d a b t) s) (writeBits u t.wide d (u.t.pair a &&& u.t.pair b) (u.t.val a &&& u.t.val b)) ∧
      Completes c s u 0 (exec (.or c d a b t) s) (writeBits u t.wide d (u.t.pair a ||| u.t.pair b) (u.t.val a ||| u.t.val b)) ∧
      Completes c s u 0 (exec (.xor c d a b t) s)
        (writeBits u t.wide d (u.t.pair a ^^^ u.t.pair b) (u.t.val a ^^^ u.t.val b))) ∧
    (Ready s u c (int1 t d a) →
      let w : DWord := if t.sgn then imm.signExtend 64 else imm.setWidth 64
      Completes c s u 0 (exec (.andI c d a imm t) s) (writeBits u t.wide d (u.t.pair a &&& w) (u.t.val a &&& imm)) ∧
      Completes c s u 0 (exec (.orI c d a imm t) s) (writeBits u t.wide d (u.t.pair a ||| w) (u.t.val a ||| imm)) ∧
      Completes c s u 0 (exec (.xorI c d a imm t) s) (writeBits u t.wide d (u.t.pair a ^^^ w) (u.t.val a ^^^ imm)) ∧
      Completes c s u 0 (exec (.not c d a t) s) (writeBits u t.wide d (~~~(u.t.pair a)) (~~~(u.t.val a))))

/-- R114: shifts and rotations by b[7:0] or by the immediate count. -/
def Sys2Proof.Machine.ShiftResults : Prop :=
  ∀ (s : State) (u : Cur) (c : Ctl) (d a b : G) (n : BitVec 8) (t : IntTy) (wide : Bool),
    let k := (u.t.val b).toNat % 256
    let shr (k : Nat) : Thread :=
      if t.sgn then writeBits u t.wide d ((u.t.pair a).sshiftRight (min k 63)) ((u.t.val a).sshiftRight (min k 31))
      else writeBits u t.wide d (u.t.pair a >>> k) (u.t.val a >>> k)
    let shl (k : Nat) : Thread := writeBits u t.wide d (u.t.pair a <<< k) (u.t.val a <<< k)
    let rol (k : Nat) : Thread := writeBits u wide d ((u.t.pair a).rotateLeft k) ((u.t.val a).rotateLeft k)
    let ror (k : Nat) : Thread := writeBits u wide d ((u.t.pair a).rotateRight k) ((u.t.val a).rotateRight k)
    (Ready s u c (precise [(d, t.n)] [(a, t.n), (b, 1)] []) →
      Completes c s u 0 (exec (.shl c d a b t) s) (shl k) ∧ Completes c s u 0 (exec (.shr c d a b t) s) (shr k)) ∧
    (Ready s u c (int1 t d a) →
      Completes c s u 0 (exec (.shlI c d a n t) s) (shl n.toNat) ∧ Completes c s u 0 (exec (.shrI c d a n t) s) (shr n.toNat)) ∧
    (Ready s u c (precise [(d, wideN wide)] [(a, wideN wide), (b, 1)] []) →
      Completes c s u 0 (exec (.rol c d a b wide) s) (rol k) ∧ Completes c s u 0 (exec (.ror c d a b wide) s) (ror k)) ∧
    (Ready s u c (precise [(d, wideN wide)] [(a, wideN wide)] []) →
      Completes c s u 0 (exec (.rolI c d a n wide) s) (rol n.toNat) ∧
      Completes c s u 0 (exec (.rorI c d a n wide) s) (ror n.toNat))

/-- R115: POPC counts the set bits, CLZ the zero bits above the highest set bit, BREV moves bit i to bit w - 1 - i. -/
def Obligations.BitCountResults : Prop :=
  ∀ (s : State) (u : Cur) (c : Ctl) (d a : G) (wide : Bool),
    let w := if wide then 64 else 32
    let bit (i : Nat) : Bool := if wide then (u.t.pair a).getLsbD i else (u.t.val a).getLsbD i
    (Ready s u c (precise [(d, 1)] [(a, wideN wide)] []) →
      Completes c s u 0 (exec (.popc c d a wide) s)
        (u.t.setReg d ⟨BitVec.ofNat 32 ((List.range w).countP bit), .P⟩) ∧
      ∃ n, n ≤ w ∧ (∀ i, w - n ≤ i → bit i = false) ∧ (n < w → bit (w - 1 - n) = true) ∧
        Completes c s u 0 (exec (.clz c d a wide) s) (u.t.setReg d ⟨BitVec.ofNat 32 n, .P⟩)) ∧
    (Ready s u c (precise [(d, wideN wide)] [(a, wideN wide)] []) →
      Completes c s u 0 (exec (.brev c d a wide) s) (writeBits u wide d (u.t.pair a).reverse (u.t.val a).reverse))

/-- R68 and R116: BFX and BFI, said bit by bit: a field of min(width, 32) bits from bit pos, cut at bit 31. -/
def Sys2Proof.Machine.BitFieldResults : Prop :=
  ∀ (s : State) (u : Cur) (c : Ctl) (d a b cc : G) (pos : BitVec 5) (width : BitVec 6) (sgn : Bool),
    let x := u.t.val a
    let extracted (p w : Nat) (r : Word) : Prop :=
      let n := min w (32 - p)
      ∀ i, i < 32 → r.getLsbD i = if i < n then x.getLsbD (p + i) else sgn && decide (0 < n) && x.getLsbD (p + n - 1)
    let inserted (p w : Nat) (r : Word) : Prop :=
      ∀ i, i < 32 → r.getLsbD i = if p ≤ i ∧ i < p + w then x.getLsbD (i - p) else (u.t.val d).getLsbD i
    let rp := (u.t.val b).toNat % 32
    let rw := min ((u.t.val cc).toNat % 64) 32
    let iw := min width.toNat 32
    (Ready s u c (precise [(d, 1)] [(a, 1), (b, 1), (cc, 1)] []) →
      ∃ r, extracted rp rw r ∧ Completes c s u 0 (exec (.bfx c d a b cc sgn) s) (u.t.setReg d ⟨r, .P⟩)) ∧
    (Ready s u c (precise [(d, 1)] [(a, 1)] []) →
      ∃ r, extracted pos.toNat iw r ∧ Completes c s u 0 (exec (.bfxI c d a pos width sgn) s) (u.t.setReg d ⟨r, .P⟩)) ∧
    (Ready s u c (precise [] [(d, 1), (a, 1), (b, 1), (cc, 1)] []) →
      ∃ r, inserted rp rw r ∧ Completes c s u 0 (exec (.bfi c d a b cc) s) (u.t.setReg d ⟨r, .P⟩)) ∧
    (Ready s u c (precise [] [(d, 1), (a, 1)] []) →
      ∃ r, inserted pos.toNat iw r ∧ Completes c s u 0 (exec (.bfiI c d a pos width) s) (u.t.setReg d ⟨r, .P⟩))

/-- R68, R112, R114 and R116: CMP, the shifts and rotations, BFX and BFI in every form. -/
def Obligations.ComparesShiftsFields : Prop := CompareResults ∧ ShiftResults ∧ BitFieldResults

/-! ### Moves, special registers, predicates, LEA, repetition (R70, R91, R94, R95, R117 to R121) -/

/-- The checks of MOV, SEL and ENDR: their data sources may be A-typed. -/
def Sys2Proof.Machine.anyTyped (uses : List (G × Nat)) (ps : List PF) : Checks :=
  { uses := uses, taint := [], ptaint := ps, ap := false, fault := none }

/-- R118 and R119: MOV and SEL copy value and type, half by half; MOVI and SEL with an immediate write P-typed; ENDR (R323) writes
the value P-typed. -/
def Sys2Proof.Machine.MoveResults : Prop :=
  ∀ (s : State) (u : Cur) (c : Ctl) (d a b : G) (k p q : PF) (imm : Word) (wide : Bool),
    let n := if wide then 2 else 1
    let copy (g : G) : Thread :=
      if wide then (u.t.setReg d (u.t.reg g)).setReg (next d 1) (u.t.reg (next g 1)) else u.t.setReg d (u.t.reg g)
    (Ready s u c (anyTyped [(d, n), (a, n)] []) →
      Completes c s u 0 (exec (.mov c d a wide) s) (copy a) ∧
      Completes c s u 0 (exec (.endr c d a wide) s) (writeBits u wide d (u.t.pair a) (u.t.val a))) ∧
    (Ready s u c (precise [(d, 1)] [] []) → Completes c s u 0 (exec (.movi c d imm) s) (u.t.setReg d ⟨imm, .P⟩)) ∧
    (Ready s u c (anyTyped [(d, n), (a, n), (b, n)] [k]) →
      Completes c s u 0 (exec (.sel c d k a b wide) s) (if (u.t.pred k).val then copy a else copy b)) ∧
    (Ready s u c (precise [] [(d, 1)] [k]) →
      Completes c s u 0 (exec (.selI c d k imm) s) (if (u.t.pred k).val then u.t.setReg d ⟨imm, .P⟩ else u.t)) ∧
    (Ready s u c (anyTyped [] []) →
      Completes c s u 0 (exec (.endrPred c p q) s) (u.t.setPred p ⟨(u.t.pred q).val, .P⟩))

/-- R94 and R95: SRD writes the register's value P-typed, 32 bits or a pair; SWR writes the low 8 bits into s.sts. s.clk and s.time
are 64-bit counters; in a deterministic launch the place and time registers are not read. -/
def Obligations.SpecialRegisterResults : Prop :=
  ∀ (s : State) (u : Cur) (c : Ctl) (d a : G) (idx : BitVec 8) (v : Nat) (wide : Bool),
    let b := u.b
    (idx, v) ∈ ([(0x00#8, u.tid), (0x01#8, u.tid / 32), (0x02#8, u.tid % 32), (0x03#8, b.shape.nthr),
        (0x04#8, b.lin % b.shape.nx), (0x05#8, b.lin / b.shape.nx % b.shape.ny), (0x06#8, b.lin / b.shape.nx / b.shape.ny),
        (0x07#8, b.shape.nx), (0x08#8, b.shape.ny), (0x09#8, b.shape.nz), (0x0A#8, b.shape.nx * b.shape.ny * b.shape.nz),
        (0x0B#8, (b.lin * b.shape.nthr + u.tid) % 2 ^ 32), (0x0C#8, (b.lin * b.shape.nthr + u.tid) / 2 ^ 32),
        (0x10#8, u.tid / 32 % 4), (0x11#8, b.slots.getD (u.tid / 32) 0), (0x12#8, b.core % 4), (0x13#8, b.core / 4 % 12),
        (0x14#8, b.core / 48), (0x18#8, s.refClk + (s.core b.core).clk), (0x1A#8, s.refClk * 10 / 27), (0x20#8, b.volt),
        (0x21#8, b.level), (0x22#8, u.t.spo.toNat), (0x23#8, if b.shape.det then 1 else 0), (0x24#8, b.vf),
        (0x25#8, (s.vf b.vf).part.toNat % 8), (0x26#8, u.t.seq.toNat), (0x27#8, u.t.sts.toNat),
        (0x28#8, (s.ctlHandle b.launch .launch).toNat), (0x29#8, (s.ctlHandle b.launch .graph).toNat),
        (0x2A#8, (s.ctlHandle b.launch .phase).toNat), (0x2B#8, (s.ctlHandle b.launch .job).toNat)] : List (BitVec 8 × Nat)) →
    (Ready s u c (anyTyped [(d, if wide then 2 else 1)] []) →
      (b.shape.det = false ∨ idx ∉ ([0x11#8, 0x12#8, 0x13#8, 0x14#8, 0x18#8, 0x1A#8] : List (BitVec 8))) →
      Completes c s u 0 (exec (.srd c d idx wide) s) (writeBits u wide d (BitVec.ofNat 64 v) (BitVec.ofNat 32 v))) ∧
    (Ready s u c (precise [] [(a, 1)] []) →
      Completes c s u 0 (exec (.swr c a) s) { u.t with sts := (u.t.val a).setWidth 8 })

/-- R117 and R121: PLOP writes bit 4·pA + 2·pB + pC of its table; LEA adds a shifted offset. -/
def Sys2Proof.Machine.PredicateLogicAndLea : Prop :=
  ∀ (s : State) (u : Cur) (c : Ctl) (d a b : G) (pd pa pb pc : PF) (lut : Byte) (sh : BitVec 4) (imm : Word) (t : IntTy),
    let n (p : PF) : Nat := if (u.t.pred p).val then 1 else 0
    (Ready s u c (precise [] [] [pa, pb, pc]) →
      Completes c s u 0 (exec (.plop c pd pa pb pc lut) s)
        (u.t.setPred pd ⟨lut.getLsbD (4 * n pa + 2 * n pb + n pc), .P⟩)) ∧
    (Ready s u c (precise [(d, 1)] [(a, 1), (b, 1)] []) →
      Completes c s u 0 (exec (.lea c d a b .n32 sh) s) (u.t.setReg d ⟨u.t.val a + (u.t.val b <<< sh.toNat), .P⟩)) ∧
    (Ready s u c (precise [(d, 2)] [(a, 2), (b, 1)] []) →
      Completes c s u 0 (exec (.lea c d a b .n64n32 sh) s)
        (u.t.setPair d (u.t.pair a + ((u.t.val b).setWidth 64 <<< sh.toNat))) ∧
      Completes c s u 0 (exec (.lea c d a b .n64s32 sh) s)
        (u.t.setPair d (u.t.pair a + ((u.t.val b).signExtend 64 <<< sh.toNat)))) ∧
    (Ready s u c (precise [(d, 2)] [(a, 2), (b, 2)] []) →
      Completes c s u 0 (exec (.lea c d a b .n64 sh) s) (u.t.setPair d (u.t.pair a + (u.t.pair b <<< sh.toNat)))) ∧
    (Ready s u c (int1 t d a) →
      Completes c s u 0 (exec (.leaI c d a imm t) s) (writeMod u t d (srcOf u t a + immOf t imm)))

/-- R117 to R119, R121 and R323: MOV, MOVI, SEL, ENDR, PLOP and LEA. -/
def Obligations.MovesAndPredicates : Prop := MoveResults ∧ PredicateLogicAndLea

/-- R70 and R91: RPT makes the next word issue n + 1 times, each time its fields a step further on; the thread stays at the head of its
packet. As the last slot of a clause, or before a word that may not be repeated or whose stepped indices leave the registers, it faults
with 0x01. -/
def Obligations.RepeatResults : Prop :=
  ∀ (s : State) (u : Cur) (n : BitVec 6) (sd sa sb sc : BitVec 2) (w : DWord), s.cur = some u →
    let amount (x : BitVec 2) : Nat := if x = 3#2 then 4 else x.toNat
    (u.t.lastSlot = false → s.codeWord u.b (u.t.pc + 8) = some w →
      rptFits u.t.regs.length (n.toNat + 1) (amount sd) (amount sa) (amount sb) (amount sc) w = true →
      exec (.rpt n sd sa sb sc) s = .next (s.setThread u.b.bid u.tid { u.t with
        rpt := some { n := n.toNat + 1, k := 0, sd := amount sd, sa := amount sa, sb := amount sb, sc := amount sc }
        pc := u.t.pc + 8, slot := u.t.slot + 1, seen := [] })) ∧
    (u.t.lastSlot = true ∨ (s.codeWord u.b (u.t.pc + 8) = some w ∧
        rptFits u.t.regs.length (n.toNat + 1) (amount sd) (amount sa) (amount sb) (amount sc) w = false) →
      exec (.rpt n sd sa sb sc) s = .next (s.syncFault u.b u.tid u.t 0x01)) ∧
    (∀ (r : Rpt) (t : Thread) (f : Fields), t.rpt = some r → r.k + 1 < r.n →
      t.advance = { t with rpt := some { r with k := r.k + 1 } } ∧
      (Fields.stepped f r).d = f.d + BitVec.ofNat 8 (r.k * r.sd) ∧ (Fields.stepped f r).a = f.a + BitVec.ofNat 8 (r.k * r.sa) ∧
      (Fields.stepped f r).b = f.b + BitVec.ofNat 8 (r.k * r.sb) ∧ (Fields.stepped f r).c = f.c + BitVec.ofNat 8 (r.k * r.sc)) ∧
    (∀ (r : Rpt) (t : Thread), t.rpt = some r → r.n ≤ r.k + 1 →
      t.advance = { t with rpt := none, pc := t.pc + 8, slot := if t.lastSlot then 0 else t.slot + 1 })

/-! ### The generator and the key order (R122 to R128) -/

namespace Sys2Proof.Machine

/-- The rank of a value in the key order (R126). -/
def rankOf (t : Ty) (v : Word) : Nat :=
  let h : BitVec 16 := v.setWidth 16
  match t with
  | .f32 => if v.msb then (~~~v).toNat else (v ||| 0x80000000#32).toNat
  | .s32 => (v ^^^ 0x80000000#32).toNat
  | .n32 => v.toNat
  | _ => if h.msb then (~~~h).toNat else (h ||| 0x8000#16).toNat

/-- The key of the pair at g: its value and its index (R126). -/
def keyOf (u : Cur) (g : G) : Word × Word := (u.t.val g, u.t.val (next g 1))

/-- Whether key a ranks above key b, in max order or in min order (R126). -/
def RanksAbove (t : Ty) (mx : Bool) (a b : Word × Word) : Prop :=
  (if mx then rankOf t a.1 > rankOf t b.1 else rankOf t a.1 < rankOf t b.1)
    ∨ (rankOf t a.1 = rankOf t b.1 ∧ a.2.toNat < b.2.toNat)

end Sys2Proof.Machine

/-- R122 and R123: RNG draws and updates, RNGS seeds from the pair and the global thread id. -/
def Sys2Proof.Machine.GeneratorResults : Prop :=
  ∀ (s : State) (u : Cur) (c : Ctl) (d a : G),
    (Ready s u c (precise [(d, 1)] [] []) →
      let x := u.t.genX
      let y := u.t.genY
      let t := x ^^^ (x <<< 23)
      Completes c s u 0 (exec (.rng c d) s)
        { u.t.setReg d ⟨(x + y).setWidth 32, .P⟩ with genX := y, genY := t ^^^ y ^^^ (t >>> 18) ^^^ (y >>> 5) }) ∧
    (Ready s u c (precise [] [(a, 2)] []) →
      let gid := u.b.lin * u.b.shape.nthr + u.tid
      let g : DWord := 0x9E3779B97F4A7C15#64
      let sm (z : DWord) : DWord :=
        let z := (z ^^^ (z >>> 30)) * 0xBF58476D1CE4E5B9#64
        let z := (z ^^^ (z >>> 27)) * 0x94D049BB133111EB#64
        z ^^^ (z >>> 31)
      Completes c s u 0 (exec (.rngs c a) s)
        { u.t with genX := sm (u.t.pair a + (2 * BitVec.ofNat 64 gid + 1) * g)
                   genY := sm (u.t.pair a + (2 * BitVec.ofNat 64 gid + 2) * g) })

/-- R124: RNGJ by n leaves the state that n·2^64 updates of R122 reach. -/
def Sys2Proof.Machine.GeneratorJump : Prop :=
  ∀ (s : State) (u : Cur) (c : Ctl) (a : G), Ready s u c (precise [] [(a, 1)] []) →
    let p := Nat.repeat (fun p : DWord × DWord => rngNext p.1 p.2) ((u.t.val a).toNat * 2 ^ 64) (u.t.genX, u.t.genY)
    Completes c s u 0 (exec (.rngj c a) s) { u.t with genX := p.1, genY := p.2 }

/-- R127 and R128: KMAX and KMIN copy the key that ranks first (of two that rank alike, either), KCMP says whether a ranks above b. -/
def Sys2Proof.Machine.KeyResults : Prop :=
  ∀ (s : State) (u : Cur) (c : Ctl) (d a b : G) (p : PF) (t : Ty), t ∈ ([.f32, .f16, .bf16, .n32, .s32] : List Ty) →
    let x := keyOf u a
    let y := keyOf u b
    (Ready s u c (precise [(d, 2)] [(a, 2), (b, 2)] []) → ∀ mx : Bool,
      ∃ g, (g = a ∨ g = b) ∧ (RanksAbove t mx x y → g = a) ∧ (RanksAbove t mx y x → g = b) ∧
        Completes c s u 0 (exec (if mx then .kmax c d a b t else .kmin c d a b t) s) (u.t.setPair d (u.t.pair g))) ∧
    (Ready s u c (precise [] [(a, 2), (b, 2)] []) → ∀ v w : Bool,
      (v = true ↔ RanksAbove t true x y) → (w = true ↔ RanksAbove t false x y) →
        Completes c s u 0 (exec (.kcmp c p false a b t) s) (u.t.setPred p ⟨v, .P⟩) ∧
        Completes c s u 0 (exec (.kcmp c p true a b t) s) (u.t.setPred p ⟨w, .P⟩))

/-- R122 to R124 and R126 to R128: the generator and the key instructions. -/
def Obligations.GeneratorAndKeys : Prop := GeneratorResults ∧ GeneratorJump ∧ KeyResults

/-! ### Floating point (R131 to R150, R188 to R193, R316, R323, R324) -/

namespace Sys2Proof.Machine

/-- A floating result: thread u's register d receives r0 itself, P-typed, or for an approximate form some member of the envelope of r0
at the block's level, A-typed; an approximate form uses one free value (R134, R316). -/
def RoundedTo (c : Ctl) (s : State) (u : Cur) (o : Out) (ap : Bool) (d : G) (t : Ty) (r0 : Nat) : Prop :=
  ∃ r, (if ap then inEnvelope u.b.level t r0 r = true else r = r0) ∧
    Completes c s u (if ap then 1 else 0) o (u.t.setReg d ⟨BitVec.ofNat 32 r, if ap then .A else .P⟩)

/-- As RoundedTo for a packed pair: each half on its own, low half first (R132, R134). -/
def RoundedPair (c : Ctl) (s : State) (u : Cur) (o : Out) (ap : Bool) (d : G) (t : Ty) (r0 : Bool → Nat) : Prop :=
  ∃ r : Bool → Nat, (∀ h, if ap then inEnvelope u.b.level t (r0 h) (r h) = true else r h = r0 h) ∧
    Completes c s u (if ap then 2 else 0) o
      (u.t.setReg d ⟨BitVec.ofNat 32 (r false + r true * 2 ^ 16), if ap then .A else .P⟩)

/-- The value of a register's code, and of one half of a packed pair (R132). -/
def valueAt (u : Cur) (t : Ty) (g : G) : FVal := decodeF t (u.t.val g).toNat
def halfCode (u : Cur) (hi : Bool) (g : G) : Nat := if hi then (u.t.val g).toNat / 2 ^ 16 else (u.t.val g).toNat % 2 ^ 16
def halfAt (u : Cur) (t : Ty) (hi : Bool) (g : G) : FVal := decodeF t (halfCode u hi g)

/-- The formats of the scalar and packed arithmetic. -/
def arithTypes : List Ty := [.f32, .f16, .bf16]

end Sys2Proof.Machine

/-- R136: the scalar arithmetic computes exactly and rounds once in the form's mode (immediate forms to nearest even). -/
def Obligations.ScalarFloatResults : Prop :=
  ∀ (s : State) (u : Cur) (c : Ctl) (ap : Bool) (d a b e : G) (imm : Word) (t : Ty) (rm : Rm) (neg : Bool), t ∈ arithTypes →
    let x := valueAt u t a
    let y := valueAt u t b
    let z := valueAt u t e
    let i := decodeF t imm.toNat
    let round (m : Rm) (v : FVal) : Nat := roundF t m false 0 v
    (Ready s u c (approx ap [(d, 1)] [(a, 1), (b, 1)]) →
      RoundedTo c s u (exec (.fadd c ap d a b t rm) s) ap d t (round rm (sumF rm [x, y])) ∧
      RoundedTo c s u (exec (.fsub c ap d a b t rm) s) ap d t (round rm (sumF rm [x, y.neg])) ∧
      RoundedTo c s u (exec (.fmul c ap d a b t rm) s) ap d t (round rm (x.mul y))) ∧
    (Ready s u c (approx ap [(d, 1)] [(a, 1)]) →
      RoundedTo c s u (exec (.faddI c ap d a imm t) s) ap d t (round .rne (sumF .rne [x, i])) ∧
      RoundedTo c s u (exec (.fmulI c ap d a imm t) s) ap d t (round .rne (x.mul i))) ∧
    (Ready s u c (approx ap [(d, 1)] [(a, 1), (b, 1), (e, 1)]) →
      RoundedTo c s u (exec (.ffma c ap d a b e t rm neg) s) ap d t
        (round rm (sumF rm [if neg then (x.mul y).neg else x.mul y, z]))) ∧
    (Ready s u c (approx ap [(d, 1)] [(d, 1), (a, 1)]) →
      RoundedTo c s u (exec (.ffmaI c ap d a imm t) s) ap d t (round .rne (sumF .rne [x.mul i, valueAt u t d])))

/-- R137, R138 and R139: FMIN and FMAX return an operand as it stands, FCMP writes a predicate, FCLS the class, FRND and FSCL round. -/
def Sys2Proof.Machine.FloatCompareAndClass : Prop :=
  ∀ (s : State) (u : Cur) (c : Ctl) (ap un : Bool) (d a b : G) (p : PF) (k : FCond) (imm : Word) (t : Ty) (rm : Rm), t ∈ arithTypes →
    let x := valueAt u t a
    let y := valueAt u t b
    let i := decodeF t imm.toNat
    let test (x y : FVal) (v : Bool) : Prop :=
      match k with
      | .num => v = true ↔ (x ≠ .nan ∧ y ≠ .nan)
      | .nan => v = true ↔ (x = .nan ∨ y = .nan)
      | .eq => v = if x = .nan ∨ y = .nan then un else decide (¬ x.lt y ∧ ¬ y.lt x)
      | .ne => v = if x = .nan ∨ y = .nan then un else decide (x.lt y ∨ y.lt x)
      | .lt => v = if x = .nan ∨ y = .nan then un else x.lt y
      | .le => v = if x = .nan ∨ y = .nan then un else !y.lt x
      | .gt => v = if x = .nan ∨ y = .nan then un else y.lt x
      | .ge => v = if x = .nan ∨ y = .nan then un else !x.lt y
    let writes (o : Out) (v : Bool) : Prop :=
      ∃ w, (ap = false ∨ u.b.level ≠ 8 → w = v) ∧
        Completes c s u (if ap then 1 else 0) o (u.t.setPred p ⟨w, if ap then .A else .P⟩)
    (Ready s u c (approx ap [(d, 1)] [(a, 1), (b, 1)]) →
      RoundedTo c s u (exec (.fmin c ap d a b t) s) ap d t (fminmax t false (u.t.val a).toNat (u.t.val b).toNat) ∧
      RoundedTo c s u (exec (.fmax c ap d a b t) s) ap d t (fminmax t true (u.t.val a).toNat (u.t.val b).toNat)) ∧
    (Ready s u c (approx ap [] [(a, 1), (b, 1)]) → ∀ v, test x y v → writes (exec (.fcmp c ap p k un a b t) s) v) ∧
    (Ready s u c (approx ap [] [(a, 1)]) → ∀ v, test x i v → writes (exec (.fcmpI c ap p k un a imm t) s) v) ∧
    (Ready s u c (precise [(d, 1)] [(a, 1)] []) →
      Completes c s u 0 (exec (.fcls c d a t) s) (u.t.setReg d ⟨BitVec.ofNat 32 (fclsF t (u.t.val a).toNat), .P⟩) ∧
      Completes c s u 0 (exec (.frnd c d a t rm) s) (u.t.setReg d ⟨BitVec.ofNat 32 (frndF t rm (u.t.val a).toNat), .P⟩)) ∧
    (Ready s u c (precise [(d, 1)] [(a, 1), (b, 1)] []) →
      Completes c s u 0 (exec (.fscl c d a b t rm) s) (u.t.setReg d ⟨BitVec.ofNat 32 (roundF t rm false 0
        (match x with | .num neg m e => .num neg m (e + (u.t.val b).toInt) | v => v)), .P⟩))

/-- R137: of two operands FMIN returns the lesser and FMAX the greater as it stands, -0 below +0; the other operand of one NaN, the
canonical NaN of two. -/
def Sys2Proof.Machine.MinimumNumber : Prop :=
  ∀ (t : Ty) (mx : Bool) (a b : Nat), t ∈ arithTypes → a < 2 ^ t.bits → b < 2 ^ t.bits →
    let x := decodeF t a
    let y := decodeF t b
    let r := fminmax t mx a b
    (x = .nan → y = .nan → r = nanCode t) ∧ (x = .nan → y ≠ .nan → r = b) ∧ (x ≠ .nan → y = .nan → r = a) ∧
    (x.lt y = true → r = if mx then b else a) ∧ (y.lt x = true → r = if mx then a else b) ∧
    (a = signBit t → b = 0 → r = if mx then b else a) ∧ (a = 0 → b = signBit t → r = if mx then a else b)

/-- R137 to R139: FMIN, FMAX, FCMP and FCLS, and what the smaller of two codes is. -/
def Obligations.FloatCompares : Prop := FloatCompareAndClass ∧ MinimumNumber

/-- R143: FRCP and FSQRT round correctly; FRSQ to FTNH are one fixed function of the operand each, F, which gives the table's results
on special inputs and the correctly rounded result in `.f16`. -/
def Obligations.RootsAndTranscendentals : Prop :=
  (∀ (s : State) (u : Cur) (c : Ctl) (d a : G) (t : Ty) (rm : Rm), Ready s u c (precise [(d, 1)] [(a, 1)] []) →
    Completes c s u 0 (exec (.frcp c d a t rm) s)
      (u.t.setReg d ⟨BitVec.ofNat 32 (roundF t rm false 0 (recipF (valueAt u t a))), .P⟩) ∧
    Completes c s u 0 (exec (.fsqrt c d a t rm) s)
      (u.t.setReg d ⟨BitVec.ofNat 32 (roundF t rm false 0 (sqrtF (valueAt u t a))), .P⟩)) ∧
  ∃ F : Trans → Ty → Nat → Nat,
    (∀ t ∈ ([.f32, .f16] : List Ty),
      let ninf := signed t true (infCode t)
      let inf := infCode t
      let one := rne t (.num false 1 0)
      let nan := nanCode t
      let minus (v : Nat) : Nat := signed t true v
      ∀ row ∈ ([(.rsq, [nan, ninf, inf, 0, nan]), (.ex2, [0, one, one, inf, nan]), (.lg2, [nan, ninf, ninf, inf, nan]),
          (.sin, [nan, minus 0, 0, nan, nan]), (.cos, [nan, one, one, nan, nan]), (.tnh, [minus one, minus 0, 0, one, nan])]
          : List (Trans × List Nat)),
        [ninf, minus 0, 0, inf, nan].map (F row.1 t) = row.2) ∧
    (∀ f x neg m e, decodeF .f16 x = .num neg m e → f.special (.num neg m e) = none →
      F f .f16 x = rne .f16 (f.exact neg m e)) ∧
    (∀ (s : State) (u : Cur) (c : Ctl) (d a : G) (t : Ty), Ready s u c (precise [(d, 1)] [(a, 1)] []) →
      let gives (f : Trans) (o : Out) : Prop :=
        Completes c s u 0 o (u.t.setReg d ⟨BitVec.ofNat 32 (F f t ((u.t.val a).toNat % 2 ^ t.bits)), .P⟩)
      gives .rsq (exec (.frsq c d a t) s) ∧ gives .ex2 (exec (.fex2 c d a t) s) ∧ gives .lg2 (exec (.flg2 c d a t) s) ∧
      gives .sin (exec (.fsin c d a t) s) ∧ gives .cos (exec (.fcos c d a t) s) ∧ gives .tnh (exec (.ftnh c d a t) s))

/-- R140, R141 and R142: the packed forms act on each half; HDOT2 rounds the sum of both products and c once. -/
def Obligations.PackedResults : Prop :=
  ∀ (s : State) (u : Cur) (c : Ctl) (ap un neg : Bool) (d a b e : G) (imm : Word) (t dt : Ty) (rm : Rm) (k : FCond),
    t ∈ ([.f16, .bf16] : List Ty) → dt ∈ arithTypes →
    let x (h : Bool) := halfAt u t h a
    let y (h : Bool) := halfAt u t h b
    let i (h : Bool) := decodeF t (if h then imm.toNat / 2 ^ 16 else imm.toNat % 2 ^ 16)
    let round (m : Rm) (v : FVal) : Nat := roundF t m false 0 v
    (Ready s u c (approx ap [(d, 1)] [(a, 1), (b, 1)]) →
      RoundedPair c s u (exec (.hadd2 c ap d a b t rm) s) ap d t (fun h => round rm (sumF rm [x h, y h])) ∧
      RoundedPair c s u (exec (.hsub2 c ap d a b t rm) s) ap d t (fun h => round rm (sumF rm [x h, (y h).neg])) ∧
      RoundedPair c s u (exec (.hmul2 c ap d a b t rm) s) ap d t (fun h => round rm ((x h).mul (y h))) ∧
      RoundedPair c s u (exec (.hmin2 c ap d a b t) s) ap d t (fun h => fminmax t false (halfCode u h a) (halfCode u h b)) ∧
      RoundedPair c s u (exec (.hmax2 c ap d a b t) s) ap d t (fun h => fminmax t true (halfCode u h a) (halfCode u h b)) ∧
      (ap = false ∨ u.b.level ≠ 8 →
        Completes c s u (if ap then 2 else 0) (exec (.hcmp2 c ap d a b t k un) s) (u.t.setReg d ⟨BitVec.ofNat 32
          ((if fcmpF t k un (halfCode u false a) (halfCode u false b) then 0xFFFF else 0)
            + (if fcmpF t k un (halfCode u true a) (halfCode u true b) then 0xFFFF else 0) * 2 ^ 16),
          if ap then .A else .P⟩)) ∧
      (∃ v, Completes c s u (if ap then 2 else 0) (exec (.hmin2 c ap d a b t) s) v) ∧
      (∃ v, Completes c s u (if ap then 2 else 0) (exec (.hmax2 c ap d a b t) s) v) ∧
      (∃ v, Completes c s u (if ap then 2 else 0) (exec (.hcmp2 c ap d a b t k un) s) v)) ∧
    (Ready s u c (approx ap [(d, 1)] [(a, 1), (b, 1), (e, 1)]) →
      RoundedPair c s u (exec (.hfma2 c ap d a b e t rm neg) s) ap d t
        (fun h => round rm (sumF rm [if neg then ((x h).mul (y h)).neg else (x h).mul (y h), halfAt u t h e])) ∧
      RoundedTo c s u (exec (.hdot2 c ap d a b e dt t rm) s) ap d dt
        (roundF dt rm false 0 (sumF rm [(x false).mul (y false), (x true).mul (y true), valueAt u dt e]))) ∧
    (Ready s u c (approx ap [(d, 1)] [(d, 1), (a, 1)]) →
      RoundedPair c s u (exec (.hfma2I c ap d a imm t) s) ap d t
        (fun h => round .rne (sumF .rne [(x h).mul (i h), halfAt u t h d])))

/-- R144 to R148: CVT converts one value, CVTN puts two into slots of its destination and keeps the other bits, CVTW takes one slot. -/
def Obligations.ConversionResults : Prop :=
  ∀ (s : State) (u : Cur) (c : Ctl) (ap sat : Bool) (d a b : G) (dt st : Ty) (rm : Rm) (k : BitVec 2) (k3 : BitVec 3),
    let wide (t : Ty) : Bool := decide (t = .n64 ∨ t = .s64)
    let src := if wide st then (u.t.pair a).toNat else (u.t.val a).toNat % 2 ^ st.bits
    let slot (t : Ty) : Nat := if t = .f16 ∨ t = .bf16 then 16 else if t = .e2m1 then 4 else 8
    let row := u.tid % 32
    (Ready s u c (approx ap [(d, if wide dt then 2 else 1)] [(a, if wide st then 2 else 1)]) →
      let r := cvtBits dt st rm sat (dither row 0) src
      if wide dt then
        Completes c s u (if ap then 1 else 0) (exec (.cvt c ap d a dt st rm sat) s) (u.t.setPair d (BitVec.ofNat 64 r))
      else ap = false ∨ dt ∈ ([.f32, .f16, .bf16, .e4m3] : List Ty) →
        RoundedTo c s u (exec (.cvt c ap d a dt st rm sat) s) ap d dt r) ∧
    (Ready s u c (approx ap [] [(d, 1), (a, 1), (b, 1)]) → ap = false ∨ dt ∈ ([.f16, .bf16, .e4m3] : List Ty) →
      let w := slot dt
      let first := 2 * k.toNat * w
      let exact (j : Nat) : Nat := roundF dt rm sat (dither row (2 * k.toNat + j)) (valueAt u .f32 (if j = 0 then a else b))
      ∃ (v : Nat → Nat) (r : Word),
        (∀ j, if ap then inEnvelope u.b.level dt (exact j) (v j) = true else v j = exact j) ∧
        (∀ i < 32, r.getLsbD i =
          if first ≤ i ∧ i < first + w then (v 0).testBit (i - first)
          else if first + w ≤ i ∧ i < first + 2 * w then (v 1).testBit (i - first - w)
          else (u.t.val d).getLsbD i) ∧
        Completes c s u (if ap then 2 else 0) (exec (.cvtn c ap d a b dt rm sat k) s) (u.t.setReg d ⟨r, if ap then .A else .P⟩)) ∧
    (Ready s u c (approx ap [(d, 1)] [(a, 1)]) → dt ∈ arithTypes →
      RoundedTo c s u (exec (.cvtw c ap d a dt st k3) s) ap d dt
        (rne dt (decodeF st ((u.t.val a).toNat / 2 ^ (k3.toNat * slot st) % 2 ^ st.bits))))

/-- R149, R150 and R324: the scaled narrow dot product, codebook decode, and endorsement by bounds. -/
def Obligations.NarrowResults : Prop :=
  ∀ (s : State) (u : Cur) (c : Ctl) (d a b e : G) (t ta tb : Ty) (q : BitVec 2),
    (Ready s u c (precise [] [(d, 1), (a, 1), (b, 1), (e, 2)] []) →
      (ta ∈ ([.e5m2, .e4m3, .e3m2, .e2m3] : List Ty) ∧ tb ∈ ([.e5m2, .e4m3, .e3m2, .e2m3] : List Ty)) ∨ (ta = .e2m1 ∧ tb = .e2m1) →
      let n := if ta = .e2m1 then 8 else 4
      let k := (n * (u.tid % 32) / 32 + q.toNat) % 4
      let sa := (u.t.val e).toNat / 2 ^ (8 * k) % 256
      let sb := (u.t.val (next e 1)).toNat / 2 ^ (8 * k) % 256
      let el (t : Ty) (g : G) (i : Nat) : FVal := decodeF t ((u.t.val g).toNat / 2 ^ (i * (32 / n)) % 2 ^ t.bits)
      let sum := match sumF .rne ((List.range n).map fun i => (el ta a i).mul (el tb b i)) with
        | .num neg m x => if m = 0 then FVal.num false 0 0 else .num neg m (x + (sa : Int) + (sb : Int) - 254)
        | v => v
      Completes c s u 0 (exec (.sdot c d a b e ta tb q) s) (u.t.setReg d ⟨BitVec.ofNat 32
        (if sa = 0xFF ∨ sb = 0xFF then nanCode .f32 else rne .f32 (sumF .rne [valueAt u .f32 d, sum])), .P⟩)) ∧
    (let idx := (u.t.val a).toNat
     let i := idx % 512
     let entry := ((s.core u.b.core).lqt.get 0 (i / 4)).toNat / 2 ^ (16 * (i % 4)) % 2 ^ 16
     let minus (w : Nat) : Bool :=
       if w = 7 then decide ((List.range 7).countP (fun j => idx.testBit (9 + j)) % 2 = 1) else idx.testBit (9 + w)
     let weight (w : Nat) : Int := (if minus w then -1 else 1) * (2 * ((entry / 2 ^ (2 * w) % 4 : Nat) : Int) + 1)
     let scale := (u.t.val b).toNat % 256
     let halfOf (kt : Ty) (w : Nat) : Nat :=
       if scale = 0xFF then nanCode kt else rne kt (.num (decide (weight w < 0)) (weight w).natAbs ((scale : Int) - 128))
     let pack (bits : Nat) (f : Nat → Nat) (ws : List Nat) : Nat := ws.foldr (fun w v => f w + 2 ^ bits * v) 0
     let reg (v : Nat) : Reg := ⟨BitVec.ofNat 32 v, .P⟩
     (Ready s u c (precise [(d, 1)] [(a, 1), (b, 1)] []) →
       Completes c s u 0 (exec (.cbx c d a b .n32) s)
         (u.t.setReg d (reg (pack 4 (fun w => (weight w % 16).toNat) (List.range 8))))) ∧
     (Ready s u c (precise [(d, 2)] [(a, 1), (b, 1)] []) →
       Completes c s u 0 (exec (.cbx c d a b .s8) s)
         ((u.t.setReg d (reg (pack 8 (fun w => (weight w % 256).toNat) [0, 1, 2, 3]))).setReg (next d 1)
           (reg (pack 8 (fun w => (weight w % 256).toNat) [4, 5, 6, 7])))) ∧
     (∀ kt ∈ ([.f16, .bf16] : List Ty), Ready s u c (precise [(d, 4)] [(a, 1), (b, 1)] []) →
       Completes c s u 0 (exec (.cbx c d a b kt) s)
         ((((u.t.setReg d (reg (pack 16 (halfOf kt) [0, 1]))).setReg (next d 1) (reg (pack 16 (halfOf kt) [2, 3]))).setReg
           (next d 2) (reg (pack 16 (halfOf kt) [4, 5]))).setReg (next d 3) (reg (pack 16 (halfOf kt) [6, 7]))))) ∧
    (Ready s u c { uses := [(d, 1), (a, 1), (b, 1), (e, 1)], taint := [(b, 1), (e, 1)], ptaint := [], ap := false, fault := none } →
      t ∈ ([.f16, .bf16, .e4m3] : List Ty) →
      let n := 2 ^ t.bits
      let v := (u.t.val a).toNat % n
      let lo := (u.t.val b).toNat % n
      let hi := (u.t.val b).toNat / n % n
      let below (x y : Nat) : Bool := (decodeF t x).lt (decodeF t y)
      ∃ r, (decodeF t v = .nan → r = (u.t.val e).toNat % n) ∧
        (decodeF t v ≠ .nan → below v lo = false → below hi v = false → r = v) ∧
        (decodeF t v ≠ .nan → below v lo = true → below hi lo = false → r = lo) ∧
        (decodeF t v ≠ .nan → below v lo = false → below hi v = true → r = hi) ∧
        Completes c s u 0 (exec (.endrc c d a b e t) s) (u.t.setReg d ⟨BitVec.ofNat 32 r, .P⟩))

/-! ### The exact arithmetic behind the results (R131, R188 to R191) -/

namespace Sys2Proof.Machine

/-- Magnitude code k of a format, unbounded above, in units of the smallest subnormal (R189). -/
def magnitudeOf (t : Ty) (k : Nat) : Nat :=
  let f := 2 ^ (fmt t).mb
  if k < f then k else (f + k % f) * 2 ^ (k / f - 1)

/-- The exponent of the smallest subnormal (R189). -/
def unitOf (t : Ty) : Int := 1 - (fmt t).bias - (fmt t).mb

/-- m · 2^e compared with magnitude code k of a format, as whole numbers of one unit. -/
def scaledM (t : Ty) (m : Nat) (e : Int) : Nat := m * 2 ^ (e - unitOf t).toNat
def scaledK (t : Ty) (e : Int) (k : Nat) : Nat := magnitudeOf t k * 2 ^ (unitOf t - e).toNat

/-- The floating formats (R188). -/
def floatTypes : List Ty := [.f32, .f16, .bf16, .e5m2, .e4m3, .e3m2, .e2m3, .e2m1]

end Sys2Proof.Machine

/-- R189: the value of a finite code is its sign and its magnitude in units of the smallest subnormal. -/
def Sys2Proof.Machine.CodeValues : Prop :=
  ∀ (t : Ty) (k : Nat) (neg : Bool), t ∈ floatTypes → k ≤ maxFinite t →
    ∃ m e, decodeF t (signed t neg k) = .num neg m e ∧ unitOf t ≤ e ∧ m * 2 ^ (e - unitOf t).toNat = magnitudeOf t k

/-- R191: a rounded magnitude is one of the two neighbouring codes that bracket m · 2^e, the code itself when it is exact; the mode
chooses: toward zero, by sign, to nearest with ties to the even code or away from zero. -/
def Sys2Proof.Machine.RoundingBrackets : Prop :=
  ∀ (t : Ty) (rm : Rm) (neg : Bool) (m : Nat) (e : Int) (dv : Nat), t ∈ floatTypes → 0 < m →
    let r := roundMag t rm neg m e dv
    let x := scaledM t m e
    ∃ lo, scaledK t e lo ≤ x ∧ x < scaledK t e (lo + 1) ∧ (r = lo ∨ r = lo + 1) ∧ (scaledK t e lo = x → r = lo) ∧
      (scaledK t e lo < x →
        (rm = .rz → r = lo) ∧ (rm = .rup → r = if neg then lo else lo + 1) ∧ (rm = .rdn → r = if neg then lo + 1 else lo) ∧
        (rm = .rne ∨ rm = .rna → 2 * x < scaledK t e lo + scaledK t e (lo + 1) → r = lo) ∧
        (rm = .rne ∨ rm = .rna → scaledK t e lo + scaledK t e (lo + 1) < 2 * x → r = lo + 1) ∧
        (rm = .rna → 2 * x = scaledK t e lo + scaledK t e (lo + 1) → r = lo + 1) ∧
        (rm = .rne → 2 * x = scaledK t e lo + scaledK t e (lo + 1) → r = if lo % 2 = 0 then lo else lo + 1))

/-- R131, R136: the sum of two finite values and the product of two finite values are exact; a sum of opposite values is +0, or -0
toward minus infinity. -/
def Sys2Proof.Machine.ExactArithmetic : Prop :=
  ∀ (rm : Rm) (a b : Bool) (m n : Nat) (e f : Int), e ≤ 4096 → f ≤ 4096 →
    let low := min e f
    let part (neg : Bool) (m : Nat) (e : Int) : Int := (if neg then -1 else 1) * (m * 2 ^ (e - low).toNat : Nat)
    let total := part a m e + part b n f
    (∃ g, g ≤ 4096 ∧ low ≤ g ∧ sumF rm [.num a m e, .num b n f] = (if total = 0 then
        .num (if m = 0 ∧ n = 0 ∧ a = b then a else decide (rm = .rdn)) 0 0
      else .num (decide (total < 0)) (total.natAbs / 2 ^ (g - low).toNat) g) ∧ 2 ^ (g - low).toNat ∣ total.natAbs) ∧
    (FVal.num a m e).mul (.num b n f) = .num (a != b) (m * n) (e + f) ∧
    sumF rm [.inf a, .inf b] = (if a = b then .inf a else .nan) ∧ (FVal.inf a).mul (.num b 0 f) = .nan ∧
    (FVal.inf a).mul (.inf b) = .inf (a != b) ∧ sumF rm [.nan, .num b n f] = .nan

/-- R316: Envelope(L, fmt, r) holds exactly the codes the rule lists, and every code of it can come about. -/
def Sys2Proof.Machine.EnvelopeMembers : Prop :=
  ∀ (l : Nat) (t : Ty) (r c : Nat), t ∈ ([.f32, .f16, .bf16, .e4m3] : List Ty) → r < 2 ^ t.bits → c < 2 ^ t.bits → l ≤ 8 →
    let dd := freeBits l t
    let frac := (fmt t).mb
    let field (c : Nat) : Nat := c % signBit t / 2 ^ frac
    let isZero := r % signBit t = 0
    let special := decodeF t r = .nan ∨ (∃ neg, decodeF t r = .inf neg) ∨ isZero
    (decodeF t r = .nan → (inEnvelope l t r c = true ↔ c = nanCode t)) ∧
    ((∃ neg, decodeF t r = .inf neg) ∨ isZero → (inEnvelope l t r c = true ↔ c = r)) ∧
    (¬ special → l = 8 → inEnvelope l t r c = true) ∧
    (¬ special → l < 8 → (inEnvelope l t r c = true ↔
      (c / 2 ^ dd = r / 2 ^ dd ∧ ¬ (t = .e4m3 ∧ c % 0x80 = 0x7F)) ∨
      (field r = 0 ∧ 1 ≤ l ∧ c = (if signBit t ≤ r then signBit t else 0)))) ∧
    (inEnvelope l t r c = true → envelope l t r c = c)

/-- R131, R136, R189, R191 and R316: what a code stands for, how an exact value is rounded, and which codes an approximate result may be. -/
def Obligations.RoundingRules : Prop := CodeValues ∧ RoundingBrackets ∧ ExactArithmetic ∧ EnvelopeMembers

/-! ### Control flow (R40, R50, R53 to R61, R153 to R158) -/

namespace Sys2Proof.Machine

/-- The answer o is a next state: from s thread u has become t and has gone on, nothing else changed, and then F acted. -/
def GoesOnThen (c : Ctl) (s : State) (u : Cur) (t : Thread) (o : Out) (F : State → State) : Prop :=
  ∃ s1, ThreadOnly (GoesOn c t) 0 s s1 u ∧ o = .next (F s1)

/-- The checks of an instruction that names no register. -/
def noOperands : Checks := precise [] [] []

/-- A target by a displacement in words from the clause header (R85, R153). -/
def branchTarget (t : Thread) (imm : Word) : Addr := t.pc - BitVec.ofNat 57 (8 * t.slot) + 8 * imm.signExtend 57

/-- A return entry (R154): the slot after the call in bits 59 to 57 over its address, or bit 63 and the next header. -/
def IsReturnEntry (t : Thread) (e : DWord) : Prop :=
  e.setWidth 57 = t.pc + 8 ∧ e.getLsbD 63 = t.lastSlot ∧ e.toNat / 2 ^ 57 % 8 = (if t.lastSlot then 0 else (t.slot + 1) % 8)
    ∧ e.toNat / 2 ^ 60 % 8 = 0

end Sys2Proof.Machine

/-- R153, R53 and R54: BRA and BRX go to a header. Two idle iterations of one backward branch in a row demote a thread in normal mode;
otherwise a branch leaves the mode as it is, and it changes nothing but mode and spin detector. -/
def Sys2Proof.Machine.BranchResults : Prop :=
  ∀ (s : State) (u : Cur) (c : Ctl) (a : G) (imm : Word) (stride : BitVec 2),
    let clk := s.clkOf u.b.core
    let taken (dest : Addr) : Thread := { u.t.spun dest clk with pc := dest, slot := 0, rpt := none }
    let dest := branchTarget u.t imm
    (Ready s u c noOperands → CompletesAt c s u 0 (exec (.bra c imm) s) (taken dest)) ∧
    (Ready s u c (precise [] [(a, 1)] []) →
      CompletesAt c s u 0 (exec (.brx c a imm stride) s)
        (taken (dest + BitVec.ofNat 57 ((u.t.val a).toNat * 16 * 2 ^ stride.toNat)))) ∧
    (u.t.spun dest clk).bare = u.t.bare ∧
    (let again := dest ≤ u.t.pc ∧ u.t.spin.branch = some (dest, u.t.pc) ∧ u.t.spin.dirty = false ∧ 1 ≤ u.t.spin.idle
     (again → u.t.mode = .normal → (u.t.spun dest clk).mode = .demoted ∧ (u.t.spun dest clk).spin.watched = u.t.spin.loaded.take 4) ∧
     (¬ again ∨ u.t.mode ≠ .normal → (u.t.spun dest clk).mode = u.t.mode))

/-- R153, R154 and R155 on the chip: CALL and CALLR push the return entry and go to the target, RET pops it and goes there. A target
that is no code address, and RET with nothing to pop, fault with 0x02; a push past slot 255 of the record with 0x10. -/
def Sys2Proof.Machine.CallAndReturn : Prop :=
  ∀ (s : State) (u : Cur) (c : Ctl) (a : G) (imm : Word),
    let dest := (u.t.pair a).toNat
    (Ready s u c noOperands → u.t.ret.length < 16 →
      ∃ e, IsReturnEntry u.t e ∧ CompletesAt c s u 0 (exec (.call c imm) s)
        { u.t with ret := e :: u.t.ret, pc := branchTarget u.t imm, slot := 0, rpt := none }) ∧
    (Ready s u c (precise [] [(a, 2)] []) → u.t.ret.length < 16 → dest % 8 = 0 → dest < 2 ^ 57 →
      ∃ e, IsReturnEntry u.t e ∧ CompletesAt c s u 0 (exec (.callr c a) s)
        { u.t with ret := e :: u.t.ret, pc := BitVec.ofNat 57 dest, slot := 0, rpt := none }) ∧
    (Ready s u c (precise [] [(a, 2)] []) → dest % 8 ≠ 0 ∨ 2 ^ 57 ≤ dest →
      exec (.callr c a) s = .next (s.syncFault u.b u.tid u.t 0x02)) ∧
    (Ready s u c noOperands → 16 ≤ u.t.ret.length → 256 ≤ u.t.retSp →
      exec (.call c imm) s = .next (s.syncFault u.b u.tid u.t 0x10)) ∧
    (∀ e rest, Ready s u c noOperands → u.t.ret = e :: rest →
      CompletesAt c s u 0 (exec (.ret c) s) { u.t with
        ret := rest, pc := e.setWidth 57, slot := if e.getLsbD 63 then 0 else e.toNat / 2 ^ 57 % 8, rehdr := true, rpt := none }) ∧
    (Ready s u c noOperands → u.t.ret = [] → u.t.retSp = 0 → exec (.ret c) s = .next (s.syncFault u.b u.tid u.t 0x02))

/-- R53, R54 and R153 to R155: branches, calls and returns. -/
def Obligations.BranchesAndCalls : Prop := BranchResults ∧ CallAndReturn

/-- R57, R58 and R59 on the chip: RJP opens a region with the live lanes of its mask and clears the own bits of its masks; RJW pops an
entry and arrives, or is gone from another region; BRK pops n entries and is gone from their regions. -/
def Obligations.RejoinRegions : Prop :=
  ∀ (s : State) (u : Cur) (c : Ctl) (id n : BitVec 4) (mask : Word) (r : G),
    let g := u.tid / 32
    let bit : Word := BitVec.ofNat 32 (2 ^ (u.tid % 32))
    let onGang (f : Gang → Gang) (s : State) : State :=
      s.modBlock u.b.bid (fun b => { b with gangs := b.gangs.modify g f })
    let opened (s : State) : State := onGang (fun x => { x with
      arrival := x.arrival.modify id.toNat (· &&& ~~~bit), gone := x.gone.modify id.toNat (· &&& ~~~bit) }) s
    let gone (i : Nat) (x : Gang) : Gang := { x with gone := x.gone.modify i (· ||| bit) }
    (Ready s u c noOperands → u.t.rej.length < 8 →
      Completes c (opened s) u 0 (exec (.rjp c id mask) s) { u.t with rej := (id.toNat, mask &&& u.b.liveMask g) :: u.t.rej }) ∧
    (Ready s u c (precise [] [(r, 1)] []) → u.t.rej.length < 8 →
      Completes c (opened s) u 0 (exec (.rjpReg c id r) s)
        { u.t with rej := (id.toNat, u.t.val r &&& u.b.liveMask g) :: u.t.rej }) ∧
    (∀ e rest, Ready s u c noOperands → u.t.rej = e :: rest →
      (e.1 = id.toNat → GoesOnThen c s u { u.t with rej := rest } (exec (.rjw c id) s) fun s =>
        (onGang (fun x => { x with arrival := x.arrival.modify id.toNat (· ||| bit) }) s).modThread u.b.bid u.tid
          (fun t => { t with park := .rjw id.toNat e.2 (if u.b.shape.rjto = 0 then 4096 else u.b.shape.rjto) })) ∧
      (e.1 ≠ id.toNat → GoesOnThen c s u { u.t with rej := rest } (exec (.rjw c id) s) (onGang (gone e.1)))) ∧
    (Ready s u c noOperands → u.t.rej = [] → u.t.rejSp = 0 → Completes c s u 0 (exec (.rjw c id) s) u.t) ∧
    (Ready s u c noOperands → n.toNat ≤ u.t.rej.length ∨ u.t.rejSp = 0 →
      GoesOnThen c s u { u.t with rej := u.t.rej.drop n.toNat } (exec (.brk c n) s)
        (onGang fun x => (u.t.rej.take n.toNat).foldl (fun x e => gone e.1 x) x))

/-- R40, R59, R50 and R158: EXIT ends its thread, which is gone from every region of its gang, and commits at system scope; YLD and
SLEEP 0 end the thread's tenure as lead; SLEEP n parks it. -/
def Obligations.ExitYieldSleep : Prop :=
  ∀ (s : State) (u : Cur) (c : Ctl) (n : BitVec 26), Ready s u c noOperands →
    GoesOnThen c s u { u.t with life := .exited } (exec (.exit c) s) (fun s =>
      (s.modBlock u.b.bid fun b => { b with
        exits := b.exits + 1
        gangs := b.gangs.modify (u.tid / 32) fun g => { g with
          gone := g.gone.map (· ||| BitVec.ofNat 32 (2 ^ (u.tid % 32)))
          arrivals := g.arrivals.filter (fun a => a.tid != u.tid || a.bad) } }).commit u.b.bid .sys true (.exit u.tid)) ∧
    GoesOnThen c s u u.t (exec (.yld c) s) (fun s => s.endTenure u.b u.tid) ∧
    GoesOnThen c s u u.t (exec (.sleep c 0) s) (fun s => s.endTenure u.b u.tid) ∧
    (n ≠ 0 → Completes c s u 0 (exec (.sleep c n) s) { u.t with park := .sleep n.toNat }) ∧
    (∀ s1 : State, ((s1.core u.b.core).quarters.get Quarter.reset (u.tid / 32 % 4)).lead = some (u.b.bid, u.tid) →
      (((s1.endTenure u.b u.tid).core u.b.core).quarters.get Quarter.reset (u.tid / 32 % 4)).lead = none)

/-! ### Collectives (R62 to R64, R159 to R164) -/

namespace Sys2Proof.Machine

/-- The checks of a collective pass (R62, R151): ranges m and those of k exist, the guard is of a fitting type, the mask's register is
precise, and with a true guard the sources are. -/
def Arrives (s : State) (u : Cur) (c : Ctl) (m : List (G × Nat)) (k : Checks) : Prop :=
  s.cur = some u ∧ (m ++ k.uses).all u.t.has = true ∧ k.guardBad u.t c = false ∧ m.any u.t.tainted = false ∧
    (u.t.guard c = true → k.tainted u.t = false)

/-- The thread goes on with the next sequence number, its flag counts when the guard is true, and its arrival joins its gang's: what it
brings is x's signature, mask and contribution. A mask without the own lane faults with 0x30 (R62). -/
def ArrivesWith (c : Ctl) (s : State) (u : Cur) (o : Out) (x : Brings) : Prop :=
  let flag := if u.t.guard c then u.t.flagOf else none
  (x.mask.getLsbD (u.tid % 32) = true →
    GoesOnThen c { s with ids := s.ids + 1 } u { u.t.addFlag flag with seq := u.t.seq + 1 } o fun s1 =>
      s1.arrive u.b.bid (u.tid / 32)
        { seq := u.t.seq, lane := u.tid % 32, tid := u.tid, sig := x.sig, mask := x.mask, guard := u.t.guard c, lo := x.lo,
          hi := x.hi, idx := x.idx, d := x.d, ps := x.ps, flag := flag, site := u.t.site, addr := u.t.pc, last := u.t.lastSlot,
          bad := false, oid := s.ids }) ∧
  (x.mask.getLsbD (u.tid % 32) = false → o = .next (s.syncFault u.b u.tid u.t 0x30))

/-- A vote of predicate pa; a value in a register or pair. -/
def voteOf (u : Cur) (sig : CSig) (mask : Word) (d : Nat) (pa : PF) : Brings :=
  { sig := sig, mask := mask, lo := ⟨0, .P⟩, hi := ⟨0, .P⟩, idx := if (u.t.pred pa).val then 1 else 0, d := d, ps := 7 }
def valueOf (u : Cur) (sig : CSig) (mask : Word) (a : G) (idx d : Nat) (ps : PF) : Brings :=
  { sig := sig, mask := mask, lo := u.t.reg a, hi := u.t.reg (next a 1), idx := idx, d := d, ps := ps }

end Sys2Proof.Machine

/-- R62, R159 and R160: what each collective brings to the rendezvous. -/
def Sys2Proof.Machine.CollectiveArrivals : Prop :=
  ∀ (s : State) (u : Cur) (c : Ctl) (ap wide excl : Bool) (d a b m : G) (pd pa ps : PF) (mask : Word) (t : Ty) (op : FoldOp)
    (ms : MaskSpec),
    let n := if wide then 2 else 1
    let k := if t.bits = 64 then 2 else 1
    let mr := ms.reads
    let mv := ms.mask u.t
    (Arrives s u c [(m, 1)] noOperands →
      ArrivesWith c s u (exec (.rdv c m) s)
        { sig := .rdv, mask := u.t.val m, lo := ⟨0, .P⟩, hi := ⟨0, .P⟩, idx := 0, d := 255, ps := 7 }) ∧
    (Arrives s u c [] noOperands →
      ArrivesWith c s u (exec (.rdvI c mask) s)
        { sig := .rdv, mask := mask, lo := ⟨0, .P⟩, hi := ⟨0, .P⟩, idx := 0, d := 255, ps := 7 }) ∧
    (Arrives s u c [(m, 1)]
        { uses := [(d, n), (a, n), (b, 1)], taint := [(b, 1)], ptaint := [], ap := false, fault := none } →
      let x (w : Nat) := valueOf u (.shuffle w wide) (u.t.val m) a ((u.t.val b).toNat % 32) d.toNat ps
      ArrivesWith c s u (exec (.gshf c d a b m wide ps) s) (x 0) ∧ ArrivesWith c s u (exec (.gshx c d a b m wide ps) s) (x 1) ∧
      ArrivesWith c s u (exec (.gshu c d a b m wide ps) s) (x 2) ∧ ArrivesWith c s u (exec (.gshd c d a b m wide ps) s) (x 3)) ∧
    (Arrives s u c [(m, 1)] (precise [(d, 1)] [] [pa]) →
      ArrivesWith c s u (exec (.gbal c d pa m) s) (voteOf u .ballot (u.t.val m) d.toNat pa)) ∧
    (Arrives s u c [] (precise [(d, 1)] [] [pa]) →
      ArrivesWith c s u (exec (.gbalI c d pa mask) s) (voteOf u .ballot mask d.toNat pa)) ∧
    (Arrives s u c [(m, 1)] (precise [] [] [pa]) →
      ArrivesWith c s u (exec (.gany c pd pa m) s) (voteOf u .any (u.t.val m) pd.toNat pa) ∧
      ArrivesWith c s u (exec (.gall c pd pa m) s) (voteOf u .all (u.t.val m) pd.toNat pa)) ∧
    (Arrives s u c [] (precise [] [] [pa]) →
      ArrivesWith c s u (exec (.ganyI c pd pa mask) s) (voteOf u .any mask pd.toNat pa) ∧
      ArrivesWith c s u (exec (.gallI c pd pa mask) s) (voteOf u .all mask pd.toNat pa)) ∧
    (Arrives s u c mr (approx ap [(d, k)] [(a, k)]) →
      ArrivesWith c s u (exec (.gred c ap d a t op ms) s) (valueOf u (.red ap t op) mv a 0 d.toNat 7) ∧
      ArrivesWith c s u (exec (.gscn c ap d a t op excl ms) s) (valueOf u (.scan ap t op excl) mv a 0 d.toNat 7)) ∧
    (Arrives s u c mr (precise [(d, 1)] [(a, n)] []) →
      ArrivesWith c s u (exec (.gmat c d a wide ms) s) (valueOf u (.mat wide) mv a 0 d.toNat 7))

/-- R63: RENDEZVOUS_COMPLETE lets every arrival that can meet all its mask names complete: it leaves the gang, and its thread gets the
collective's result and its flag counts down, a demoted one at most returns to normal mode (R55); the gang's other arrivals and memory
stay. -/
def Sys2Proof.Machine.RendezvousCompletes : Prop :=
  ∀ (s : State) (b : Block) (gang : Nat) (g : Gang) (seq : BitVec 16), s.block? b.bid = some b → b.gangs[gang]? = some g →
    let done := g.arrivals.filter (fun x => x.seq == seq && b.canMeet gang g x)
    ∃ s' b', exec (.rendezvousComplete b.bid gang seq) s = .next s' ∧ s'.mem = s.mem ∧ s'.block? b.bid = some b' ∧
      b'.gangs[gang]? = some { g with arrivals := g.arrivals.filter (fun x => !done.any (fun y => y.oid == x.oid)) } ∧
      (∀ x t, x ∈ done → (∀ y ∈ done, y.tid = x.tid → y = x) → done.Nodup → b.threads[x.tid]? = some t →
        ∃ m sp, b'.threads[x.tid]? = some { (x.finish b.level s.free (g.group x) t).endFlag x.flag with mode := m, spin := sp } ∧
          (m = t.mode ∨ (t.mode = .demoted ∧ m = .normal))) ∧
      (∀ tid, (∀ y ∈ done, y.tid ≠ tid) → b'.threads[tid]? = b.threads[tid]?)

/-- R62, R63, R159 and R160: arrivals at collectives, and when they meet. -/
def Obligations.CollectiveMeetings : Prop := CollectiveArrivals ∧ RendezvousCompletes

/-- R161 to R164 and R66: what a participant x with a true guard receives, from the participants ps: a shuffle the value and type of its
source lane with pS true, else zero and false; a ballot the lanes that vote true; any, all; a match the lanes of equal value. -/
def Sys2Proof.Machine.CollectiveResults : Prop :=
  ∀ (x : Arrival) (level free : Nat) (ps : List Arrival) (t : Thread) (wide : Bool) (which : Nat), x.d < 256 →
    let d : G := BitVec.ofNat 8 x.d
    let from_ (l : Nat) : Option Arrival := ps.find? (fun y => y.lane == l && y.guard)
    let j : Nat := match which with
      | 0 => x.idx
      | 1 => x.lane ^^^ x.idx
      | 2 => if x.idx ≤ x.lane then x.lane - x.idx else x.lane
      | _ => if x.lane + x.idx ≤ 31 then x.lane + x.idx else x.lane
    (x.guard = false → x.finish level free ps t = t) ∧
    (x.guard = true → x.sig = .rdv → x.finish level free ps t = t) ∧
    (x.guard = true → x.sig = .shuffle which wide →
      (∀ y, from_ j = some y → x.finish level free ps t
        = (if wide then (t.setReg d y.lo).setReg (next d 1) y.hi else t.setReg d y.lo).setPred x.ps ⟨true, .P⟩) ∧
      (from_ j = none → x.finish level free ps t
        = (if wide then (t.setReg d ⟨0, .P⟩).setReg (next d 1) ⟨0, .P⟩ else t.setReg d ⟨0, .P⟩).setPred x.ps ⟨false, .P⟩)) ∧
    (x.guard = true → x.sig = .ballot → (ps.map (·.lane)).Nodup → (∀ y ∈ ps, y.lane < 32) →
      ∃ m : Word, (∀ l < 32, m.getLsbD l = ps.any (fun y => y.lane == l && y.guard && y.idx == 1)) ∧
        x.finish level free ps t = t.setReg d ⟨m, .P⟩) ∧
    (x.guard = true → x.sig = .any →
      x.finish level free ps t = t.setPred (BitVec.ofNat 3 x.d) ⟨ps.any (fun y => y.guard && y.idx == 1), .P⟩) ∧
    (x.guard = true → x.sig = .all →
      x.finish level free ps t = t.setPred (BitVec.ofNat 3 x.d) ⟨!ps.any (fun y => y.guard && y.idx != 1), .P⟩) ∧
    (x.guard = true → x.sig = .mat wide → (ps.map (·.lane)).Nodup → (∀ y ∈ ps, y.lane < 32) →
      ∃ m : Word, (∀ l < 32, m.getLsbD l
          = ps.any (fun y => y.lane == l && y.guard && y.lo.val == x.lo.val && (!wide || y.hi.val == x.hi.val))) ∧
        x.finish level free ps t = t.setReg d ⟨m, .P⟩)

/-- R163: GRED gives the fold of all lanes of the mask in ascending order from the neutral value, GSCN the value after or before the own
lane's step; a lane with no participant or a false guard contributes the neutral value. An approximate sum is at each step some member of
the envelope. -/
def Sys2Proof.Machine.FoldResults : Prop :=
  ∀ (x : Arrival) (level free : Nat) (ps : List Arrival) (t : Thread) (ap : Bool) (ty : Ty) (op : FoldOp) (excl : Bool),
    (ap = false ∧ ty ∈ ([.n32, .s32, .n64, .s64, .f32, .f16, .bf16] : List Ty)) ∨
      (ap = true ∧ ty ∈ ([.f16, .bf16, .e4m3] : List Ty) ∧ op ∈ ([.add, .min, .max] : List FoldOp)) →
    x.lane < 32 → x.guard = true →
    let wide := ty = .n64 ∨ ty = .s64
    let con (i : Nat) : Nat := match ps.find? (fun y => y.lane == i && y.guard) with
      | some y => (y.lo.val.toNat + (if wide then y.hi.val.toNat * 2 ^ 32 else 0)) % 2 ^ ty.bits
      | none => neutral op ty
    let d : G := BitVec.ofNat 8 x.d
    let tb : TBit := if ap then .A else .P
    let written (v : Nat) : Thread :=
      if wide then (t.setReg d ⟨BitVec.ofNat 32 v, tb⟩).setReg (next d 1) ⟨BitVec.ofNat 32 (v / 2 ^ 32), tb⟩
      else t.setReg d ⟨BitVec.ofNat 32 v, tb⟩
    ∃ acc : Nat → Nat, acc 0 = neutral op ty ∧
      (∀ i < 32, x.mask.getLsbD i = false → acc (i + 1) = acc i) ∧
      (∀ i < 32, x.mask.getLsbD i = true → ap = false ∨ (op ≠ .add ∧ level ≠ 8) →
        acc (i + 1) = foldStep op ty (acc i) (con i)) ∧
      (∀ i < 32, x.mask.getLsbD i = true → ap = true → op = .add →
        inEnvelope level ty (foldStep op ty (acc i) (con i)) (acc (i + 1)) = true) ∧
      (x.sig = .red ap ty op → x.finish level free ps t = written (acc 32)) ∧
      (x.sig = .scan ap ty op excl → x.finish level free ps t = written (if excl then acc x.lane else acc (x.lane + 1)))

/-- R66 and R161 to R164: what a collective gives its participants. -/
def Obligations.CollectiveAnswers : Prop := CollectiveResults ∧ FoldResults

/-! ### Memory (R12, R46, R229 to R305) -/

namespace Sys2Proof.Machine

/-- From s thread u has become t and has gone on, nothing else changed; then the state changed as R says, which is the answer o. -/
def GoesOnWith (c : Ctl) (s : State) (u : Cur) (t : Thread) (o : Out) (R : State → State → Prop) : Prop :=
  ∃ s1 s2, ThreadOnly (GoesOn c t) 0 s s1 u ∧ R s1 s2 ∧ o = .next s2

/-- The position q of an access of n bytes at offset o of record r is in bounds (R233). -/
def InBounds (r : Rec) (o : Int) (n q : Nat) : Prop :=
  (recRows r = 0 ∧ 0 ≤ o ∧ o + n ≤ recExtent r ∧ (q : Int) = recBase r + o) ∨
  (recRows r ≠ 0 ∧ ∃ row col : Nat, o = row * recExtent r + col ∧ row < recRows r ∧ col + n ≤ recExtent r ∧
    q = recBase r + row * recStride r + col)

/-- The state in which the present access a has issued: numbers begin after its own, and its thread's earlier loads of its bytes keep what
they found (R285). -/
def State.takes (s : State) (a : Acc) : State := s.issued.closeLoads a

/-- The operand log changed in nothing but the bytes that waiting accesses keep (R285). -/
def SameLog (a b : List OpEntry) : Prop :=
  ∃ f : Acc → List (Nat × Byte), b = a.map fun o => { o with acc := o.acc.map fun x => { x with kept := f x } }

/-- An operation is pending whose result arrives later, and its thread's flag counts it (R46); what holds the machine's data did not
change. -/
def Awaits (s : State) (u : Cur) (k : PendK) (s1 s2 : State) : Prop :=
  ∃ p, s2.pend = s1.pend ++ [p] ∧ p.bid = u.b.bid ∧ p.tid = u.tid ∧ p.flag = u.t.flagOf ∧ p.id = s.ids ∧ p.kind = k ∧
    s2.blocks = s1.blocks ∧ s2.mem = s1.mem ∧ s2.tags = s1.tags ∧ SameLog s1.oplog s2.oplog

/-- Nothing has changed but what a read of a store that ECC protects leaves: the injector's registers, and an error to handle next (R343,
R353). -/
def ReadOnly (s1 s2 : State) : Prop :=
  ∃ ag n x y c, s2 = { s1 with agenda := ag, injCount := n, injX := x, injY := y, injCtl := c }

/-- Whether a physical address is on this package, not in a peer's window (R402). -/
def State.near (s : State) (pa : Nat) : Prop := ∀ p w o, s.target pa ≠ .damask p w o

/-- The bytes of a scratchpad are settled for reading: precise, no earlier write kept (R286, R318). -/
def Block.settledAt (o : Block) (pos n : Nat) : Prop :=
  pos < o.pbytes ∧ pos + n ≤ o.pbytes ∧ (∀ w ∈ o.hist, w.pos < pos ∨ pos + n ≤ w.pos)

end Sys2Proof.Machine

/-- R229, R233, R234, R259 and R260: where an access of n bytes at gX + disp goes. Out of bounds it is clamped or faults with 0x10, off its
alignment it faults with 0x11; then the swizzle moves its 16-byte chunk within its line. -/
def Obligations.AccessPlaces : Prop :=
  ∀ (s : State) (b : Block) (tid : Nat) (r : Rec) (g : Word) (disp : BitVec 16) (n al : Nat), 0 < n →
    let o : Int := g.toInt + disp.toInt
    let loc := s.locate b tid r (offsetOf g disp.toInt) n al
    let out : Located := if recClamp r then .clamped else .fault 0x10
    let tl := b.shape.tlsz * 128
    let lin := recBase r / 2 ^ 19
    let swz (a : Nat) := swizzle (recSwz r) a
    ((∀ q, ¬ InBounds r o n q) → loc = out) ∧
    (∀ q, InBounds r o n q →
      (recSpace r = 0 → loc = if q % 2 ^ 57 % al ≠ 0 then .fault 0x11 else .global (swz (q % 2 ^ 57))) ∧
      (recSpace r = 1 → loc = if b.abytes < q + n then out else if q % al ≠ 0 then .fault 0x11 else .scr b.bid (swz q)) ∧
      (recSpace r = 3 → loc = if tl < q + n then out
        else if (b.shape.tlbase + b.gid tid * tl + q) % 2 ^ 57 % al ≠ 0 then .fault 0x11
        else .global (swz ((b.shape.tlbase + b.gid tid * tl + q) % 2 ^ 57))) ∧
      (recSpace r = 2 → ∀ x, (if lin = b.lin then some b else s.onCluster b lin) = x →
        loc = match x with
          | none => .absent
          | some x => if x.abytes < q - lin * 2 ^ 19 + n then out else if (q - lin * 2 ^ 19) % al ≠ 0 then .fault 0x11
              else .scr x.bid (swz (q - lin * 2 ^ 19)))) ∧
    (∀ m a : Nat,
      (m ≠ 1 → m ≠ 2 → swizzle m a = a) ∧
      swizzle 1 a / 64 = a / 64 ∧ swizzle 1 a % 16 = a % 16 ∧ swizzle 1 a / 16 % 4 = (a / 16 % 4) ^^^ (a / 128 % 4) ∧
      swizzle 2 a / 128 = a / 128 ∧ swizzle 2 a % 16 = a % 16 ∧ swizzle 2 a / 16 % 8 = (a / 16 % 8) ^^^ (a / 128 % 8) ∧
      swizzle m (swizzle m a) = a)

/-- R46, R237, R249, R250 and R252: LD and BGET issue: a fault of the place stops them with nothing written; a global access that
passes its checks, a settled scratchpad access and a clamped one leave a pending operation with the bytes found. -/
def Obligations.LoadIssue : Prop :=
  ∀ (s : State) (u : Cur) (c : Ctl) (d : G) (kd k : BF) (b : G) (t : Ty) (n : VCnt) (cache : Cache) (disp : BitVec 16),
    let sz := n.num * t.bytes
    let place := s.placeOf u k b disp sz sz
    let r := u.t.buf k
    let o := exec (.ld c d k b t n cache disp) s
    let m : MemK := .load d t n (cache == .nl1) (place.swaps sz)
    let acc := s.accOf u m k b disp sz (loadTy r)
    let on := u.t.addFlag u.t.flagOf
    let place' := s.placeOf u k b disp 16 16
    let o' := exec (.bget c kd k b disp) s
    let acc' := s.accOf u (.bget kd) k b disp 16 .P
    (Ready s u c (precise [(d, memRegs t n)] [(b, 1)] []) → (u.b.shape.det = true → recSpace r ≠ 2) →
      (∀ f, place = .fault f → o = .next (s.syncFault u.b u.tid u.t f)) ∧
      (∀ a s1 x data ty pa, place.chunks sz = .global a → s.prepare u.b { acc with a := a } = .go s1 x data ty →
        x.pa = some pa → s1.near pa → GoesOnWith c (s1.takes { acc with a := a }) u on o (Awaits s u (.load d t n ty data x))) ∧
      (∀ a, place.chunks sz = .global a → s.prepare u.b { acc with a := a } = .fault 0x21 →
        o = .next (s.syncFault u.b u.tid u.t 0x21)) ∧
      (∀ w pos x, place.chunks sz = .scr w pos → s.block? w = some x → x.settledAt pos sz → ∃ y,
        GoesOnWith c (s.takes { acc with space := 1, owner := w, a := pos }) u on o (Awaits s u (.load d t n .P (x.bank pos sz) y))) ∧
      (place = .clamped → GoesOnWith c s.issued u on o (Awaits s u
        (.regs (ldRegs d t (loadTy r) n.num (List.replicate sz 0) 0) Know.none [])))) ∧
    (Ready s u c (precise [] [(b, 1)] []) → (u.b.shape.det = true → recSpace r ≠ 2) →
      (∀ f, place' = .fault f → o' = .next (s.syncFault u.b u.tid u.t f)) ∧
      (∀ a s1 x data ty pa, place' = .global a → s.prepare u.b { acc' with a := a } = .go s1 x data ty →
        x.pa = some pa → s1.near pa → GoesOnWith c (s1.takes { acc' with a := a }) u on o' (Awaits s u (.bget kd ty data))) ∧
      (place' = .clamped → GoesOnWith c s.issued u on o' (Awaits s u (.bget kd .P (List.replicate 16 0)))))

/-- R12, R46, R250 and R252: a result arrives: the pending operation is gone, its flag counts down, and its thread has the value: an
element narrower than a register extended by its type, one of 8 bytes in a pair, the bytes found at issue unless the line may be read
again until now (R285); BGET's record when its image is valid and precise, else an asynchronous fault with the record unchanged. -/
def Obligations.LoadCompletion : Prop :=
  (∀ (s : State) (op : Nat) (p : Pend) (b : Block) (t : Thread), s.pend.find? (fun x => x.id == op) = some p →
    s.block? p.bid = some b → b.thread? p.tid = some t →
    let left := s.pend.filter (fun x => x.id != op)
    let done (ps : State → Prop) (f : Thread → Thread) : Prop := ∃ s', exec (.loadComplete op) s = .next s' ∧
      s'.thread? p.bid p.tid = some ((f t).endFlag p.flag) ∧ ps s' ∧ s'.mem = s.mem ∧
      ∀ x y, (x, y) ≠ (p.bid, p.tid) → s'.thread? x y = s.thread? x y
    let gone (s' : State) : Prop := s'.pend = left
    let goneToo (s' : State) : Prop := s'.pend.map (·.id) = left.map (·.id)
    (p.kind = .nothing → done gone id) ∧
    (∀ ws k r, p.kind = .regs ws k r →
      done gone (fun t => { t.land ws with know := t.know.join k, read := t.read ++ r })) ∧
    (∀ d ty n tag bytes a, p.kind = .load d ty n tag bytes a →
      (∃ bs, done goneToo (fun t => t.land (ldRegs d ty tag n.num (a.kind.ordered bs) 0))) ∧
      ((∀ y, p.acc = some y → y.pa = none) → done gone (fun t => t.land (ldRegs d ty tag n.num (a.kind.ordered bytes) 0)))) ∧
    (∀ k bytes, p.kind = .bget k .P bytes → recOk (BitVec.ofNat 128 (ofBytes bytes)) = true →
      done gone (fun t => t.setBuf k (BitVec.ofNat 128 (ofBytes bytes)))) ∧
    (∀ k tag bytes, p.kind = .bget k tag bytes → tag = .A ∨ recOk (BitVec.ofNat 128 (ofBytes bytes)) = false →
      ∃ s' t', exec (.loadComplete op) s = .next s' ∧ s'.thread? p.bid p.tid = some t' ∧ t'.bufs = t.bufs ∧ t'.flags = (t.endFlag p.flag).flags ∧
        (t.fault = none → ∃ f, t'.fault = some f ∧ f.code = (if tag = .A then 0x20 else 0x14)))) ∧
  (∀ (t : Thread) (d : G) (ty : Ty) (tag : TBit) (n : Nat) (bytes : List Byte), ty.bits = 8 ∨ ty.bits = 16 ∨ ty.bits = 32 ∨ ty.bits = 64 →
    let w := if ty.bits = 64 then 2 else 1
    let v (e : Nat) := ofBytes ((bytes.drop (e * ty.bytes)).take ty.bytes)
    d.toNat + n * w ≤ t.regs.length → t.regs.length ≤ 255 →
    let t' := t.land (ldRegs d ty tag n bytes 0)
    (∀ e, e < n → ty.bits ≠ 64 → t'.regs[d.toNat + e]? =
      some ⟨if ty.isSigned then (BitVec.ofNat ty.bits (v e)).signExtend 32 else BitVec.ofNat 32 (v e), tag⟩) ∧
    (∀ e, e < n → ty.bits = 64 → t'.regs[d.toNat + 2 * e]? = some ⟨BitVec.ofNat 32 (v e), tag⟩ ∧
      t'.regs[d.toNat + 2 * e + 1]? = some ⟨BitVec.ofNat 32 (v e / 2 ^ 32), tag⟩) ∧
    (∀ i, i < d.toNat ∨ d.toNat + n * w ≤ i → t'.regs[i]? = t.regs[i]?) ∧
    t'.preds = t.preds ∧ t'.bufs = t.bufs ∧ t'.pc = t.pc)

namespace Sys2Proof.Machine

/-- An entry for the present access's bytes has entered the block's share, filled; nothing was written to memory, and the thread's flags are as they
were (R248, R249, R287). -/
def Buffers (s : State) (u : Cur) (k : EKind) (a pa : Nat) (bs : List Byte) (s1 s2 : State) : Prop :=
  ∃ b2 e t2, s2.block? u.b.bid = some b2 ∧ e ∈ b2.share ∧ e.eid = s.ids ∧ e.tid = u.tid ∧ e.kind = k ∧ e.va = a ∧ e.pa = pa ∧
    e.bytes = bs ∧ e.filled = true ∧ (∀ x ∈ u.b.share, x.eid ≠ s.ids → ∃ m, { x with merged := m } ∈ b2.share) ∧ b2.scr = u.b.scr ∧
    s2.thread? u.b.bid u.tid = some t2 ∧ t2.flags = u.t.flags ∧ s2.mem = s1.mem ∧ s2.tags = s1.tags ∧ s2.pend = s1.pend

/-- Bytes stand at a position of a block's bank, and nothing else changed there; the thread's flags are as they were (R229, R249). -/
def Banks (u : Cur) (w : Nat) (x : Block) (pos : Nat) (bs : List Byte) (s1 s2 : State) : Prop :=
  ∃ y t2, s2.block? w = some y ∧ (∀ i, y.bankByte i = if pos ≤ i ∧ i < pos + bs.length then bs.getD (i - pos) 0 else x.bankByte i) ∧
    s2.thread? u.b.bid u.tid = some t2 ∧ t2.flags = u.t.flags ∧ s2.mem = s1.mem ∧ s2.tags = s1.tags ∧ s2.pend = s1.pend

/-- Nothing was done: the thread's flags are as they were, its block's share and memory too (R233). -/
def NoEffect (u : Cur) (s1 s2 : State) : Prop :=
  ∃ b2 t2, s2.block? u.b.bid = some b2 ∧ b2.share = u.b.share ∧ b2.scr = u.b.scr ∧ s2.thread? u.b.bid u.tid = some t2 ∧
    t2.flags = u.t.flags ∧ s2.mem = s1.mem ∧ s2.tags = s1.tags ∧ s2.pend = s1.pend

/-- A block by itself with no commit under way: an entry that enters its share stays there. -/
def Block.alone (b : Block) : Prop := b.partner = none ∧ b.commits = []

end Sys2Proof.Machine

/-- R12, R90, R229, R249, R250 and R287: ST stores the low bytes of its registers: to the bank of a scratchpad at once, to global memory
as an entry of the block's share. ST.a needs A-typed data and a record of A lines. -/
def Obligations.StoreIssue : Prop :=
  ∀ (s : State) (u : Cur) (c : Ctl) (ap : Bool) (d : G) (k : BF) (b : G) (t : Ty) (n : VCnt) (cache : Cache) (disp : BitVec 16),
    let sz := n.num * t.bytes
    let place := s.placeOf u k b disp sz sz
    let r := u.t.buf k
    let o := exec (.st c ap d k b t n cache disp) s
    let low := storeBytes u.t t n.num d
    let bs := if place.swaps sz then low.drop 16 ++ low.take 16 else low
    let acc := s.accOf u (.store bs ap) k b disp sz .P
    let data (i : Nat) := (u.t.reg (next d i)).ty
    let ready := Ready s u c { uses := [(d, memRegs t n), (b, 1)], taint := if ap then [(b, 1)] else [(d, memRegs t n), (b, 1)],
                               ptaint := [], ap := ap, fault := none }
    let lines := recSpace r = 0 ∨ recSpace r = 3
    let good := ap = true → (∀ i, i < memRegs t n → data i = .A) ∧ (lines → recA r = true)
    (ready → good → (u.b.shape.det = true → recSpace r ≠ 2) →
      (∀ f, place = .fault f → o = .next (s.syncFault u.b u.tid u.t f)) ∧
      (∀ a s1 x e ty pa, place.chunks sz = .global a → s.prepare u.b { acc with a := a } = .go s1 x [] ty → x.pa = some pa →
        ({ acc with a := a } : Acc).entry acc.wid = some e → u.b.overflows e = false → u.b.alone →
        GoesOnWith c (s1.takes { acc with a := a }) u (u.t.addFlag u.t.flagOf) o (Buffers s u .store a pa bs)) ∧
      (∀ a, place.chunks sz = .global a → s.prepare u.b { acc with a := a } = .fault 0x21 →
        o = .next (s.syncFault u.b u.tid u.t 0x21)) ∧
      (place = .clamped → GoesOnWith c s.issued u (u.t.addFlag u.t.flagOf) o (NoEffect u)) ∧
      (∀ w pos x, place.chunks sz = .scr w pos → s.block? w = some x → (x.posType pos = .A ↔ ap = true) →
        GoesOnWith c (s.takes { acc with space := 1, owner := w, a := pos }) u (u.t.addFlag u.t.flagOf) o (Banks u w x pos bs)) ∧
      (∀ w pos x, place.chunks sz = .scr w pos → s.block? w = some x → x.posType pos = .A → ap = false →
        o = .next (s.syncFault u.b u.tid u.t 0x21))) ∧
    (ready → ¬ good → o = .next (s.syncFault u.b u.tid u.t 0x01)) ∧
    (low.length = sz) ∧
    (d = 0xFF#8 ∨ d.toNat + memRegs t n ≤ 255 → t.bits ≠ 64 → ∀ i j, i < n.num → j < t.bytes →
      low.getD (i * t.bytes + j) 0 = BitVec.ofNat 8 ((u.t.val (next d i)).toNat / 256 ^ j)) ∧
    (d = 0xFF#8 ∨ d.toNat + memRegs t n ≤ 255 → t.bits = 64 → ∀ i j, i < n.num → j < 8 → low.getD (i * 8 + j) 0 = BitVec.ofNat 8 ((u.t.pair (next d (2 * i))).toNat / 256 ^ j))

/-- R231, R251, R253, R254 and R255: BSET writes a valid image and faults with 0x14 on another; BCHK tells whether an access would be in
bounds and aligned; LTAG enters the share as a whole line and reads the line's tag; PREF changes no value. -/
def Obligations.RecordInstructions : Prop :=
  ∀ (s : State) (u : Cur) (c : Ctl) (d : G) (p : PF) (k : BF) (b : G) (t : Ty) (n : VCnt) (appr l2 : Bool) (disp : BitVec 16),
    let r := u.t.buf k
    let img := u.t.record d
    let sz := n.num * t.bytes
    let off : Int := (u.t.val b).toInt + disp.toInt
    let lin := recBase r / 2 ^ 19
    let acc := s.accOf u (.ltag appr) k b disp 128 .P
    let place := s.placeOf u k b disp 128 128
    let o := exec (.ltag c k b appr disp) s
    let on := u.t.addFlag u.t.flagOf
    (d = 0xFF#8 ∨ d.toNat + 4 ≤ 255 → ∀ i, i < 4 → img.toNat / 2 ^ (32 * i) % 2 ^ 32 = (u.t.val (next d i)).toNat) ∧
    (Ready s u c (precise [] [(d, 4)] []) → recOk img = true → Completes c s u 0 (exec (.bset c d k) s) (u.t.setBuf k img)) ∧
    (Ready s u c (precise [] [(d, 4)] []) → recOk img = false → exec (.bset c d k) s = .next (s.syncFault u.b u.tid u.t 0x14)) ∧
    (Ready s u c (precise [] [(b, 1)] []) →
      (0 < sz → ∃ v, Completes c s u 0 (exec (.bchk c p k b t n disp) s) (u.t.setPred p ⟨v, .P⟩) ∧
        (recSpace r = 2 → (v = true ↔ ∃ q, InBounds r off sz q ∧ (q - lin * 2 ^ 19) % sz = 0)) ∧
        (recSpace r ≠ 2 → (v = true ↔ (∃ a, s.placeOf u k b disp sz sz = .global a) ∨
          ∃ w a, s.placeOf u k b disp sz sz = .scr w a))) ∧
      (∃ s1 s2, s1.blocks = s.blocks ∧ s1.mem = s.mem ∧ s1.tags = s.tags ∧ s1.pend = s.pend ∧ ThreadOnly (GoesOn c u.t) 0 s1 s2 u ∧
        exec (.pref c k b l2 disp) s = .next s2) ∧
      (recSpace r = 1 ∨ recSpace r = 2 →
        o = .next (s.syncFault u.b u.tid u.t (if u.b.shape.det = true ∧ recSpace r = 2 then 0x60 else 0x14))) ∧
      (recSpace r ≠ 1 → recSpace r ≠ 2 →
        (∀ f, place = .fault f → o = .next (s.syncFault u.b u.tid u.t f)) ∧
        (place = .clamped → GoesOnWith c s.issued u on o (NoEffect u)) ∧
        (∀ a, place.line = .global a → s.prepare u.b { acc with a := a } = .fault 0x13 →
          o = .next (s.syncFault u.b u.tid u.t 0x13)) ∧
        (∀ a s1 x e tag pa, place.line = .global a → s.prepare u.b { acc with a := a } = .go s1 x [] tag → x.pa = some pa →
          ({ acc with a := a } : Acc).entry acc.wid = some e → u.b.overflows e = false → u.b.alone →
          GoesOnWith c (s1.takes { acc with a := a }) u on o (Buffers s u (.ltag appr ((tag == .A) != appr)) a pa []))))

/-- R242 to R248: an access whose translation fails waits in the operand log, attached to a fault record of its page and cause that its
function's record list holds, while its thread goes on; a store keeps a place in the share. A load that meets such a place waits; an access
whose record was answered with retry is translated again and performed. -/
def Obligations.PageFaultIssue : Prop :=
  (∀ (s : State) (u : Cur) (c : Ctl) (d : G) (k : BF) (b : G) (t : Ty) (n : VCnt) (cache : Cache) (disp : BitVec 16) (a : Nat),
    let sz := n.num * t.bytes
    let place := s.placeOf u k b disp sz sz
    let low := storeBytes u.t t n.num d
    let load := s.accOf u (.load d t n (cache == .nl1) (place.swaps sz)) k b disp sz (loadTy (u.t.buf k))
    let store := s.accOf u (.store (if place.swaps sz then low.drop 16 ++ low.take 16 else low) false) k b disp sz .P
    let on := u.t.addFlag u.t.flagOf
    let paired := u.b.partner.isSome
    let waits (acc : Acc) (cause : Nat) (th : Thread) (o : Out) : Prop := ∃ s2 q r x, o = .next s2 ∧ q ∈ s2.oplog ∧ q.acc = some x ∧
      x.kind = acc.kind ∧ x.a = a ∧ x.bid = u.b.bid ∧ x.tid = u.tid ∧ x.o = (u.t.val b).toInt + disp.toInt ∧ q.replay = false ∧
      q.vf = u.b.vf ∧ q.seq = r.seq ∧ r ∈ (s2.vf u.b.vf).frecs ∧ r.page = a / 4096 * 4096 ∧ r.cause = cause ∧ r.answered = false ∧
      s2.pend.map (·.id) = s.pend.map (·.id) ∧ ∃ t2, s2.thread? u.b.bid u.tid = some t2 ∧ GoesOn c th t2
    s.pktFaults = [] → (u.b.shape.det = true → recSpace (u.t.buf k) ≠ 2) → place.chunks sz = .global a →
    (Ready s u c (precise [(d, memRegs t n)] [(b, 1)] []) → ∀ s1,
      (∀ cause, s.prepare u.b { load with a := a } = .paged s1 cause → waits load cause on (exec (.ld c d k b t n cache disp) s)) ∧
      (s.prepare u.b { load with a := a } = .wait s1 → GoesOnWith c (s1.takes { load with a := a }) u on
        (exec (.ld c d k b t n cache disp) s) (fun s3 s4 => ∃ q, s4.oplog = s3.oplog ++ [q] ∧ q.acc = some { load with a := a } ∧
          q.replay = true ∧ s4.blocks = s3.blocks ∧ s4.mem = s3.mem ∧ s4.pend = s3.pend))) ∧
    (Ready s u c (precise [] [(d, memRegs t n), (b, 1)] []) → ∀ s1 e cause, s.prepare u.b { store with a := a } = .paged s1 cause →
      ({ store with a := a } : Acc).entry store.wid = some e → u.b.overflows e = false →
      waits store cause { on with nsig := if paired then u.t.nsig + 1 else u.t.nsig } (exec (.st c false d k b t n cache disp) s) ∧
      ∃ s2 b2, exec (.st c false d k b t n cache disp) s = .next s2 ∧ s2.block? u.b.bid = some b2 ∧ e.filled = false ∧
        { e with sig := if paired then some u.t.nsig else none } ∈ b2.share)) ∧
  (∀ (s s0 s1 : State) (op : Nat) (q : OpEntry) (a x : Acc) (b : Block) (d : G) (t : Ty) (n : VCnt) (n1 sw : Bool) (data : List Byte) (ty : TBit)
      (pa : Nat),
    s.oplog.find? (fun o => o.id == op && o.replay) = some q → q.acc = some a → s.block? a.bid = some b → s.replayReady b a = true →
    a.homed = false → a.kind = .load d t n n1 sw → s.pktFaults = [] →
    s0 = (if q.bad then (s.dropWaiter op).consumes a.bid 0x91 (coreIsland q.core) else State.eccReads a.bid q.core 1 (s.dropWaiter op)) →
    s0.prepare b { a with pkt := 0 } = .go s1 x data ty → x.pa = some pa → s1.near pa →
    ∃ s2 p, exec (.operandReplay op) s = .next s2 ∧ SameLog (s.oplog.filter (fun o => o.id != op)) s2.oplog ∧ s2.pend = s.pend ++ [p] ∧
      p.kind = .load d t n ty data x ∧ p.bid = a.bid ∧ p.tid = a.tid ∧ p.flag = a.flag ∧ s2.blocks = s.blocks ∧ s2.mem = s.mem)

/-- R126, R131 and R297: the new value of an atomic, from the old value and the operand, as codes of its type. -/
def Sys2Proof.Machine.AtomicValues : Prop :=
  ∀ (t : Ty) (old v cmp : Nat), old < 2 ^ t.bits → v < 2 ^ t.bits →
    let w := t.bits
    let O := BitVec.ofNat w old
    let V := BitVec.ofNat w v
    let new (op : AOp) := BitVec.ofNat w (aopNew op t old v cmp)
    let less (x y : BitVec w) : Prop := if t.isSigned then x.toInt < y.toInt else x.toNat < y.toNat
    new .add = O + V ∧
    ((less V O → new .min = V) ∧ (¬ less V O → new .min = O) ∧ (less O V → new .max = V) ∧ (¬ less O V → new .max = O)) ∧
    new .and = O &&& V ∧ new .or = O ||| V ∧ new .xor = O ^^^ V ∧ new .exch = V ∧
    (old = cmp → new .cas = V) ∧ (old ≠ cmp → new .cas = O) ∧
    (v ≤ old → new .inc = 0) ∧ (old < v → new .inc = O + 1) ∧
    (old = 0 ∨ v < old → new .dec = V) ∧ (old ≠ 0 → old ≤ v → new .dec = O - 1) ∧
    (t = .f32 → new .fadd = BitVec.ofNat w (rne .f32 (sumF .rne [decodeF .f32 old, decodeF .f32 v])) ∧
      (rank .f32 v < rank .f32 old → new .fmin = V) ∧ (rank .f32 old ≤ rank .f32 v → new .fmin = O) ∧
      (rank .f32 old < rank .f32 v → new .fmax = V) ∧ (rank .f32 v ≤ rank .f32 old → new .fmax = O)) ∧
    ∀ op, op ≠ .fadd → aopNew op t old v cmp < 2 ^ w

namespace Sys2Proof.Machine

/-- A block in which a commit point commits nothing and waits for nothing: by itself, not deterministic, its share empty (R287, R288). -/
def Block.clear (b : Block) : Prop :=
  b.partner = none ∧ b.trailing = false ∧ b.commits = [] ∧ b.share = [] ∧ b.handed = [] ∧ b.errs = [] ∧ b.shape.det = false ∧ b.phase = .resident

/-- The thread's operation is pending with result k, after memory became m. -/
def AwaitsAfter (u : Cur) (m : List Host.Cell) (k : PendK → Prop) (s1 s2 : State) : Prop :=
  ∃ p, s2.mem = m ∧ s2.tags = s1.tags ∧ s2.pend = s1.pend ++ [p] ∧ p.bid = u.b.bid ∧ p.tid = u.tid ∧ p.flag = u.t.flagOf ∧ k p.kind

end Sys2Proof.Machine

/-- R287, R294 and R296 to R300 in a block with nothing to commit: ATOM reads and writes its word at the home in one act and returns the old value;
RED at a bank is performed at once, RED at global memory enters the share; ACQ reads the object and drops the core's L1 lines; REL writes
the object. -/
def Sys2Proof.Machine.AtomicIssue : Prop :=
  ∀ (s : State) (u : Cur) (c : Ctl) (d : G) (k : BF) (b v : G) (op : AOp) (ord : Ord) (sc : Scope) (t : Ty) (addv : Bool)
      (disp : BitVec 16),
    let n := t.bytes
    let two := if t.bits = 64 then 2 else 1
    let on := u.t.addFlag u.t.flagOf
    let place := s.placeOf u k b 0 n n
    let val := u.t.operand t v
    let w := u.t.atomOperands op t v
    let at8 := s.placeOf u k b disp 8 8
    let atom := s.accOf u (.atom d op t w.1 w.2 ord sc) k b 0 n .P
    let red := s.accOf u (.red op t (bytesOf n val)) k b 0 n .P
    let acq := s.accOf u (.acq d sc) k b disp 8 .P
    let rel := s.accOf u (.rel (u.t.pair v) addv sc) k b disp 8 .P
    let far := u.b.shape.det = true ∧ recSpace (u.t.buf k) = 2
    let oA := exec (.atom c d k b v op ord sc t) s
    let oR := exec (.red c k b v op t) s
    let oQ := exec (.acq c d k b sc disp) s
    let oL := exec (.rel c v k b sc addv disp) s
    (u.t.operand t v = if t.bits = 64 then (u.t.pair v).toNat else (u.t.val v).toNat) ∧
    (op ≠ .cas → w = (val, 0)) ∧ (op = .cas → w = (u.t.operand t (next v two), val)) ∧
    (Ready s u c (precise [(d, two)] [(b, 1), (v, two * if op = .cas then 2 else 1)] []) →
      (u.b.shape.det = true → oA = .next (s.syncFault u.b u.tid u.t 0x60)) ∧
      (u.b.shape.det = false → ∀ f, place = .fault f → oA = .next (s.syncFault u.b u.tid u.t f)) ∧
      (∀ a s1 x ty pa, place = .global a → s.prepare u.b { atom with a := a } = .go s1 x [] ty → x.pa = some pa → s1.near pa →
        u.b.clear → s1.inReplay u.b = false →
        GoesOnWith c (s1.takes { atom with a := a }) u on oA (fun s2 s3 =>
          let old := ofBytes (readBytes s2.mem pa (t.bits / 8))
          let new := aopNew op t old w.1 w.2
          AwaitsAfter u (if new = old then s2.mem else writeBytes s2.mem pa (bytesOf (t.bits / 8) new))
            (fun r => ∃ q q', r = .regs (regWrites d (t.bits / 8) old .P) q q') s2 s3))) ∧
    (Ready s u c (precise [] [(b, 1), (v, two)] []) → (u.b.shape.det = true → recSpace (u.t.buf k) ≠ 2) →
      (∀ f, place = .fault f → oR = .next (s.syncFault u.b u.tid u.t f)) ∧
      (∀ a s1 x e ty pa, place = .global a → s.prepare u.b { red with a := a } = .go s1 x [] ty → x.pa = some pa →
        ({ red with a := a } : Acc).entry red.wid = some e → u.b.overflows e = false → u.b.alone →
        GoesOnWith c (s1.takes { red with a := a }) u on oR (Buffers s u (.red op t) a pa (bytesOf n val))) ∧
      (∀ y pos x, place = .scr y pos → s.block? y = some x → x.posType pos = .P → val < 2 ^ t.bits →
        GoesOnWith c (s.takes { red with space := 1, owner := y, a := pos }) u on oR
          (Banks u y x pos (bytesOf (t.bits / 8) (aopNew op t (ofBytes (x.bank pos (t.bits / 8))) (ofBytes (bytesOf n val)) 0))))) ∧
    (Ready s u c (precise [(d, 2)] [(b, 1)] []) → u.b.shape.det = false →
      (recSpace (u.t.buf k) ≠ 0 → oQ = .next (s.syncFault u.b u.tid u.t 0x14)) ∧
      (recSpace (u.t.buf k) = 0 → ∀ f, at8 = .fault f → oQ = .next (s.syncFault u.b u.tid u.t f)) ∧
      (recSpace (u.t.buf k) = 0 → ∀ a s1 x data ty pa, at8 = .global a → s.prepare u.b { acq with a := a } = .go s1 x data ty →
        x.pa = some pa → s1.near pa → u.b.partner = none →
        GoesOnWith c (s1.takes { acq with a := a }) u on oQ (fun s2 s3 =>
          AwaitsAfter u s2.mem (fun r => r = .regs (regWrites d 8 (ofBytes data) .P) Know.none []) s2 s3 ∧ s3.blocks = s2.blocks ∧
          ((s2.vf u.b.vf).bindt.getLsbD 0 = false → (s3.core u.b.core).l1 = []) ∧
          ((s2.vf u.b.vf).bindt.getLsbD 0 = true → ∀ l ∈ (s3.core u.b.core).l1, l ∈ (s2.core u.b.core).l1 ∧
            ((∀ p ∈ s.pend, ∀ f x y z w, p.kind = .bind f x y z w → f ≠ u.b.vf) →
              ¬ (l.vf = u.b.vf ∧ ∃ i e, i < s2.bindCount u.b.vf ∧ s2.bindEntry u.b.vf i = e ∧ e.1 = a ∧ e.2.1 / 128 ≤ l.key ∧
                l.key < e.2.1 / 128 + e.2.2)))))) ∧
    (Ready s u c (precise [] [(b, 1), (v, 2)] []) →
      (far → oL = .next (s.syncFault u.b u.tid u.t 0x60)) ∧
      (recSpace (u.t.buf k) ≠ 0 → ¬ far → oL = .next (s.syncFault u.b u.tid u.t 0x14)) ∧
      (recSpace (u.t.buf k) = 0 → ∀ f, at8 = .fault f → oL = .next (s.syncFault u.b u.tid u.t f)) ∧
      (recSpace (u.t.buf k) = 0 → ∀ a s1 x ty pa, at8 = .global a → s.prepare u.b { rel with a := a } = .go s1 x [] ty → x.pa = some pa →
        s1.near pa → u.b.clear → s1.inReplay u.b = false →
        GoesOnWith c (s1.takes { rel with a := a }) u on oL (fun s2 s3 =>
          let old := ofBytes (readBytes s2.mem pa 8)
          AwaitsAfter u (writeBytes s2.mem pa (bytesOf 8 (if addv then (old + (u.t.pair v).toNat) % 2 ^ 64 else (u.t.pair v).toNat)))
            (fun r => r = .nothing) s2 s3)))

/-- R126, R131, R287, R294 and R296 to R300: atomics, reductions, acquires and releases. -/
def Obligations.Atomics : Prop := AtomicValues ∧ AtomicIssue

/-- R261 to R268: an arrival word's fields; AINIT writes a word, or breaks it with .force and releases its waiters, and faults with 0x81 on a word in
use; AARV counts, and a full generation releases the waiters; AWT answers at once on a word that does not count, is broken or has
passed the generation, and else parks. -/
def Obligations.ArrivalWords : Prop :=
  (∀ (tgt cnt gen : Nat) (brk : Bool), tgt < 2 ^ 24 → cnt < 2 ^ 24 → let w := mkWord tgt cnt gen brk
    wTgt w = tgt ∧ wCnt w = cnt ∧ wGen w = gen % 2 ^ 14 ∧ wV w = true ∧ wBrk w = brk ∧ w < 2 ^ 64) ∧
  (∀ (s : State) (u : Cur) (c : Ctl) (pd : PF) (k : BF) (d4 : BitVec 4) (b e : G) (tgt bytes : BitVec 24) (force : Bool) (disp : BitVec 16)
      (w pos : Nat) (x : Block),
    s.block? w = some x → x.posType pos = .P → (u.b.shape.det = true → recSpace (u.t.buf k) ≠ 2) →
    let W := x.word pos
    let inUse := wV W = true ∧ (s.hasWaiter w pos = true ∨ s.hasCommand w pos = true)
    let holds (v : Nat) (s2 : State) : Prop := ∃ y, s2.block? w = some y ∧ y.word pos = v
    let goes (out : Out) (t : Thread) : Prop := GoesOnWith c s u t out ReadOnly
    (s.wordPlace u k d4 b = .scr w pos → Ready s u c (precise [] [(b, 1)] []) →
      let oI := exec (.ainit c k d4 b tgt force) s
      let oA := exec (.aarv c k d4 b bytes) s
      let sum := wCnt W + bytes.toNat
      let turns := sum / wTgt W
      (force = false → inUse → oI = .next (s.syncFault u.b u.tid u.t 0x81)) ∧
      (force = true ∨ ¬ inUse → GoesOnWith c s u u.t oI (fun s1 s2 => s2.mem = s1.mem ∧
        holds (mkWord tgt.toNat 0 (if force then wGen W + 1 else 0) force) s2 ∧ (force = true → s2.hasWaiter w pos = false))) ∧
      GoesOnWith c s u u.t oA (fun s1 s2 => s2.mem = s1.mem ∧
        (wCounts W = true → holds (mkWord (wTgt W) (sum - turns * wTgt W) (wGen W + turns) (wBrk W)) s2 ∧
          (1 ≤ turns → s2.hasWaiter w pos = false)) ∧
        (wCounts W = false → holds W s2))) ∧
    (s.locate u.b u.tid (u.t.buf k) (offsetOf (u.t.val b) disp.toInt) 8 8 = .scr w pos → Ready s u c (precise [] [(b, 1), (e, 1)] []) →
      let g : BitVec 14 := (u.t.val e).setWidth 14
      let o := exec (.awt c pd k b e disp) s
      let done (v : Bool) : Thread := { u.t.setPred pd ⟨v, .P⟩ with park := .running }
      (wCounts W = false → goes o { done false with sts := 0x82 }) ∧
      (wCounts W = true → wBrk W = true → goes o { done false with sts := 0x80 }) ∧
      (wCounts W = true → wBrk W = false → wGen W ≠ g.toNat → ∃ q, goes o { done true with know := q }) ∧
      (wCounts W = true → wBrk W = false → wGen W = g.toNat →
        goes o { u.t.addFlag u.t.flagOf with park := .awt pd w pos g u.t.flagOf }))) ∧
  (∀ (s : State) (u : Cur) (c : Ctl) (pd : PF) (k : BF) (d4 : BitVec 4) (b e : G) (tgt bytes : BitVec 24) (force : Bool) (disp : BitVec 16),
    (u.b.shape.det = true → recSpace (u.t.buf k) ≠ 2) →
    let word := s.wordPlace u k d4 b
    let place := s.locate u.b u.tid (u.t.buf k) (offsetOf (u.t.val b) disp.toInt) 8 8
    let oI := exec (.ainit c k d4 b tgt force) s
    let oA := exec (.aarv c k d4 b bytes) s
    let o := exec (.awt c pd k b e disp) s
    (Ready s u c (precise [] [(b, 1)] []) →
      (∀ f, word = .fault f → oI = .next (s.syncFault u.b u.tid u.t f) ∧ oA = .next (s.syncFault u.b u.tid u.t f)) ∧
      (∀ a, word = .global a → oI = .next (s.syncFault u.b u.tid u.t 0x14) ∧ oA = .next (s.syncFault u.b u.tid u.t 0x14)) ∧
      (word = .clamped → Completes c s u 0 oI u.t ∧ Completes c s u 0 oA u.t)) ∧
    (Ready s u c (precise [] [(b, 1), (e, 1)] []) →
      (∀ f, place = .fault f → o = .next (s.syncFault u.b u.tid u.t f)) ∧
      (place = .clamped → Completes c s u 0 o (u.t.setPred pd ⟨false, .P⟩))))

/-- R286 to R289, R292, R303 to R305 and R332: FENCE, BAR and CKPT park their thread, BAR and CKPT whatever the guard says; a FENCE whose accesses
are performed lets it run on, an acquiring one with an empty L1; a barrier at which all have arrived releases all. CMT with nothing to
commit ends at once, and a new region begins. -/
def Sys2Proof.Machine.OrderingInstructions : Prop :=
  (∀ (s : State) (u : Cur) (c : Ctl) (ord : Ord) (sc : Scope),
    (Ready s u c noOperands → u.b.shape.det = false ∨ acquires ord = false ∨ sc = .blk →
      Completes c s u 0 (exec (.fence c ord sc) s) { u.t with park := .fence ord sc false }) ∧
    (Ready s u c noOperands → u.b.shape.det = true → acquires ord = true → sc ≠ .blk →
      exec (.fence c ord sc) s = .next (s.syncFault u.b u.tid u.t 0x60)) ∧
    (s.cur = some u → (u.t.pred c.pg).ty = .P →
      Completes c s u 0 (exec (.bar c) s) { u.t with park := .bar } ∧ Completes c s u 0 (exec (.ckpt c) s) { u.t with park := .ckpt false }) ∧
    (s.cur = some u → (u.t.pred c.pg).ty = .A →
      exec (.bar c) s = .next (s.syncFault u.b u.tid u.t 0x20) ∧ exec (.ckpt c) s = .next (s.syncFault u.b u.tid u.t 0x20)) ∧
    (Ready s u c noOperands → u.b.clear → s.inReplay u.b = false →
      GoesOnWith c s u (u.t.addFlag u.t.flagOf) (exec (.cmt c sc) s) (fun s1 s2 => ∃ b2 t2, s2.block? u.b.bid = some b2 ∧
        s2.thread? u.b.bid u.tid = some t2 ∧ t2.flags = u.t.flags ∧ b2.ncommit.get 0 u.tid = u.b.ncommit.get 0 u.tid + 1 ∧
        (∀ i, i ≠ u.tid → b2.ncommit.get 0 i = u.b.ncommit.get 0 i) ∧ b2.commits = [] ∧ b2.byCommit = true ∧
        b2.regStore = false ∧ b2.regAvset = false ∧ b2.regSysw = false ∧ b2.regCmd = false ∧ s2.mem = s1.mem))) ∧
  (∀ (s : State) (b : Block) (tid : Nat) (t : Thread) (ord : Ord) (sc : Scope), s.block? b.bid = some b → b.thread? tid = some t →
    t.park = .fence ord sc false → s.idle b.bid tid = true →
    releases ord = false ∨ b.clear ∧ s.inReplay b = false →
    ∃ t2, (s.settleFence b tid t).thread? b.bid tid = some t2 ∧ t2.park = .running ∧ t2.regs = t.regs ∧
      (acquires ord = true → ((s.settleFence b tid t).core b.core).l1 = []) ∧ (releases ord = true → ∃ k, t2.fenced = some (sc, k))) ∧
  (∀ (s : State) (b : Block), s.block? b.bid = some b → s.barReady b = true → ∀ (tid : Nat) (t : Thread), b.thread? tid = some t → t.life = .live →
    ∃ t2, (s.endBar b).thread? b.bid tid = some t2 ∧ t2.park = .running ∧ t2.know.floor = s.ids ∧ t2.regs = t.regs)

/-- R301 and R302: BIND is on its way until its flag completes, which then fills a free entry, or frees the entries it names; values out of
range fault with 0x01, no table or no free entry with 0x16, those that a BIND on its way will take not among the free ones. -/
def Obligations.BindingTable : Prop :=
  (∀ (s : State) (u : Cur) (c : Ctl) (v : G) (k : BF) (b : G) (disp : BitVec 16) (o : Nat),
    let act := u.t.nat (next v 3)
    let base := (u.t.pair v).toNat
    let len := u.t.nat (next v 2)
    let vf := u.b.vf
    let r := u.t.buf k
    let far := u.b.shape.det = true ∧ recSpace r = 2
    let out := exec (.bind c v k b disp) s
    let bad := 2 < act ∨ act ≠ 2 ∧ (base % 128 ≠ 0 ∨ 2 ^ 57 ≤ base ∨ len % 128 ≠ 0 ∨ len = 0)
    let full := s.bindsFree vf ≤ s.bindsPending vf
    Ready s u c { uses := [(v, 4), (b, 1)], taint := (b, 1) :: (next v 3, 1) :: (if act = 2 then [(next v 3, 1)] else [(v, 4)]), ptaint := [],
                  ap := false, fault := none } →
    (far → out = .next (s.syncFault u.b u.tid u.t 0x60)) ∧
    (recSpace r ≠ 0 → ¬ far → out = .next (s.syncFault u.b u.tid u.t 0x14)) ∧
    (recSpace r = 0 → ∀ f, s.placeOf u k b disp 8 8 = .fault f → out = .next (s.syncFault u.b u.tid u.t f)) ∧
    (recSpace r = 0 → s.placeOf u k b disp 8 8 = .clamped → Completes c s u 0 out u.t) ∧
    (s.bindsPending vf = 0 → (full ↔ ∀ i, i < ringSize (s.vf vf).bindt → (s.bindEntry vf i).1 ≠ 0)) ∧
    (recSpace r = 0 → s.placeOf u k b disp 8 8 = .global o →
      (bad → out = .next (s.syncFault u.b u.tid u.t 0x01)) ∧
      (¬ bad → (s.vf vf).bindt.getLsbD 0 = false ∨ act = 0 ∧ full → out = .next (s.syncFault u.b u.tid u.t 0x16)) ∧
      (¬ bad → (s.vf vf).bindt.getLsbD 0 = true → ¬ (act = 0 ∧ full) → u.b.partner = none →
        GoesOnWith c s u (u.t.addFlag u.t.flagOf) out (fun s1 s2 => ∃ p, s2 = { s1 with pend := s1.pend ++ [p], ids := s1.ids + 1 } ∧
          p.id = s1.ids ∧ p.bid = u.b.bid ∧ p.tid = u.tid ∧ p.flag = u.t.flagOf ∧ p.kind = .bind vf o base len act)))) ∧
  (∀ (s : State) (op : Nat) (p : Pend) (b : Block) (t : Thread) (vf o base len act : Nat), s.pend.find? (fun x => x.id == op) = some p →
    s.block? p.bid = some b → b.thread? p.tid = some t → p.kind = .bind vf o base len act →
    let table := ringBase (s.vf vf).bindt
    let n := ringSize (s.vf vf).bindt
    ∃ s', exec (.loadComplete op) s = .next s' ∧ s'.thread? p.bid p.tid = some (t.endFlag p.flag) ∧
      s'.pend = s.pend.filter (fun x => x.id != op) ∧ s'.tags = s.tags ∧
      (act = 0 → (∃ i, i < n ∧ (s.bindEntry vf i).1 = 0) → ∃ i, i < n ∧ (s.bindEntry vf i).1 = 0 ∧
        s'.mem = writeBytes s.mem (table + 32 * i) (bytesOf 8 o ++ bytesOf 8 base ++ bytesOf 4 (len / 128) ++ List.replicate 12 0)) ∧
      (act ≠ 0 → Safe s → ∀ i, i < n → s'.bindEntry vf i = (if (s.bindEntry vf i).1 = o ∧ (act = 2 ∨ (s.bindEntry vf i).2 = (base, len / 128))
        then (0, (s.bindEntry vf i).2) else s.bindEntry vf i)))

/-- R254, R287, R288, R294 and R297: the next entry of a commit in progress is performed at its home, with the later stores and LTAGs of its line
in one act, and leaves the share: stores write their bytes in order if the line has their type, a RED its new value, an LTAG the tag and 128
zeros when the tag changes. -/
def Sys2Proof.Machine.CommitEffects : Prop :=
  ∀ (s : State) (b : Block) (e : Entry) (c : Commit) (rest : List Commit) (set : List Nat),
    s.block? b.bid = some b → b.commits = c :: rest → c.set = some set → b.share.find? (fun x => x.eid == e.eid) = some e →
    s.mayPerform b e set = true → b.trailing = false → b.shape.det = false ∨ b.partner = none →
    let es := b.lineOf e
    (∃ x ∈ set, x ∉ es.map (·.eid)) → s.near e.pa → (s.reach (dieOf b.core) e.pa).1 = true →
    ∃ s' b', exec (.commitPerformed b.bid e.eid) s = .next s' ∧ s'.block? b.bid = some b' ∧
      b'.share = b.share.filter (fun x => !(es.map (·.eid)).contains x.eid) ∧
      ((∀ x ∈ es, x.kind = .store ∧ (x.merged = true ∨ s.tag x.pa = (if x.appr then .A else .P))) →
        s'.mem = es.foldl (fun m x => writeBytes m x.pa x.bytes) s.mem ∧ s'.tags = s.tags) ∧
      (∀ op t, e.kind = .red op t →
        let old := ofBytes (readBytes s.mem e.pa (t.bits / 8))
        let new := aopNew op t old (ofBytes e.bytes) 0
        s'.mem = (if new = old then s.mem else writeBytes s.mem e.pa (bytesOf (t.bits / 8) new)) ∧ s'.tags = s.tags) ∧
      (∀ a z, es = [e] → e.kind = .ltag a z → s'.tag e.pa = (if a then .A else .P) ∧
        s'.mem = (if s.tag e.pa = (if a then .A else .P) then s.mem else writeBytes s.mem (e.pa / 128 * 128) (List.replicate 128 0)))

/-- R254, R286 to R289, R292, R297, R303 to R305 and R332: fences, barriers, commits and what a commit does at a home. -/
def Obligations.OrderingAndCommits : Prop := OrderingInstructions ∧ CommitEffects

/-! ### Futures and engines (R86, R165 to R168, R182 to R228, R269 to R283, R408 to R411) -/

namespace Sys2Proof.Machine

/-- A command of a block has ended with a status: the handles of its threads that name it hold the status, the others are as they were
(R165). -/
def Ended (s : State) (bid serial : Nat) (st : Byte) (s' : State) : Prop :=
  ∃ x : Stat, x.serial = serial ∧ x.status = some st ∧ ∀ tid t, s.thread? bid tid = some t → ∃ t', s'.thread? bid tid = some t' ∧
    ∀ h, t'.hand h = match t.hand h with
      | .pending n cmd => if n = serial then .complete st x else .pending n cmd
      | y => y

/-- A thread that issues an engine command numbered id with serial n: its flag counts, the handle it names is pending, and it waits
for room in a full queue (R86, R165, R208, R269). -/
def Thread.commands (t : Thread) (e : Eng) (n id : Nat) (full : Bool) : Thread :=
  let t := t.addFlag t.flagOf
  let t := if e.hw then t.setHand e.h (.pending n id) else t
  if full then { t with park := .engineQueue id } else t

/-- An engine command of thread u: while its handle is pending the thread waits and issues nothing; else the command takes the block's next
serial, and R tells what its queue gets. -/
def Commands (c : Ctl) (s : State) (u : Cur) (e : Eng) (full : Bool) (o : Out) (R : State → State → Prop) : Prop :=
  (e.hw = true ∧ (∃ n cmd, u.t.hand e.h = .pending n cmd) → ∃ s1, ThreadOnly (fun t => t = { u.t with park := .handle e.h }) 0 s s1 u ∧ o = .next s1) ∧
  (e.hw = false ∨ (∀ n cmd, u.t.hand e.h ≠ .pending n cmd) →
    GoesOnWith c s.issued u (u.t.commands e u.b.serial s.ids full) o (fun s1 s2 => R s1 s2 ∧ s2.mem = s1.mem ∧
      ∃ b2, s2.block? u.b.bid = some b2 ∧ b2.serial = (u.b.serial + 1) % 2 ^ 26 ∧
        ∃ x rest, b2.stats = x :: rest ∧ x.serial = u.b.serial ∧ x.cmd = s.ids ∧ x.status = none))

/-- The checks of an engine command that reads registers r, in a launch in which its acquire is allowed (R222, R269, R389). -/
def engineReady (s : State) (u : Cur) (c : Ctl) (e : Eng) (r : List (G × Nat)) : Prop :=
  Ready s u c (precise [] r []) ∧ (u.b.shape.det = true → e.acq = true → e.sc = .blk)

/-- A command with these contents has joined the transfer queue, not accepted yet. -/
def Queued (s : State) (u : Cur) (k : XK) (d r : Rec) (aw : Nat) (s1 s2 : State) : Prop :=
  ∃ x, s2.xq = s1.xq ++ [x] ∧ x.id = s.ids ∧ x.bid = u.b.bid ∧ x.tid = u.tid ∧ x.kind = k ∧ x.drec = d ∧ x.srec = r ∧ x.aw = 8 * aw ∧
    x.serial = u.b.serial ∧ x.flag = u.t.flagOf ∧ x.accepted = false ∧ s2.cores = s1.cores ∧ s2.ccols = s1.ccols

/-- As Queued, for the matrix queue of the thread's core. -/
def Joined (s : State) (u : Cur) (k : MCmdK) (img : Rec) (off : Int) (rows : Word) (s1 s2 : State) : Prop :=
  ∃ m, (s2.core u.b.core).mq = (s1.core u.b.core).mq ++ [m] ∧ m.id = s.ids ∧ m.bid = u.b.bid ∧ m.tid = u.tid ∧ m.kind = k ∧
    m.img = img ∧ m.off = off ∧ m.rows = rows ∧ m.serial = u.b.serial ∧ m.flag = u.t.flagOf ∧ m.accepted = false ∧ s2.xq = s1.xq ∧
    s2.ccols = s1.ccols ∧ (s2.core u.b.core).rows = (s1.core u.b.core).rows

end Sys2Proof.Machine

/-- R165 to R168 and R293: FTST reads a handle; FWT reads a status at once when there is one and else waits with its flag counting; a token of
another block faults with 0x31; FCAN cancels a command that has not been accepted. -/
def Obligations.FutureInstructions : Prop :=
  ∀ (s : State) (u : Cur) (c : Ctl) (pd : PF) (h : HF) (e d t : G),
    let o := exec (.fwt c d h) s
    let k := exec (.fwtToken c d t) s
    let w := u.t.val t
    let mine := w.getLsbD 31 = true ∧ w.toNat / 2 ^ 26 % 32 = u.b.ridx % 32
    let reads (st : Byte) : Thread := u.t.setReg d ⟨st.setWidth 32, .P⟩
    let wakes (out : Out) : Prop := ∃ q, GoesOnWith c s u { reads 0 with know := q } out (fun s1 s2 => s2.blocks = s1.blocks ∧
      s2.mem = s1.mem ∧ ∀ l ∈ (s2.core u.b.core).l1, l ∈ (s1.core u.b.core).l1)
    let waits (n : Nat) (out : Out) : Prop := GoesOnWith c s.issued u (u.t.addFlag u.t.flagOf) out (fun s1 s2 => ∃ b2 x,
      s2.block? u.b.bid = some b2 ∧ b2.fwts = u.b.fwts ++ [x] ∧ x.serial = n ∧ x.d = d ∧ x.tid = u.tid ∧ x.flag = u.t.flagOf ∧ s2.mem = s1.mem)
    (Ready s u c (precise [(e, 1)] [] []) →
      (u.t.hand h = .idle → Completes c s u 0 (exec (.ftst c pd h e) s) ((u.t.setPred pd ⟨true, .P⟩).setReg e ⟨0, .P⟩)) ∧
      (∀ n cmd, u.t.hand h = .pending n cmd →
        Completes c s u 0 (exec (.ftst c pd h e) s) ((u.t.setPred pd ⟨false, .P⟩).setReg e ⟨u.b.token n, .P⟩)) ∧
      (∀ st x, u.t.hand h = .complete st x →
        Completes c s u 0 (exec (.ftst c pd h e) s) ((u.t.setPred pd ⟨true, .P⟩).setReg e ⟨u.b.token x.serial, .P⟩))) ∧
    (Ready s u c (precise [(d, 1)] [] []) →
      (u.t.hand h = .idle → Completes c s u 0 o (reads 3)) ∧
      (∀ st x, u.t.hand h = .complete st x → (st ≠ 0 → Completes c s u 0 o (reads st)) ∧ (st = 0 → wakes o)) ∧
      (∀ n cmd, u.t.hand h = .pending n cmd → (∀ x, u.b.stat? n = some x → x.status = none ∧ x.serial = n) → waits n o)) ∧
    (Ready s u c (precise [(d, 1)] [(t, 1)] []) →
      (¬ mine → k = .next (s.syncFault u.b u.tid u.t 0x31)) ∧
      (mine → u.b.resolve w = none → Completes c s u 0 k (reads 4)) ∧
      (mine → ∀ x, u.b.resolve w = some x →
        (∀ st, x.status = some st → st ≠ 0 → Completes c s u 0 k (reads st)) ∧ (x.status = some 0 → wakes k) ∧
        (x.status = none → waits x.serial k))) ∧
    (∀ out, (Ready s u c noOperands ∧ out = exec (.fcan c h) s ∧ (∀ n cmd, u.t.hand h ≠ .pending n cmd)) ∨
        (Ready s u c (precise [] [(t, 1)] []) ∧ mine ∧ out = exec (.fcanToken c t) s ∧
          ∀ x, u.b.resolve w = some x → x.status ≠ none) → Completes c s u 0 out u.t) ∧
    (Ready s u c (precise [] [(t, 1)] []) → ¬ mine → exec (.fcanToken c t) s = .next (s.syncFault u.b u.tid u.t 0x31)) ∧
    (∀ out n cmd x, (Ready s u c noOperands ∧ out = exec (.fcan c h) s ∧ u.t.hand h = .pending n cmd) ∨
        (Ready s u c (precise [] [(t, 1)] []) ∧ mine ∧ out = exec (.fcanToken c t) s ∧
          ∃ y, u.b.resolve w = some y ∧ y.status = none ∧ y.cmd = cmd) →
      s.xq.find? (fun x => x.id == cmd && x.bid == u.b.bid) = some x → x.accepted = false → x.serial = n →
      GoesOnWith c s u u.t out (fun s1 s2 => Ended s1 u.b.bid n 2 s2 ∧ s2.xq = s1.xq.filter (fun y => y.id != cmd) ∧ s2.mem = s1.mem))

/-- R86, R165, R166, R181, R208, R221, R222, R269, R272, R275, R277, R330 and R408, the block unpaired: what each engine command brings to its queue.
A fault of an acquire wider than the block in a deterministic launch is 0x60, as is CCOL there and a record of space 2. -/
def Obligations.EngineIssue : Prop :=
  ∀ (s : State) (u : Cur) (c : Ctl) (e : Eng) (dr sr : BF) (dd sd : BitVec 8) (ncode : BitVec 7) (aw : BitVec 6) (pw : BitVec 3)
      (desc dd12 : BitVec 12) (gx gy : G) (sz : BitVec 2) (n : BitVec 8) (mask : BitVec 4) (tag : BitVec 3) (m : MOpnd) (r : G) (t : Ty) (ai : Bool)
      (rm : Rm) (kind : CKind) (op : FoldOp), u.b.partner = none →
    let D := u.t.buf dr
    let S := u.t.buf sr
    let A := aw.toNat
    let xfull := s.xqFull (clusterOf u.b.core)
    let mfull := (s.core u.b.core).mqFull
    let off := (u.t.val m.off + 64 * m.disp.signExtend 32).toInt
    let img := u.t.buf m.rec_
    let lin := exec (.xcp c e dr sr dd sd ncode aw pw) s
    let box := exec (.xcpDesc c e dr sr desc aw pw) s
    let lane := exec (.xln c e dr gx sr gy sz aw) s
    let far := u.b.shape.det = true ∧ (recSpace D = 2 ∨ recSpace S = 2)
    (engineReady s u c e [] → ¬ far →
      Commands c s u e xfull lin (Queued s u (.lin (128 * dd.toNat) (128 * sd.toNat) ((1 + ncode.toNat % 8) * 2 ^ (ncode.toNat / 8) * 128) pw.toNat) D S A) ∧
      Commands c s u e xfull box (Queued s u (.box (64 * desc.toNat) pw.toNat) D S A)) ∧
    (engineReady s u c e [(gx, 1), (gy, 1)] → ¬ far →
      Commands c s u e xfull lane (Queued s u (.lane (u.t.val gx).toInt (u.t.val gy).toInt (4 * 2 ^ sz.toNat)) D S A)) ∧
    (engineReady s u c e [(gx, 1)] → Commands c s u e xfull (exec (.xrot c e gx dd12 n mask aw tag) s)
      (Queued s u (.rot ((u.t.val gx).toInt + 128 * dd12.toNat) (128 * n.toNat) mask tag) 0 0 A)) ∧
    (engineReady s u c e [(m.off, 1)] → Commands c s u e mfull (exec (.mop c e m) s) (Joined s u .mop img off 0)) ∧
    (engineReady s u c e [(m.off, 1), (r, 1)] →
      Commands c s u e mfull (exec (.ald c e m r t) s) (Joined s u (.ald t) img off (u.t.val r)) ∧
      Commands c s u e mfull (exec (.ast c e m ai rm r t) s) (Joined s u (.ast t ai rm) img off (u.t.val r))) ∧
    (engineReady s u c e [(r, 1)] → Commands c s u e mfull (exec (.azr c e r) s) (Joined s u .azr 0 0 (u.t.val r))) ∧
    (Ready s u c noOperands → u.b.shape.det = false → Commands c s u e false (exec (.ccol c e kind op t desc) s) (fun s1 s2 =>
      ∃ x t2, s2.ccols = s1.ccols ++ [x] ∧ x.id = s.ids ∧ x.bid = u.b.bid ∧ x.kind = kind ∧ x.op = op ∧ x.t = t ∧ x.serial = u.b.serial ∧
        s2.thread? u.b.bid u.tid = some t2 ∧ t2.flags = u.t.flags)) ∧
    (Ready s u c noOperands → u.b.shape.det = true → exec (.ccol c e kind op t desc) s = .next (s.syncFault u.b u.tid u.t 0x60)) ∧
    (Ready s u c (precise [] [(m.off, 1)] []) → u.b.shape.det = true → e.acq = true → e.sc ≠ .blk →
      exec (.mop c e m) s = .next (s.syncFault u.b u.tid u.t 0x60)) ∧
    (Ready s u c noOperands → far → lin = .next (s.syncFault u.b u.tid u.t 0x60) ∧ box = .next (s.syncFault u.b u.tid u.t 0x60)) ∧
    (Ready s u c (precise [] [(gx, 1), (gy, 1)] []) → far → lane = .next (s.syncFault u.b u.tid u.t 0x60))

namespace Sys2Proof.Machine

/-- The bytes of a block's bank stand as l says from pos on, and the others as before. -/
def BankGets (s : State) (w : Nat) (x : Block) (pos : Nat) (l : List Byte) : Prop :=
  ∃ y, s.block? w = some y ∧ ∀ i, y.bankByte i = if pos ≤ i ∧ i < pos + l.length then l.getD (i - pos) 0 else x.bankByte i

/-- The rows of a core's accumulator store that a block holds now, with their elements; the other rows are as before. -/
def RowsGet (s s' : State) (core bid first cnt : Nat) (v : Nat → Nat → Nat) : Prop :=
  (∀ i j, i < cnt → j < 128 → (s'.core core).elem (first + i) j = v i j) ∧
  (∀ i, i < cnt → ∃ l, (s'.core core).rowOf (first + i) = some (bid, l)) ∧
  (∀ r, r < first ∨ first + cnt ≤ r → (s'.core core).rowOf r = (s.core core).rowOf r)

end Sys2Proof.Machine

/-- R182 to R186, R192, R208 to R217 and R224 to R228 with precise, settled scratchpad bytes, no error in the store and none injected: the matrix
engine accepts its waiting commands in the order they reached the core, and they take hold of the free rows they name; MOP writes a row for
each result row, ALD loads rows, AST stores them, AZR zeroes them, and the command ends with 0; a descriptor that breaks a rule ends it
with the status of the first check that fails. -/
def Obligations.MatrixEngine : Prop :=
  ∀ (s : State) (cmd core : Nat) (m : MCmd) (b : Block), s.matrixCmd? cmd = some (core, m) → s.block? m.bid = some b →
    let k := s.core core
    let o := exec (.matrixComplete cmd) s
    let ends (st : Byte) (s' : State) : Prop := o = .next s' ∧ Ended s m.bid m.serial st s' ∧ s'.mem = s.mem
    (k.canAccept m = false → exec (.matrixAccept cmd) s = .next s) ∧
    (k.canAccept m = true → ∃ s' x b', exec (.matrixAccept cmd) s = .next s' ∧ x ∈ (s'.core core).mq ∧ x.id = m.id ∧ x.kind = m.kind ∧
      x.accepted = true ∧ x.tab = (List.range 128).map (k.lqt.get 0) ∧ s'.block? m.bid = some b' ∧ b'.regCmd = true ∧ s'.mem = s.mem ∧
      ∀ r ∈ x.range, ∃ l, (s'.core core).rowOf r = some (b.bid, l)) ∧
    (s.canRun core m = false → o = .next s) ∧
    (s.canRun core m = true → m.cancel = false → b.hist = [] → s.injCtl.getLsbD 0 = false → k.badElems = [] → b.killed = false → m.bid = b.bid →
      (m.kind = .mop →
        (m.place b 64 = none → ∃ s', ends 0x41 s') ∧
        (∀ q, m.place b 64 = some q →
          let par := m.par.getD (b.bank q 64)
          (readParams par = none → ∃ s', ends 0x41 s') ∧
          (∀ p, readParams par = some p →
            let st := m.mopStatus p k b
            (st ≠ 0 → ∃ s', ends (BitVec.ofNat 8 st) s') ∧
            (st = 0 →
              let sc (at_ n : Nat) := if pairScales p.ta then b.bank at_ n else []
              let x : Operands := { a := b.bank p.aoff p.abytes, b := b.bank p.boff p.bbytes, sa := sc p.sa p.sabytes,
                                    sb := sc p.sb p.sbbytes, tab := m.tab }
              ∃ s', ends 0 s' ∧ RowsGet s s' core b.bid p.crow p.m (fun i j =>
                let old := k.elem (p.crow + i) j
                (BitVec.ofNat 32 (if j < p.n then p.result x old i j else old)).toNat))))) ∧
      (rowRange m.rows = none → m.kind ≠ .mop → ∃ s', ends 0x41 s') ∧
      (∀ first cnt, rowRange m.rows = some (first, cnt) →
        let taken := m.refused || k.rowsTaken b.bid first cnt
        let missing := m.refused || k.rowsMissing b.bid first cnt
        (m.kind = .azr → taken = true → ∃ s', ends 0x42 s') ∧
        (m.kind = .azr → taken = false → ∃ s', ends 0 s' ∧ RowsGet s s' core b.bid first cnt (fun _ _ => 0)) ∧
        (∀ t, m.kind = .ald t → (m.place b (cnt * 16 * t.bits) = none → ∃ s', ends 0x41 s') ∧
          ∀ q, m.place b (cnt * 16 * t.bits) = some q → (taken = true → ∃ s', ends 0x42 s') ∧ (taken = false →
            ∃ s', ends 0 s' ∧ RowsGet s s' core b.bid first cnt (fun i j =>
              (BitVec.ofNat 32 (aldElem t (packedCode (b.bank q (cnt * 16 * t.bits)) t.bits (128 * i + j)))).toNat))) ∧
        (∀ t ai rm, m.kind = .ast t ai rm → (m.place b (cnt * 16 * t.bits) = none → ∃ s', ends 0x41 s') ∧
          ∀ q, m.place b (cnt * 16 * t.bits) = some q →
            (missing = true → ∃ s', ends 0x42 s') ∧
            (missing = false → ∃ s', ends 0 s' ∧ BankGets s' b.bid b q
              ((List.range cnt).map fun i => packCodes t.bits ((List.range 128).map fun j =>
                astCode t ai rm (m.started.getD b.dither) i j (k.elem (first + i) j))).flatten))))

/-- R168, R262 to R264, R269 to R271, R274, R278, R279, R281 and R282, the block unpaired: an accepted copy has the lines its plan gives, a rejected one
ends with the plan's status, and a rejected rotation takes its place in the round it rejects; a line within the block's scratchpad moves
its bytes; a copy all of whose lines have landed ends with 0, a cancelled one whose lines have not with 2; a ring's round moves every
member's tile to the next; a refill pays debts first. -/
def Obligations.TransferEngine : Prop :=
  (∀ (s : State) (cmd : Nat) (c : XCmd) (b : Block), s.xq.find? (fun x => x.id == cmd) = some c → s.block? c.bid = some b →
    b.partner = none →
    let gone (s' : State) : Prop := ∀ x ∈ s'.xq, x.id ≠ cmd
    (s.canAcceptX c = false → exec (.xferAccept cmd) s = .next s) ∧
    (s.canAcceptX c = true →
      (∀ st s1, s.plan b c = (.error st, s1) → c.kind.joins b.core = false →
        ∃ s', exec (.xferAccept cmd) s = .next s' ∧ gone s' ∧ Ended s c.bid c.serial (BitVec.ofNat 8 st) s' ∧ s'.mem = s.mem) ∧
      (∀ st s1, s.plan b c = (.error st, s1) → c.kind.joins b.core = true →
        ∃ s' x, exec (.xferAccept cmd) s = .next s' ∧ x ∈ s'.xq ∧ x.id = cmd ∧ x.accepted = true ∧ x.bad = some (BitVec.ofNat 8 st) ∧
          s'.mem = s.mem) ∧
      (∀ ls s1, s.plan b c = (.ok ls, s1) →
        ∃ s' x, exec (.xferAccept cmd) s = .next s' ∧ x ∈ s'.xq ∧ x.id = cmd ∧ x.accepted = true ∧ x.lines = ls ∧
          x.gen = BitVec.ofNat 14 (wGen (b.word c.aw)) ∧ s'.mem = s.mem)) ∧
    (∀ (line : Nat) (l : XLine) (s1 : State), line < c.lines.length → c.lines.find? (fun x => x.idx == line) = some l →
      s.canLand c l = true → (∀ x y n, c.kind ≠ .lane x y n) → s.takeToken b.vf (dieOf b.core) = some s1 → b.hist = [] → c.got = [] →
      l.lost = [] → (∀ k ∈ c.lines, ∀ x ∈ k.reads, ∀ y ∈ l.reads, x.1 = y.1 → x.2 = y.2) →
      (∀ m ∈ l.moves, ∃ p, m.1 = .scr b.bid p ∧ ((∃ v, m.2 = .pad v) ∨ ∃ o q, q < b.pbytes ∧ m.2 = .byte o (.scr b.bid q))) →
      (l.moves.map (·.1)).Nodup →
      ∃ s' y, exec (.copyLineLand cmd line) s = .next s' ∧ s'.block? b.bid = some y ∧ s'.mem = s.mem ∧
        (∀ m ∈ l.moves, ∀ p, m.1 = .scr b.bid p → p < c.aw ∨ c.aw + 8 ≤ p →
          (∀ v, m.2 = .pad v → y.bankByte p = v) ∧ (∀ o q, m.2 = .byte o (.scr b.bid q) → y.bankByte p = b.bankByte q)) ∧
        (∀ p, (∀ m ∈ l.moves, m.1 ≠ .scr b.bid p) → p < c.aw ∨ c.aw + 8 ≤ p → y.bankByte p = b.bankByte p)) ∧
    (s.canEndX c = false → exec (.xferComplete cmd) s = .next s) ∧
    (s.canEndX c = true → c.ended = none → c.lines.all (fun l => l.landed) = true →
      ∃ s', exec (.xferComplete cmd) s = .next s' ∧ gone s' ∧ Ended s c.bid c.serial (if c.orphan then 1 else 0) s' ∧ s'.mem = s.mem) ∧
    (s.canEndX c = true → c.ended = none → c.cancel = true → c.lines.any (fun l => !l.landed) = true →
      ∃ s', exec (.xferComplete cmd) s = .next s' ∧ gone s' ∧ Ended s c.bid c.serial 2 s' ∧ s'.mem = s.mem) ∧
    (∀ st, s.canEndX c = true → c.ended = some st →
      ∃ s', exec (.xferComplete cmd) s = .next s' ∧ gone s' ∧ Ended s c.bid c.serial st s' ∧ s'.mem = s.mem)) ∧
  (∀ (s : State) (cl : Nat) (mask : BitVec 4) (tag : BitVec 3) (ms : List XCmd) (n : Nat) (bs : List Block), s.ringReady cl mask tag = some ms →
    (∀ c ∈ ms, c.kind.tile.2 = n ∧ c.bad = none) → ms.map (fun c => s.block? c.bid) = bs.map some → (ms.map (·.bid)).Nodup →
    (∀ (i : Nat) (c : XCmd) (b : Block), ms[i]? = some c → bs[i]? = some b → b.partner = none ∧ b.hist = [] ∧ c.kind.tile.1 + n ≤ b.pbytes ∧
      (s.vf b.vf).refill = 0 ∧ (c.aw + 8 ≤ c.kind.tile.1 ∨ c.kind.tile.1 + n ≤ c.aw)) →
    ∃ s', exec (.xrotRound cl mask tag) s = .next s' ∧ s'.mem = s.mem ∧
      ∀ (i : Nat) (c : XCmd) (b : Block) (d : XCmd), ms[i]? = some c → bs[i]? = some b → ms[(i + 1) % ms.length]? = some d → ∃ y, s'.block? d.bid = some y ∧
        ∀ k, k < n → y.bankByte (d.kind.tile.1 + k) = b.bankByte (c.kind.tile.1 + k)) ∧
  (∀ (s : State) (die f : Nat), (List.range 96).filter (fun f => s.vfs.any (fun p => p.1 == f) && (s.vf f).refill != 0) = [f] →
    let v := s.vf f
    let debt := v.debt.get 0 die
    let tok := v.tok.get v.depth die
    let pay := min debt (v.refill / 2)
    let more := tok + (v.refill - pay)
    ∃ s', exec (.tokenRefill die) s = .next s' ∧ (s'.vf f).debt.get 0 die = debt - pay ∧ (s'.vf f).tok.get v.depth die = min more v.depth ∧
      (s'.die die).pool = min v.depth ((s.die die).pool + pay + (more - v.depth)) ∧ s'.mem = s.mem ∧ s'.blocks = s.blocks)

/-- R271, R408 to R411, the block unpaired: a cancelled collective ends with 2, a malformed descriptor with 0x52; else, once its lines are translated
and every rank's elements are there, DST receives the result and it ends with 0. -/
def Obligations.PackageCollectives : Prop :=
  ∀ (s : State) (cmd : Nat) (c : CCmd) (b : Block) (ranks : List (List Byte)) (agree : Bool),
    s.ccols.find? (fun x => x.id == cmd) = some c → s.block? c.bid = some b → b.partner = none → c.ended = none → c.out = none →
    (∀ k ∈ b.commits, k.cid ∉ c.after) → (c.e.acq = true → c.e.sc = .sys → s.homeWaits b.bid = false) → s.linesAway cmd = false →
    let o := exec (.ccolComplete cmd ranks agree) s
    let ends (st : Byte) (s' : State) : Prop := o = .next s' ∧ Ended s c.bid c.serial st s' ∧ ∀ x ∈ s'.ccols, x.id ≠ cmd
    let sz := c.t.bits / 8
    (c.cancel = true → ∃ s', ends 2 s' ∧ s'.mem = s.mem) ∧
    (c.cancel = false → c.held = true → o = .next s) ∧
    (c.cancel = false → c.held = false → ccolDesc c.kind c.desc = none → ∃ s', ends 0x52 s' ∧ s'.mem = s.mem) ∧
    (∀ d m0 s1 n q, c.cancel = false → c.held = false → ccolDesc c.kind c.desc = some d →
      State.xlate ioDie b.vf ((runLines d.group 8).map (fun l => (l, false))) s = (.ok m0, s1) →
      s1.localRun m0 d.group 8 = true → groupHead (ofBytes (s1.gather m0 d.group 8)) = some (n, q) →
      (agree = false ∨ ccolOk c.kind n d.count d.k = false → ∃ s', ends 0x52 s' ∧ s'.mem = s.mem) ∧
      (∀ m s2, agree = true → ccolOk c.kind n d.count d.k = true →
        let len := ccolBytes c.kind c.t n d.count d.k
        State.xlate ioDie b.vf ((distinct (runLines (d.group + 8) (2 * n) ++ runLines d.src (d.count * sz))).map (fun l => (l, false))
          ++ (runLines d.dst len).map (fun l => (l, true))) s1 = (.ok m, s2) →
        s2.localRun m d.src (d.count * sz) = true → Safe s →
        let own := s2.gather m d.src (d.count * sz)
        let xs := (List.range n).map fun i => if i == q then own else ranks.getD i []
        (∀ x ∈ xs, x.length = d.count * sz) →
        ∀ m2 s3, State.xlate ioDie b.vf ((runLines d.dst len).map (fun l => (l, true))) s2 = (.ok m2, s3) → s3.localRun m2 d.dst len = true →
        let place (i : Nat) := physLine m2 ((d.dst + i) / 128) * 128 + (d.dst + i) % 128
        (∀ i j, i < len → j < len → place i = place j → i = j) →
        ∃ s', ends 0 s' ∧ ∀ i, i < len → readByte s'.mem (place i) = (ccolResult c.kind c.op c.t d.count d.k q xs).getD i 0))

/-! ### Exceptions, system registers, launches and voltage (R30 to R38, R43, R169 to R179, R183, R307, R312, R345 to R347) -/

namespace Sys2Proof.Machine

/-- What a thread entering its handler keeps: its registers, predicates, records, handles, flags and stacks. -/
def SameRegisters (t t' : Thread) : Prop :=
  t'.regs = t.regs ∧ t'.preds = t.preds ∧ t'.bufs = t.bufs ∧ t'.hands = t.hands ∧ t'.flags = t.flags ∧ t'.ret = t.ret ∧
    t'.retSp = t.retSp ∧ t'.sts = t.sts ∧ t'.life = t.life

/-- A resume point as THR.XPC holds it (R171): the address in bits 56 to 0, the slot in 59 to 57 or bit 63 at a header, mode code 1 in bits
62 and 61 for a demoted thread. -/
def Resumes (x : DWord) (pc : Addr) (slot : Nat) (m : Mode) : Prop :=
  x.setWidth 57 = pc ∧ x.toNat / 2 ^ 57 % 8 = slot ∧ (x.getLsbD 63 = true ↔ slot = 0) ∧
    x.toNat / 2 ^ 61 % 4 = (if m = .demoted then 1 else 0) ∧ x.getLsbD 60 = false

/-- A thread stands at its function's handler with this cause, site and information (R345). -/
def InHandler (xvec : DWord) (t t' : Thread) (code : Nat) (x : Site) : Prop :=
  t'.mode = .trap ∧ t'.saved = t.mode ∧ t'.pc = (xvec &&& 0x01FFFFFFFFFFFFF8#64).setWidth 57 ∧ t'.slot = 0 ∧ t'.park = .running ∧
    t'.xcause.toNat = code + x.spo.toNat * 2 ^ 8 + x.k % 64 * 2 ^ 28

end Sys2Proof.Machine

/-- R171, R345 and R346: a synchronous fault with the function's handler enabled, outside trap mode, saves the faulting instruction's point, the
cause and the fault's address, and goes to the handler; in trap mode, or with no handler, the block is killed. An asynchronous fault
is delivered before the next issue and saves that point. -/
def Obligations.ExceptionEntry : Prop :=
  ∀ (s : State) (u : Cur) (code : Nat), s.cur = some u → code < 256 → u.t.slot < 8 →
    let xvec := (s.vf u.b.vf).xvec
    let s' := s.syncFault u.b u.tid u.t code
    (xvec.getLsbD 0 = true → u.t.mode ≠ .trap → ∃ t', s'.thread? u.b.bid u.tid = some t' ∧ InHandler xvec u.t t' code u.t.site ∧
      Resumes t'.xpc u.t.pc u.t.slot u.t.mode ∧ t'.xinfo.setWidth 57 = u.t.pc ∧ (t'.xinfo.getLsbD 63 = u.t.lastSlot) ∧
      t'.xinfo.getLsbD 62 = false ∧ SameRegisters u.t t' ∧ (∀ x y, (x, y) ≠ (u.b.bid, u.tid) → s'.thread? x y = s.thread? x y) ∧
      (s.pktFaults = [] → s'.mem = s.mem)) ∧
    (xvec.getLsbD 0 = false ∨ u.t.mode = .trap → u.b.phase ≠ .gone → ∃ b', s'.block? u.b.bid = some b' ∧ b'.killed = true ∧
      ∀ t ∈ b'.threads, t.life ≠ .live) ∧
    (∀ f, u.t.fault = some f → xvec.getLsbD 0 = true → u.t.mode ≠ .trap → ∃ s2 t', s.front = .ends s2 ∧ s2.thread? u.b.bid u.tid = some t' ∧
      InHandler xvec u.t t' f.code.toNat f.site ∧ Resumes t'.xpc u.t.pc u.t.slot u.t.mode ∧ t'.xinfo.setWidth 57 = f.addr ∧
      t'.xinfo.getLsbD 62 = true ∧ t'.xinfo.getLsbD 63 = f.last ∧ t'.fault = none ∧ SameRegisters u.t t')

/-- R171 to R174: TRAP retires and enters the handler with code 0x08, its number as information and the next instruction as resume point, and kills
the block with no handler; TRET goes back to THR.XPC; both fault with 0x02 in the wrong mode; BKPT halts its thread when breakpoints are
enabled and else goes on. -/
def Obligations.TrapInstructions : Prop :=
  ∀ (s : State) (u : Cur) (c : Ctl) (n : BitVec 26), Ready s u c noOperands →
    let xvec := (s.vf u.b.vf).xvec
    let next := u.t.advance
    let x := u.t.xpc
    let slot := x.toNat / 2 ^ 57 % 8
    let good := x.toNat / 2 ^ 61 % 4 ≤ 1 ∧ x.toNat % 8 = 0 ∧ (x.getLsbD 63 = true → slot = 0) ∧ (x.getLsbD 63 = false → slot ≠ 0)
    let cl := clusterOf u.b.core
    (u.t.mode = .trap → exec (.trap c n) s = .next (s.syncFault u.b u.tid u.t 0x02)) ∧
    (u.t.mode ≠ .trap → xvec.getLsbD 0 = true → u.t.slot < 8 → ∃ s' t', exec (.trap c n) s = .next s' ∧ s'.thread? u.b.bid u.tid = some t' ∧
      t'.mode = .trap ∧ t'.pc = (xvec &&& 0x01FFFFFFFFFFFFF8#64).setWidth 57 ∧ t'.slot = 0 ∧
      t'.xcause.toNat = 8 + u.t.site.spo.toNat * 2 ^ 8 + u.t.site.k % 64 * 2 ^ 28 ∧ t'.xinfo.toNat = n.toNat ∧
      t'.xpc.setWidth 57 = next.pc ∧ t'.xpc.toNat / 2 ^ 57 % 8 = next.slot % 8 ∧ (t'.xpc.getLsbD 63 = true ↔ next.slot = 0) ∧
      SameRegisters u.t t') ∧
    (u.t.mode ≠ .trap → xvec.getLsbD 0 = false → u.b.phase ≠ .gone →
      ∃ s' b', exec (.trap c n) s = .next s' ∧ s'.block? u.b.bid = some b' ∧ b'.killed = true) ∧
    (u.t.mode = .trap → good → ∃ r, CompletesAt c s u 0 (exec (.tret c) s) { u.t with
      mode := if x.toNat / 2 ^ 61 % 4 = 1 then .demoted else .normal, pc := x.setWidth 57, slot := slot, rehdr := true, rpt := r,
      rptSaved := none }) ∧
    (u.t.mode ≠ .trap ∨ ¬ good → exec (.tret c) s = .next (s.syncFault u.b u.tid u.t 0x02)) ∧
    ((s.cluster cl).bken = false ∨ u.t.header.spo = 0xFFFFF#20 → Completes c s u 0 (exec (.bkpt c n) s) u.t) ∧
    ((s.cluster cl).bken = true → u.t.header.spo ≠ 0xFFFFF#20 → GoesOnWith c s u u.t (exec (.bkpt c n) s) (fun s1 s2 => ∃ t2 h, s2.thread? u.b.bid u.tid = some t2 ∧
      t2.halted = true ∧ (s2.cluster cl).hits = (s1.cluster cl).hits ++ [h] ∧ h.bkn = n ∧ h.wp = 15 ∧ h.kind = 6 ∧
      s2.agenda = .watchpointMatch cl :: s1.agenda ∧ s2.mem = s1.mem))

/-- R169 to R171, R183 and R313: SYSR reads a system register into a pair, later; SYSW writes THR.XPC or an entry of the core's LQ2 table. Fault 0x03
where the register or the mode does not allow it, 0x60 for a read of CORE in a deterministic launch. -/
def Obligations.SystemRegisters : Prop :=
  ∀ (s : State) (u : Cur) (c : Ctl) (d a : G) (n : BitVec 26),
    let thr := n.toNat / 2 ^ 16 = 1
    let r := n.toNat % 2 ^ 16
    let o := exec (.sysr c d n) s
    let w := exec (.sysw c a n) s
    let reads (v : DWord) : Prop := GoesOnWith c s u (u.t.addFlag u.t.flagOf) o (fun s1 s2 => s2.blocks = s1.blocks ∧
      AwaitsAfter u s1.mem (fun k => k = .regs (regWrites d 8 v.toNat .P) Know.none []) s1 s2)
    (Ready s u c (precise [(d, 2)] [] []) →
      (thr → u.t.mode ≠ .trap → o = .next (s.syncFault u.b u.tid u.t 0x03)) ∧
      (¬ thr → u.b.shape.det = true → o = .next (s.syncFault u.b u.tid u.t 0x60)) ∧
      (thr → u.t.mode = .trap → (r = 0 → reads u.t.xpc) ∧ (r = 1 → reads u.t.xcause) ∧ (r = 2 → reads u.t.xinfo)) ∧
      (¬ thr → u.b.shape.det = false → (r = 0x20 → reads s.avcal) ∧
        (r = 0x21 → reads (BitVec.ofNat 64 ((s.core u.b.core).rail * 2 ^ 16 + s.request u.b.core))) ∧
        (0x100 ≤ r → reads ((s.core u.b.core).lqt.get 0 (r - 0x100))))) ∧
    (Ready s u c (precise [] [(a, 2)] []) →
      (thr → u.t.mode ≠ .trap ∨ r ≠ 0 → w = .next (s.syncFault u.b u.tid u.t 0x03)) ∧
      (¬ thr → r < 0x100 → w = .next (s.syncFault u.b u.tid u.t 0x03)) ∧
      (thr → u.t.mode = .trap → r = 0 → GoesOnWith c s u { u.t with xpc := u.t.pair a } w (fun s1 s2 => s2.mem = s1.mem ∧
        s2.cores = s1.cores ∧ ∀ x y, s2.thread? x y = s1.thread? x y)) ∧
      (¬ thr → 0x100 ≤ r → GoesOnWith c s u u.t w (fun s1 s2 => s2.mem = s1.mem ∧ (∀ x y, s2.thread? x y = s1.thread? x y) ∧
        (s2.core u.b.core).lqt.get 0 (r - 0x100) = u.t.pair a ∧
        (∀ i, i ≠ r - 0x100 → (s2.core u.b.core).lqt.get 0 i = (s1.core u.b.core).lqt.get 0 i) ∧
        ∀ k, k ≠ u.b.core → s2.core k = s1.core k)))

/-- R32 to R34, R36, R38, R43, R152 and R175 to R179, the block unpaired: LNCH reads its record and then starts a launch, whose handle it returns, and
waits among the due levels while no launch counter is left for it; CNCL cancels what runs; CSIG adds to a counter, with .rel after its block's commit; CWT waits for a value
or the end. A handle of no counter faults with 0x71. -/
def Obligations.LaunchInstructions : Prop :=
  (∀ (s : State) (u : Cur) (c : Ctl) (d a b : G) (pd : PF) (rel acq : Bool) (sc : Scope), u.b.partner = none →
    let adr := (u.t.pair a).toNat
    let h := u.t.val a
    let v := u.t.val b
    let vf := u.b.vf
    let o := exec (.lnch c d a) s
    let sig := exec (.csig c a b rel sc) s
    let fails (f : Nat) (out : Out) : Prop := out = .next (s.syncFault u.b u.tid u.t f)
    let adds (s1 s2 : State) : Prop := ∀ k, s.handle? vf h = some k → ∃ k2, s2.handle? vf h = some k2 ∧ k2.value = k.value + v ∧
      k2.state = k.state ∧ k2.left = k.left ∧ s2.mem = s1.mem
    (Ready s u c (precise [(d, 1)] [(a, 2)] []) →
      (adr % 64 ≠ 0 ∨ 2 ^ 57 ≤ adr → fails 0x70 o) ∧
      (adr % 64 = 0 → adr < 2 ^ 57 →
        (∀ f, s.prepare u.b { s.lnchAcc u d a with a := adr } = .fault f → fails f o) ∧
        (s.due = [] → (s.lnchNext u.lnchDue = true ↔ 0 < s.freeCount .launch)) ∧
        (s.lnchNext u.lnchDue = false → (∀ f, s.prepare u.b { s.lnchAcc u d a with a := adr } ≠ .fault f) →
          ∃ s2 e, o = .next s2 ∧ s2.thread? u.b.bid u.tid = some { u.t with park := .lnch } ∧ s2.issue = s.issue.tail ∧ e ∈ s2.due ∧
            e.what = u.lnchDue ∧ ∀ x y, (x, y) ≠ (u.b.bid, u.tid) → s2.thread? x y = s.thread? x y) ∧
        (s.lnchNext u.lnchDue = true → ∀ s1 x data ty pa, s.prepare u.b { s.lnchAcc u d a with a := adr } = .go s1 x data ty → x.pa = some pa →
          s1.near pa → GoesOnWith c (s1.takes { s.lnchAcc u d a with a := adr }) u (u.t.addFlag u.t.flagOf) o (Awaits s u (.lnch d adr data))))) ∧
    (Ready s u c (precise [] [(a, 1)] []) → s.handle? vf h = none →
      fails 0x71 (exec (.cncl c a) s) ∧ (u.b.shape.det = false → fails 0x71 (exec (.cwtDone c pd a acq sc) s))) ∧
    (Ready s u c (precise [] [(a, 1)] []) → s.handle? vf h ≠ none →
      (∀ l, handleLevel h = .launch → s.launches.find? (fun l => l.vf == vf && l.ctr == handleNum h) = some l →
        s.launch? l.obj = some l → s.runs vf .launch (handleNum h) = true →
        GoesOnWith c s u u.t (exec (.cncl c a) s) (fun s1 s2 =>
          (∃ k, s2.counter? vf .launch (handleNum h) = some k ∧ k.state = .cancelled) ∧
          ∀ x y, s1.block? x = some y → y.launch = l.obj → y.phase ≠ .gone → ∃ z, s2.block? x = some z ∧ z.killed = true)) ∧
      (handleLevel h = .launch → s.launches.find? (fun l => l.vf == vf && l.ctr == handleNum h) = none →
        GoesOnWith c s u u.t (exec (.cncl c a) s) (fun s1 s2 => s2 = s1)) ∧
      (u.b.shape.det = false → Completes c s u 0 (exec (.cwtDone c pd a acq sc) s) { u.t with park := .cwtDone pd h })) ∧
    (Ready s u c (precise [] [(a, 1), (b, 1)] []) →
      (s.handle? vf h = none → (u.b.shape.det = false → fails 0x71 (exec (.cwtVal c pd a b acq sc) s)) ∧
        (rel = false ∨ u.b.shape.det = false → fails 0x71 sig)) ∧
      (u.b.shape.det = true → fails 0x60 (exec (.cwtVal c pd a b acq sc) s) ∧ (rel = true → fails 0x60 sig)) ∧
      (s.handle? vf h ≠ none →
        (u.b.shape.det = false → Completes c s u 0 (exec (.cwtVal c pd a b acq sc) s) { u.t with park := .cwtVal pd h v acq sc }) ∧
        (rel = false → GoesOnWith c s u u.t sig adds) ∧
        (rel = true → u.b.clear → s.inReplay u.b = false → GoesOnWith c s u { u.t with park := .commitWait } sig (fun s1 s2 => adds s1 s2 ∧
          ∃ t2, s2.thread? u.b.bid u.tid = some t2 ∧ t2.park = .running))))) ∧
  (∀ (s : State) (b : Block) (tid : Nat) (t : Thread) (pd : PF) (h v : Word) (acq : Bool) (sc : Scope) (k : Counter),
    s.block? b.bid = some b → b.thread? tid = some t → s.handle? b.vf h = some k →
    let s' := s.settleCwt b tid t
    let gives (x acquires : Bool) : Prop := ∃ t', s'.thread? b.bid tid = some t' ∧
      t'.bare = ({ t.setPred pd ⟨x, .P⟩ with park := .running } : Thread).bare ∧ (acquires = true → (s'.core b.core).l1 = [])
    (t.park = .cwtVal pd h v acq sc →
      ((k.value - v).toNat < 2 ^ 31 → gives true acq) ∧
      (2 ^ 31 ≤ (k.value - v).toNat → k.state = .cancelled → gives false acq) ∧
      (2 ^ 31 ≤ (k.value - v).toNat → k.state ≠ .cancelled → s' = s)) ∧
    (t.park = .cwtDone pd h →
      (k.state = .done → gives true true) ∧ (k.state = .cancelled → gives false true) ∧ (k.state = .running → s' = s))) ∧
  (∀ (s : State) (op : Nat) (p : Pend) (b : Block) (t : Thread) (d : G) (va : Nat) (bytes : List Byte) (sh : Shape) (l : Launch) (g : Graph)
      (gc num : Nat) (k : Counter),
    s.pend.find? (fun x => x.id == op) = some p → p.kind = .lnch d va bytes → s.block? p.bid = some b → b.thread? p.tid = some t →
    launchShape bytes = some sh → s.launch? b.launch = some l → s.graph? l.graph = some g → g.ctr = some gc →
    (({ s with pend := s.pend.filter (fun x => x.id != op) } : State).freeNum .launch).1 = some num → s.counter? l.vf .graph gc = some k →
    k.state ≠ .cancelled →
    ∃ s' t' x q, exec (.loadComplete op) s = .next s' ∧ x ∈ s'.launches ∧ x.ctr = num ∧ x.shape = sh ∧ x.vf = l.vf ∧ x.graph = g.obj ∧ x.next = 0 ∧
      s'.counter? l.vf .launch num = some q ∧ q.state = .running ∧ q.left = sh.nblk ∧ q.value = 0 ∧
      s'.thread? p.bid p.tid = some t' ∧ (d ≠ 0xFF#8 → d.toNat < t.regs.length → t'.regs[d.toNat]? = some ⟨BitVec.ofNat 32 num, .P⟩) ∧
      s'.mem = s.mem)

/-- R307, R312 and R322: AVSET sets its block's request: at once when the rail suffices or the request falls, and then the rail falls to the
highest request; else once the rail has climbed there. A request out of range faults with 0x01, a lowered one in a deterministic launch
with 0x60. -/
def Obligations.VoltageRequests : Prop :=
  (∀ (s : State) (u : Cur) (c : Ctl) (a : G) (w : Word) (o : Out) (v : Nat),
    let core := u.b.core
    let low := u.b.shape.det = true ∧ v < 750
    let register := o = exec (.avset c a) s ∧ v = (u.t.val a).toNat ∧ Ready s u c (precise [] [(a, 1)] [])
    let immediate := o = exec (.avsetI c w) s ∧ v = w.toNat ∧ Ready s u c noOperands
    let range := 450 ≤ v ∧ v ≤ 750 ∧ v % 5 = 0
    let new := u.b.rising = none ∨ u.b.volt ≠ v
    let me := (s.ids, u.tid, u.t.flagOf)
    (register → ¬ range → o = .next (s.syncFault u.b u.tid u.t 0x01)) ∧
    (register ∧ range ∨ immediate →
      (low → o = .next (s.syncFault u.b u.tid u.t 0x60)) ∧
      (¬ low → new → (v ≤ u.b.volt ∨ v ≤ (s.core core).rail) → GoesOnWith c s.issued u (u.t.addFlag u.t.flagOf) o (fun s1 s2 =>
        ∃ b2 t2, s2.block? u.b.bid = some b2 ∧ b2.volt = v ∧ b2.level = levelOf s.avcal v ∧ b2.rising = none ∧ b2.regAvset = true ∧
          s2.thread? u.b.bid u.tid = some t2 ∧ (u.b.rising = none → t2.flags = u.t.flags) ∧ s2.mem = s1.mem ∧
          (u.b.resident = true → (s2.core core).rail = min (s1.core core).rail (s2.request core)))) ∧
      (¬ low → new → u.b.volt < v → (s.core core).rail < v → GoesOnWith c s.issued u (u.t.addFlag u.t.flagOf) o (fun s1 s2 =>
        ∃ b2, s2.block? u.b.bid = some b2 ∧ b2.volt = v ∧ b2.level = u.b.level ∧ b2.rising = some (v, [me]) ∧ s2.mem = s1.mem)) ∧
      (∀ x ws, ¬ low → u.b.rising = some (x, ws) → u.b.volt = v → GoesOnWith c s.issued u (u.t.addFlag u.t.flagOf) o (fun s1 s2 =>
        ∃ b2, s2.block? u.b.bid = some b2 ∧ b2.volt = v ∧ b2.level = u.b.level ∧ b2.rising = some (v, ws ++ [me]) ∧ s2.mem = s1.mem)))) ∧
  (∀ (s : State) (core mv : Nat),
    (¬ ((s.core core).rail < mv ∧ mv ≤ s.request core) → exec (.railReached core mv) s = .next s) ∧
    ((s.core core).rail < mv → mv ≤ s.request core → ∃ s', exec (.railReached core mv) s = .next s' ∧ (s'.core core).rail = mv ∧ s'.mem = s.mem ∧
      ∀ x b v ws, s.block? x = some b → b.resident = true → b.core = core → b.rising = some (v, ws) →
        ∃ b', s'.block? x = some b' ∧ (v ≤ mv → b'.rising = none ∧ b'.level = levelOf s.avcal v) ∧
          (mv < v → b'.rising = some (v, ws) ∧ b'.level = b.level)))

/-! ### The dispatcher: doorbells, levels, blocks (R26 to R39, R378 to R387, R426) -/

namespace Sys2Proof.Machine

/-- A counter as a level takes it (R32). -/
def Counter.fresh (vf : Nat) (lv : Level) (num left : Nat) (parent : Option (Level × Nat)) : Counter :=
  { vf := vf, level := lv, num := num, value := 0, left := left, state := .running, cancel := false, parent := parent, counted := false }

/-- A thread keeps what a program can read of it: its place, registers, predicates, records, handles, stacks, mode and life. -/
def SameProgram (t t' : Thread) : Prop :=
  t'.pc = t.pc ∧ t'.slot = t.slot ∧ t'.regs = t.regs ∧ t'.preds = t.preds ∧ t'.bufs = t.bufs ∧ t'.ret = t.ret ∧ t'.mode = t.mode ∧
    t'.life = t.life

/-- Block bid stands in state s' with phase ph. -/
def State.HasPhase (s' : State) (bid : Nat) (ph : Phase → Prop) : Prop := ∃ b, s'.block? bid = some b ∧ ph b.phase

end Sys2Proof.Machine

/-- R29 to R31, R422 and R423: a job address written to VF.SUBMIT enters the function's queue and counts in ACC; a malformed one, or one written
before the module is ready, sets BADW, and one that meets a full queue sets OVF, and neither enters. -/
def Sys2Proof.Machine.JobSubmission : Prop :=
  ∀ (s : State) (f : Nat) (v : DWord), f < 96 →
    let good := s.ready = true ∧ v.toNat < 2 ^ 57 ∧ v.toNat % 64 = 0
    (good → (s.queued f).length < 64 → ∃ s', exec (.submit f v) s = .next s' ∧ s'.jobs = s.jobs ++ [Job.queuedAt s.ids f v.toNat] ∧
      (s'.vf f).acc = (s.vf f).acc + 1 ∧ s'.queued f = s.queued f ++ [Job.queuedAt s.ids f v.toNat] ∧ s'.mem = s.mem ∧
      s'.blocks = s.blocks ∧ ∀ g, g ≠ f → s'.vf g = s.vf g) ∧
    (¬ good → ∃ s', exec (.submit f v) s = .next s' ∧ s'.jobs = s.jobs ∧ (s'.vf f).badw = true ∧ (s'.vf f).acc = (s.vf f).acc) ∧
    (good → 64 ≤ (s.queued f).length →
      ∃ s', exec (.submit f v) s = .next s' ∧ s'.jobs = s.jobs ∧ (s'.vf f).ovf = true ∧ (s'.vf f).acc = (s.vf f).acc)

/-- R26 to R28, R31 to R35: the oldest queued job starts with a counter of its phases and its first phase due; a due phase takes a counter of its
graphs and makes them due; a due graph takes a counter of its nodes and makes those without a predecessor due; a due node takes a
counter of its blocks and becomes a launch. A free counter is found whenever one is left. -/
def Sys2Proof.Machine.LevelsStart : Prop :=
  (∀ (s : State) (lv : Level), s.hasFree lv = true →
    ∃ n, (s.freeNum lv).1 = some n ∧ n < capOf lv ∧ n ∉ s.usedNums lv) ∧
  (∀ (s : State) (f : Nat) (j : Job) (rest : List Job) (bs : List Byte) (dn n ph num : Nat) (tag : Word),
    s.queued f = j :: rest → s.waitsRead (.jobRec j.obj) = false → s.activeCount f < 8 → s.vfRuns f = true →
    let q := s.dispRead (.jobRec j.obj) f j.va 64
    q.1 = .ok bs → jobFields bs = some (dn, tag, n, ph) → (q.2.freeNum .job).1 = some num →
    ∃ s' p d, exec (.jobStart f) s = .next s' ∧
      s'.job? j.obj = some { j with active := true, ctr := some num, tag := tag, donew := some dn, phases := ph, nph := n } ∧
      s'.counter? f .job num = some (Counter.fresh f .job num n none) ∧
      p ∈ s'.phases ∧ p.job = j.obj ∧ p.idx = 0 ∧ d ∈ s'.due ∧ d.vf = f ∧ d.what = .phase p.obj ∧ d.held = false) ∧
  (∀ (s : State) (i p : Nat) (d : Due) (x : PhaseObj) (j : Job) (bs : List Byte) (arr n num : Nat),
    s.due.find? (fun e => e.id == i) = some d → s.dueNext d = true → d.what = .phase p → s.phase? p = some x → s.job? x.job = some j →
    let q := s.dispRead (.phase p) x.vf (j.phases + 16 * x.idx) 16
    q.1 = .ok bs → phaseFields bs = some (arr, n) → (q.2.freeNum .phase).1 = some num →
    ∃ s', exec (.levelStart i) s = .next s' ∧ s'.phase? p = some { x with ctr := num, ngr := n } ∧
      s'.counter? x.vf .phase num = some (Counter.fresh x.vf .phase num n (j.ctr.map (fun k => (Level.job, k)))) ∧
      ∀ k, k < n → ∃ g e, g ∈ s'.graphs ∧ g.phase = p ∧ g.va = arr + 8 * k ∧ g.ctr = none ∧ e ∈ s'.due ∧ e.what = .graph g.obj ∧
        e.held = false) ∧
  (∀ (s : State) (i g : Nat) (d : Due) (x : Graph) (parent : PhaseObj) (ptr h bs : List Byte) (n num : Nat) (ns : List (Nat × DWord)),
    s.due.find? (fun e => e.id == i) = some d → s.dueNext d = true → d.what = .graph g → s.graph? g = some x →
    s.phase? x.phase = some parent →
    let r : DRead := .graph g
    let p1 := s.dispRead r x.vf x.va 8
    let a := ofBytes ptr
    let p2 := p1.2.dispRead r x.vf a 16
    let p3 := p2.2.dispRead r x.vf (a + 16) (16 * n)
    p1.1 = .ok ptr → a % 16 = 0 → a < 2 ^ 57 → p2.1 = .ok h → graphCount h = some n → p3.1 = .ok bs → graphNodes n bs = some ns →
    (p3.2.freeNum .graph).1 = some num →
    ∃ s' y, exec (.levelStart i) s = .next s' ∧ s'.graph? g = some y ∧ y.ctr = some num ∧ y.nodes.map (fun e => (e.1, e.2.1)) = ns ∧
      ∀ (k va : Nat) (m : DWord), ns[k]? = some (va, m) → (∀ l, l < k → m.getLsbD l = false) →
        ∃ e, e ∈ s'.due ∧ e.what = .node g k ∧ e.held = false) ∧
  (∀ (s : State) (i g k : Nat) (d : Due) (x : Graph) (gctr va num : Nat) (m : DWord) (st : NState) (bs : List Byte) (sh : Shape),
    s.due.find? (fun e => e.id == i) = some d → s.dueNext d = true → d.what = .node g k → s.graph? g = some x → x.ctr = some gctr →
    x.nodes[k]? = some (va, m, st) →
    let p := s.dispRead (.node g k) x.vf va 64
    p.1 = .ok bs → (p.2.freeNum .launch).1 = some num → launchShape bs = some sh →
    ∃ s' l, exec (.levelStart i) s = .next s' ∧ l ∈ s'.launches ∧ l.ctr = num ∧ l.vf = x.vf ∧ l.shape = sh ∧ l.graph = g ∧ l.node = some k ∧
      l.next = 0 ∧ l.wdog = (s.vf x.vf).wdog ∧ l.pin = (s.vf x.vf).pin ∧
      s'.counter? x.vf .launch num = some (Counter.fresh x.vf .launch num sh.nblk (some (.graph, gctr))) ∧
      ∀ e ∈ s'.due, e.what ≠ .node g k)

/-- R26 to R28, R29 to R31, R32 to R35, R422 and R423: jobs submitted and the levels below them. -/
def Obligations.JobsAndLevels : Prop := JobSubmission ∧ LevelsStart

/-- R16, R22, R25, R39, R312, R326, R350, R378 and R379: the dispatcher puts the next block of the chosen launch on a core, every thread at the entry
point with its registers 0; a paired block gets a second copy on another cluster; a stopped block returns with what its threads
held and its accumulator rows; the ages of the functions and of the packets grow by their weights. -/
def Sys2Proof.Machine.BlocksPlaced : Prop :=
  (∀ (s : State) (die core f : Nat) (l : Launch), die < 8 → core < 48 →
    s.chosen (48 * die + core) = some (f, .fresh l.obj) → s.launch? l.obj = some l → l.vf = f →
    (l.shape.pair = false → ∃ s' b l', exec (.blockDispatch die core) s = .next s' ∧ b ∈ s'.blocks ∧ b.core = 48 * die + core ∧ b.vf = l.vf ∧
      b.launch = l.obj ∧ b.lin = l.next ∧ b.shape = l.shape ∧ b.phase = .resident ∧ b.killed = false ∧ b.threads.length = l.shape.nthr ∧
      (∀ t tid, b.thread? tid = some t → t.pc = l.shape.code ∧ t.slot = 0 ∧ t.mode = .normal ∧ t.life = .live ∧
        t.regs = List.replicate l.shape.nregs ⟨0, .P⟩ ∧
        t.bufs = List.replicate 13 0 ++ [l.shape.param, l.shape.tlsRec l.next tid, l.shape.scrRec] ∧
        t.haltReq = (s.cluster (12 * die + core / 4)).stop) ∧
      s'.launch? l.obj = some l' ∧ l'.next = l.next + 1 ∧ (s'.vf f).age.get 0 die = 0 ∧ s'.mem = s.mem) ∧
    (l.shape.pair = true → ∃ s' a b, exec (.blockDispatch die core) s = .next s' ∧ a ∈ s'.blocks ∧ b ∈ s'.blocks ∧
      a.core = 48 * die + core ∧ clusterOf b.core ≠ clusterOf a.core ∧ a.partner = some b.bid ∧ b.partner = some a.bid ∧ a.trailing = false ∧
      b.trailing = true ∧ a.lin = l.next ∧ b.lin = l.next)) ∧
  (∀ (s : State) (die core : Nat), 8 ≤ die ∨ 48 ≤ core ∨ s.chosen (48 * die + core) = none → exec (.blockDispatch die core) s = .next s) ∧
  (∀ (s : State) (bid core f : Nat) (b : Block), core < 384 → s.chosen core = some (f, .again bid) → s.block? bid = some b →
    b.partner = none →
    ∃ s' b', exec (.blockRestore bid core) s = .next s' ∧ s'.block? bid = some b' ∧ b'.phase = .resident ∧ b'.core = core ∧ b'.lin = b.lin ∧
      (s'.core core).l1 = [] ∧ ((∃ o, b.phase = .relaunch o) ∨ ∀ r ∈ b.rowsSaved, (r.1, bid, r.2) ∈ (s'.core core).rows) ∧
      ∀ t tid, b.thread? tid = some t → ∃ t', b'.thread? tid = some t' ∧ SameProgram t t') ∧
  (∀ (s : State) (bid p core f : Nat) (b x : Block) (l : Launch), core < 384 → s.chosen core = some (f, .again bid) → s.block? bid = some b →
    b.partner = some p → p ≠ bid → s.block? p = some x → s.launch? b.launch = some l → l.shape.pair = true →
    ∃ s' y z, exec (.blockRestore bid core) s = .next s' ∧ s'.block? bid = some y ∧ s'.block? p = some z ∧ y.phase = .resident ∧
      z.phase = .resident ∧ y.core = core ∧ clusterOf z.core ≠ clusterOf core) ∧
  (∀ (s : State) (bid core : Nat), 384 ≤ core ∨ (∀ f, s.chosen core ≠ some (f, .again bid)) → exec (.blockRestore bid core) s = .next s) ∧
  (∀ (s : State) (die f : Nat), f < 96 → ∃ s', exec (.dispatchAgeTick die) s = .next s' ∧
    (s'.vf f).age.get 0 die = (if s.vfPart f = s.partOf die ∧ s.cands f ≠ [] then
      min 65535 ((s.vf f).age.get 0 die + (s.vf f).weight) else 0) ∧ s'.qosOn f die = (s.vf f).qos ∧ s'.blocks = s.blocks ∧
    s'.launches = s.launches) ∧
  (∀ s : State, ∃ s', exec .arbiterAgeTick s = .next s' ∧ s'.arbiter.length = s.arbiter.length ∧ ∀ (i : Nat) (p : Packet), s.arbiter[i]? = some p →
    s'.arbiter[i]? = some { p with age := min 65535 (p.age + (match p.vf with | some f => (s.vf f).weight | none => 15)) })

namespace Sys2Proof.Machine

/-- Every thread of a block has ended, its commits and those of its exits are performed (R36). -/
def Block.AllOver (b : Block) : Prop := (∀ t ∈ b.threads, t.life ≠ .live) ∧ b.commits = [] ∧ b.exits = 0

/-- What R36, and R387 in a deterministic launch, ask of a block that completes. -/
def State.Over (s : State) (b : Block) : Prop :=
  b.phase = .resident ∧ b.AllOver ∧ s.homeWaits b.bid = false ∧ b.handed = [] ∧ s.hasCommands b = false ∧
    (b.shape.det = true → b.killed = false → ∀ l, s.launch? b.launch = some l → l.turn = b.lin)

/-- The engine commands of a block may write their global lines: it is its turn (R387). -/
def State.withTurn (s : State) (bid : Nat) : State :=
  { s with xq := s.xq.map fun x => if x.bid == bid then { x with turn := true } else x }

end Sys2Proof.Machine

/-- R32, R36 and R326: a block whose threads, commits and commands are done leaves, with its other copy, and is counted once on its launch, whose
counter completes with the last of them, cancelled when a block was killed; one that is not done stays. -/
def Sys2Proof.Machine.CompletedBlocks : Prop :=
  (∀ (s : State) (bid : Nat) (b : Block) (l : Launch) (c : Counter), s.block? bid = some b → s.Over b →
    (∀ p x, b.partner = some p → s.block? p = some x → s.Over x) →
    s.launch? b.launch = some l → s.counter? l.vf .launch l.ctr = some c →
    ∃ s' c', exec (.blockComplete bid) s = .next s' ∧ s'.block? bid = none ∧ (∀ p, b.partner = some p → s'.block? p = none) ∧
      s'.counter? l.vf .launch l.ctr = some c' ∧ c'.value = c.value + 1 ∧ c'.left = c.left - 1 ∧
      (c.left ≤ 1 → c.counted = false → c'.counted = true ∧
        (c'.state = .cancelled ↔ c.state = .cancelled ∨ c.cancel = true ∨ b.killed = true))) ∧
  (∀ (s : State) (bid : Nat) (b : Block), s.block? bid = some b →
    ¬ b.AllOver ∨ (b.shape.det = false ∧ s.hasCommands b = true) → exec (.blockComplete bid) s = .next s)

/-- R326, R387 and R392: in a deterministic launch the block whose turn it is performs what it handed over at the homes, by thread and in
program order, and its engine commands may write their global lines; an entry that waits for its home keeps the later ones; a killed
block finishes its entries; a cancelled launch grants no turn. -/
def Sys2Proof.Machine.Turns : Prop :=
  (∀ b : Block, b.turnOrder.Perm b.handed ∧ b.turnOrder.Pairwise (fun x y => x.tid < y.tid ∨ (x.tid = y.tid ∧ x.wid ≤ y.wid))) ∧
  (∀ (s : State) (b : Block) (e : Entry) (es : List Entry), s.block? b.bid = some b →
    let s1 := s.performOne b [e] true
    (s.waitsHome b.bid e.eid = true → State.performTurn b.bid (e :: es) s = s) ∧
    (s.waitsHome b.bid e.eid = false → State.performTurn b.bid (e :: es) s =
      if s1.waitsHome b.bid e.eid = true then s1 else State.performTurn b.bid es s1)) ∧
  (∀ (s : State) (l : Launch) (b : Block), s.launch? l.obj = some l →
    s.blocks.find? (fun b => b.launch == l.obj && b.lin == l.turn && !b.trailing) = some b → s.block? b.bid = some b →
    let o := exec (.ticketTurn l.obj) s
    (b.killed = true → o = .next (State.performTurn b.bid b.turnOrder s)) ∧
    (b.killed = false → ¬ b.AllOver ∨ b.phase ≠ .resident ∨ b.shape.det = false → o = .next s) ∧
    (∀ c, b.killed = false → s.counter? l.vf .launch l.ctr = some c → c.state = .cancelled → o = .next s) ∧
    (∀ c, b.killed = false → b.shape.det = true → b.AllOver → b.phase = .resident → s.counter? l.vf .launch l.ctr = some c →
      c.state ≠ .cancelled →
      o = .next (State.performTurn b.bid b.turnOrder (s.withTurn b.bid)) ∧
      (∀ e, b.handed = [e] → s.waitsHome b.bid e.eid = false → (s.reach (dieOf b.core) e.pa).1 = true → s.near e.pa →
        ∃ s' b', o = .next s' ∧ s'.block? b.bid = some b' ∧ b'.handed = [] ∧ (∀ x ∈ s'.xq, x.bid = b.bid → x.turn = true) ∧
          (e.kind = .store → e.merged = true ∨ s.tag e.pa = (if e.appr then .A else .P) → s'.mem = writeBytes s.mem e.pa e.bytes) ∧
          (∀ op t, e.kind = .red op t →
            let old := ofBytes (readBytes s.mem e.pa (t.bits / 8))
            let new := aopNew op t old (ofBytes e.bytes) 0
            s'.mem = if new = old then s.mem else writeBytes s.mem e.pa (bytesOf (t.bits / 8) new))))) ∧
  (∀ (s : State) (n : Nat), s.launch? n = none → exec (.ticketTurn n) s = .next s)

/-- R32, R36, R43, R326, R387 and R392: blocks that complete, and the turns of a deterministic launch. -/
def Sys2Proof.Machine.BlocksComplete : Prop := CompletedBlocks ∧ Turns

/-- R16, R22, R32, R36, R39, R43, R312, R326, R350, R378, R379 and R387: blocks placed, aged, completed and counted. -/
def Obligations.BlockLife : Prop := BlocksPlaced ∧ BlocksComplete

/-! ### Quarters, timeouts, errors and pre-emption (R45 to R60, R75, R158, R337 to R355, R381, R385) -/

namespace Sys2Proof.Machine

/-- No error of a block waits to be consumed. -/
def State.calm (s : State) (bid : Nat) : Prop := ∀ i ∈ s.agenda, ∀ c n, i ≠ .ueConsumed bid c n

/-- A block has no engine command in flight. -/
def State.noCommand (s : State) (b : Block) : Prop :=
  (∀ c ∈ s.xq, c.bid ≠ b.bid) ∧ ∀ m ∈ (s.core b.core).mq, m.bid ≠ b.bid

end Sys2Proof.Machine

/-- R50 to R52, R56, R75, R337: a quarter with a ready thread issues its lead's packet, whose members share the lead's launch and address and stand on
different lanes; the replay queue is emptied oldest first, and a failed comparison is an error of the block; a missing code line is
fetched, word by word from its home or from what the core has held of it. -/
def Sys2Proof.Machine.QuarterCycle : Prop :=
  (∀ (s : State) (core q : Nat), core < 384 → q < 4 → s.issue = [] →
    let s1 := s.modCore core fun k => { k with clk := k.clk + 1 }
    let r := s1.readyOn core q
    let old := (s.core core).quarters.get Quarter.reset q
    (∀ x ∈ r, x.t.life = .live ∧ x.t.park = .running ∧ (x.t.halted = false ∨ x.t.mode = .trap) ∧ quarterOf x.tid = q ∧ x.b.core = core) ∧
    (∀ l forced, pickLead r old (s1.clkOf core) = some (l, forced) → old.queue.length ≤ 32 →
      ∃ s', exec (.packetIssue core q) s = .next s' ∧ s'.issue = (s1.takeIn (packetOf l r)).map (fun x => (x.b.bid, x.tid)) ∧
        s'.packets = s.packets + 1 ∧ s'.mem = s.mem ∧
        let new := (s'.core core).quarters.get Quarter.reset q
        new.lead = some (l.b.bid, l.tid) ∧ new.tenure = (if old.lead = some (l.b.bid, l.tid) then old.tenure + 1 else 1)) ∧
    (r = [] → ∃ s', exec (.packetIssue core q) s = .next s' ∧ s'.issue = [] ∧ s'.blocks = s.blocks ∧
      ((s'.core core).quarters.get Quarter.reset q).lead = none)) ∧
  (∀ (l : Rdy) (r : List Rdy), ((packetOf l r).map (fun x => laneOf x.tid)).Pairwise (· ≠ ·) ∧ l ∈ packetOf l r ∧
    ∀ x ∈ packetOf l r, x = l ∨ (x ∈ r ∧ x.b.launch = l.b.launch ∧ x.t.nextAddr = l.t.nextAddr ∧ (x.t.mode = .trap ↔ l.t.mode = .trap))) ∧
  (∀ (s : State) (core q bid tid : Nat) (rest : List (Nat × Nat)) (bad : Bool),
    ((s.core core).quarters.get Quarter.reset q).queue = (bid, tid) :: rest → s.injCtl.getLsbD 0 = false →
    ∃ s', exec (.replayReexecute core q bad) s = .next s' ∧ ((s'.core core).quarters.get Quarter.reset q).queue = rest ∧
      s'.agenda = (if bad then [.ueConsumed bid 0x92#8 (coreIsland core)] else []) ++ s.agenda ∧ s'.blocks = s.blocks) ∧
  (∀ (s : State) (bid tid l pa : Nat) (b : Block) (t : Thread) (rest : List Nat), s.block? bid = some b → b.thread? tid = some t →
    b.phase = .resident → t.life = .live → s.waitsFetch bid tid = false →
    (distinct ((s.clauseOf b t).map (fun a => a.toNat / 128))).filter (fun l => (s.codeLine b (BitVec.ofNat 57 (128 * l))).isNone) = l :: rest →
    let p := s.translate (dieOf b.core) b.vf (128 * l) .fetch
    p.1 = .ok pa → p.2.near pa →
    let home := s.readMem (pa / 128 * 128) 128
    let old := ((s.core b.core).icOld.filter (fun x => x.isCode b l)).map (·.data)
    (∀ d ∈ old, d.length = 128) →
    ∃ s' d, exec (.clauseFetch bid tid) s = .next s' ∧ s'.blocks = s.blocks ∧ s'.mem = s.mem ∧
      s'.codeLine b (BitVec.ofNat 57 (128 * l)) = some { vf := b.vf, key := b.launch, line := l, ty := s.tag pa, data := d } ∧
      ∀ i, i < 16 → ∃ v ∈ home :: old, (d.drop (8 * i)).take 8 = (v.drop (8 * i)).take 8) ∧
  (∀ (s : State) (bid tid : Nat) (b : Block) (t : Thread), s.block? bid = some b → b.thread? tid = some t →
    b.phase ≠ .resident ∨ t.life ≠ .live ∨ s.waitsFetch bid tid = true → exec (.clauseFetch bid tid) s = .next s)

/-- R55, R58, R60, R158 and R359: a demoted thread is promoted 4096 cycles after its demotion; a thread parked at RJW or SLEEP whose count has run out goes
on alone; a thread asked to halt that can issue nothing for 1024 cycles waits in place. -/
def Sys2Proof.Machine.ThreadTimeouts : Prop :=
  ∀ (s : State) (bid tid : Nat) (b : Block) (t : Thread), s.block? bid = some b → b.thread? tid = some t →
    (t.mode = .demoted → t.spin.since + 4096 ≤ s.clkOf b.core → ∃ s', exec (.demotionTimeout bid tid) s = .next s' ∧
      s'.thread? bid tid = some { t with mode := .normal, spin := { t.spin with idle := 0, watched := [] } } ∧
      ∀ x y, (x, y) ≠ (bid, tid) → s'.thread? x y = s.thread? x y) ∧
    (t.mode = .normal ∨ s.clkOf b.core < t.spin.since + 4096 → exec (.demotionTimeout bid tid) s = .next s) ∧
    (∀ id e, t.park = .rjw id e 0 → ∃ s', exec (.rejoinTimeout bid tid) s = .next s' ∧
      s'.thread? bid tid = some { t with park := .running } ∧ ∀ x y, (x, y) ≠ (bid, tid) → s'.thread? x y = s.thread? x y) ∧
    (t.park = .sleep 0 → ∃ s', exec (.sleepExpire bid tid) s = .next s' ∧
      s'.thread? bid tid = some { t with park := .running } ∧ ∀ x y, (x, y) ≠ (bid, tid) → s'.thread? x y = s.thread? x y) ∧
    (∀ n, t.park = .sleep (n + 1) → ∃ s', exec (.sleepExpire bid tid) s = .next s' ∧ s'.thread? bid tid = some t) ∧
    (t.haltReq = true → t.still = false → s.canIssue b tid t = false → t.last + 1024 ≤ s.clkOf b.core → t.askedAt + 1024 ≤ s.clkOf b.core →
      ∃ s', exec (.haltWaitTimeout bid tid) s = .next s' ∧ s'.thread? bid tid = some { t with inPlace := true } ∧
        ∀ x y, (x, y) ≠ (bid, tid) → s'.thread? x y = s.thread? x y) ∧
    (t.haltReq = false ∨ t.still = true ∨ s.canIssue b tid t = true ∨ s.clkOf b.core < t.last + 1024 ∨ s.clkOf b.core < t.askedAt + 1024 →
      exec (.haltWaitTimeout bid tid) s = .next s)

/-- R50 to R52, R55, R58, R60, R75, R158, R337 and R359: what a quarter and its timeouts do. -/
def Obligations.QuarterEvents : Prop := QuarterCycle ∧ ThreadTimeouts

/-- R331, R335 and R340 to R344: an unpaired block that consumes an error goes back to its region start when it may, with the threads of that image, and
waits for another cluster; else its launch is killed. The copies of a paired block both go back to their restart point, on their
cores. A scratchpad error ends the block, which runs again from its start when its launch is idempotent. -/
def Obligations.ErrorsConsumed : Prop :=
  (∀ (s : State) (isl : Nat) (b x : Block) (l : Launch) (code : Byte), s.block? b.bid = some b → s.block? x.bid = some x → b.bid ≠ x.bid →
    b.partner = some x.bid → x.partner = some b.bid → b.trailing = false → x.trailing = true → s.launch? b.launch = some l →
    b.retries < l.retry → s.restartable b = true → (∀ e ∈ s.islErr, e.1 ≠ isl) → 1 < s.fenceAt →
    (∀ y, y = b ∨ y = x → y.killed = false ∧ y.phase = .resident ∧ y.errs = [] ∧ y.committing = [] ∧ s.calm y.bid ∧ s.noCommand y) →
    ∃ s', exec (.ueConsumed b.bid code isl) s = .next s' ∧ ∀ y, y = b ∨ y = x → ∃ y', s'.block? y.bid = some y' ∧ y'.phase = .resident ∧
      y'.core = y.core ∧ y'.retries = y.retries + 1 ∧ y'.sigs = [] ∧ y'.errs = [] ∧ (∀ e ∈ y'.share, e ∈ y.share ∧ e.wid < y.ckpt.mark) ∧
      ∀ i t, y.ckpt.threads[i]? = some t → ∃ t', y'.thread? i = some t' ∧ SameProgram t t') ∧
  ∀ (s : State) (bid isl : Nat) (b : Block) (code : Byte), s.block? bid = some b → b.killed = false → b.phase = .resident → b.partner = none →
    (∀ e ∈ s.islErr, e.1 ≠ isl) → 1 < s.fenceAt →
    (b.errs = [] → b.committing = [] → s.calm bid → s.restartable b = true → s.noCommand b →
      ∃ s' b' o, exec (.ueConsumed bid code isl) s = .next s' ∧ s'.block? bid = some b' ∧ b'.phase = .relaunch o ∧ b'.slots = [] ∧ b'.errs = [] ∧
        b'.lin = b.lin ∧ (∀ e ∈ b'.share, e ∈ b.share ∧ e.wid < b.image.mark) ∧
        ∀ i t, b.image.threads[i]? = some t → ∃ t', b'.thread? i = some t' ∧ SameProgram t t') ∧
    (b.errs = [] → b.committing = [] → s.calm bid → s.restartable b = false → (s.launch? b.launch).isSome = true →
      ∃ s' b', exec (.ueConsumed bid code isl) s = .next s' ∧ s'.block? bid = some b' ∧ b'.killed = true ∧ ∀ t ∈ b'.threads, t.life ≠ .live) ∧
    (b.shape.idem = false → ∃ s' b', exec (.scratchUe bid isl) s = .next s' ∧ s'.block? bid = some b' ∧ b'.killed = true ∧
      ∀ t ∈ b'.threads, t.life ≠ .live) ∧
    (b.shape.idem = true → ∃ s' b' n o, exec (.scratchUe bid isl) s = .next s' ∧ s'.block? bid = some b' ∧ b'.phase = .gone ∧ n ∈ s'.blocks ∧
      n.launch = b.launch ∧ n.lin = b.lin ∧ n.phase = .relaunch o ∧ n.killed = false ∧
      n.threads = (List.range b.shape.nthr).map (b.shape.thread b.lin))

/-- R349 to R352, R381, R385 and R394: a block that a slice's end or a reclaim reaches is flushed when it may be and else saved; one that a launch of
higher priority pushes out runs to its end, is flushed or saved; a quiesce saves; a save ends when the block's commits and commands
are done, with its rows and leaves the core; a launch whose watchdog has run out is killed, and the fault log says so. -/
def Obligations.Preemption : Prop :=
  (∀ (s : State) (bid : Nat) (b : Block), s.block? bid = some b → b.stoppable = true → b.partner = none →
    (s.sliceOver b.vf b.core = true → (∀ l ∈ s.launches, s.mustYield b l = false) → s.flushable b = true → b.committing = [] → s.noCommand b →
      ∃ s', exec (.preempt bid .slice) s = .next s' ∧ s'.HasPhase bid (fun p => ∃ o, p = .stopped o)) ∧
    (s.sliceOver b.vf b.core = true → (∀ l ∈ s.launches, s.mustYield b l = false) → s.flushable b = false →
      ∃ s', exec (.preempt bid .slice) s = .next s' ∧ s'.HasPhase bid (· = .saving 0)) ∧
    (s.sliceOver b.vf b.core = false → exec (.preempt bid .slice) s = .next s) ∧
    (s.borrows b = true → s.reclaims (clusterOf b.core) = true →
      ∃ s' b', exec (.preempt bid .reclaim) s = .next s' ∧ s'.block? bid = some b' ∧ b'.phase ≠ .resident ∧ b'.noLoan = true) ∧
    ((s.vf b.vf).migState = 1 ∨ s.coreUp b.core = false →
      ∃ s', exec (.preempt bid .quiesce) s = .next s' ∧ s'.HasPhase bid (· = .saving 0)) ∧
    (∀ l, s.launch? l.obj = some l → s.mustYield b l = false → exec (.preempt bid (.priority l.obj)) s = .next s) ∧
    (∀ l, s.launch? l.obj = some l → s.mustYield b l = true → s.priorityStop b l.shape.latb = .drain →
      ∃ s', exec (.preempt bid (.priority l.obj)) s = .next s' ∧ s'.block? bid = some { b with draining := some l.obj } ∧ s'.mem = s.mem) ∧
    (∀ l, s.launch? l.obj = some l → s.mustYield b l = true → s.priorityStop b l.shape.latb = .flush → b.committing = [] → s.noCommand b →
      ∃ s', exec (.preempt bid (.priority l.obj)) s = .next s' ∧ s'.HasPhase bid (fun p => ∃ o, p = .stopped o)) ∧
    (∀ l, s.launch? l.obj = some l → s.mustYield b l = true → s.priorityStop b l.shape.latb = .save →
      ∃ s', exec (.preempt bid (.priority l.obj)) s = .next s' ∧ s'.HasPhase bid (· = .saving 0))) ∧
  (∀ (s : State) (bid : Nat) (b : Block), s.block? bid = some b → b.phase = .saving 0 → b.partner = none → s.canSave b = true →
    (∀ c ∈ s.xq, c.bid ≠ bid) →
    ∃ s' b' o, exec (.blockSave bid) s = .next s' ∧ s'.block? bid = some b' ∧ b'.phase = .stopped o ∧ b'.slots = [] ∧
      b'.rowsSaved = s.heldRows b ∧ (∀ r ∈ (s'.core b.core).rows, r.2.1 ≠ bid) ∧ b'.threads = b.threads ∧ b'.scr = b.scr) ∧
  (∀ (s : State) (vf core : Nat), s.sliceOver vf core = true → ∃ s', exec (.sliceEnd vf core) s = .next s' ∧
    ∀ b, s.block? b.bid = some b → b.vf = vf → b.core = core → b.stoppable = true →
      ∃ b', s'.block? b.bid = some b' ∧ (b'.phase ≠ .resident ∨ b'.draining ≠ none)) ∧
  (∀ (s : State) (vf core : Nat), s.sliceOver vf core = false → exec (.sliceEnd vf core) s = .next s) ∧
  (∀ (s : State) (cl : Nat), s.reclaims cl = true → ∃ s', exec (.clusterReclaim cl) s = .next s' ∧
    ∀ b, s.block? b.bid = some b → clusterOf b.core = cl → s.borrows b = true → b.stoppable = true → s'.HasPhase b.bid (· ≠ .resident)) ∧
  (∀ (s : State) (l : Launch), s.launch? l.obj = some l → l.wdog ≠ 0 → 2 ^ l.wdog ≤ l.count →
    let v := s.vf l.vf
    ∃ s', exec (.watchdogExpire l.obj) s = .next s' ∧
      (∀ b, s.block? b.bid = some b → b.launch = l.obj → b.phase ≠ .gone → ∃ b', s'.block? b.bid = some b' ∧ b'.killed = true) ∧
      (v.flbase.getLsbD 0 = true → (v.fltail.toNat + 2 ^ 31 - v.flhead.toNat) % 2 ^ 31 ≠ ringSize v.flbase % 2 ^ 31 →
        (s'.vf l.vf).fltail = v.fltail + 1)) ∧
  (∀ (s : State) (l : Launch), s.launch? l.obj = some l → l.wdog = 0 ∨ l.count < 2 ^ l.wdog → exec (.watchdogExpire l.obj) s = .next s)

/-! ### Replies to faults, invalidation, and the debug agent (R238, R241, R247, R358 to R373) -/

/-- R238, R241, R247 and R412: a record answered with retry lets its accesses replay and its fetches go on; a load answered with fail ends with fault 0x12; an
invalidation keeps BUSY until nothing uses what it covers, and then the cached translations are gone; a CXL port that drops its link
loses its pending reads. -/
def Obligations.FaultReplies : Prop :=
  (∀ (s : State) (f : Nat) (seq : Word), s.ignores f seq = false → (s.oplog.map (fun o => o.id)).Nodup →
    ∃ s', exec (.fqrspRetry f seq) s = .next s' ∧ ∀ o ∈ s.attached f seq,
      (∀ op, o.waiter = .access op ∨ o.waiter = .place → ∃ o' ∈ s'.oplog, o'.id = o.id ∧ o'.acc = o.acc ∧ o'.replay = true) ∧
      (∀ b t, o.waiter = .fetch b t → o ∉ s'.oplog)) ∧
  (∀ (s : State) (f : Nat) (seq : Word), s.ignores f seq = true →
    exec (.fqrspRetry f seq) s = .next s ∧ exec (.fqrspFail f seq) s = .next s) ∧
  (∀ (s : State) (f op : Nat) (seq : Word) (o : OpEntry) (a : Acc) (b : Block) (t : Thread) (d : G) (ty : Ty) (n : VCnt) (x y : Bool),
    s.ignores f seq = false → s.attached f seq = [o] → o.waiter = .access op → o.acc = some a → a.kind = .load d ty n x y → a.eid = none → a.sig = none →
    s.block? a.bid = some b → b.partner = none → b.commits = [] → b.thread? a.tid = some t → t.fault = none →
    ∃ s' t', exec (.fqrspFail f seq) s = .next s' ∧ s'.thread? a.bid a.tid = some t' ∧
      t'.fault = some { code := 0x12#8, addr := a.addr, last := a.last, site := a.site } ∧ t'.flags = (t.endFlag a.flag).flags ∧
      SameProgram t t' ∧ (∀ p ∈ s'.oplog, p.id ≠ o.id) ∧ s'.mem = s.mem) ∧
  (∀ (s : State) (f : Nat) (va : Addr), (∃ s', exec (.tlbinvVa f va) s = .next s' ∧ (s'.vf f).busy = true ∧ (s'.vf f).inval = (s.vf f).inval ++ [some va] ∧
      (s'.vf f).tlb = (s.vf f).tlb) ∧
    (∃ s', exec (.tlbinvAll f) s = .next s' ∧ (s'.vf f).busy = true ∧ (s'.vf f).inval = (s.vf f).inval ++ [none])) ∧
  (∀ (s : State) (f : Nat), let v := s.vf f
    (v.busy = true → (∀ i ∈ v.inval, s.inFlight f i = false) → ∃ s', exec (.tlbinvDone f) s = .next s' ∧ (s'.vf f).busy = false ∧
      (s'.vf f).inval = [] ∧ (none ∈ v.inval → (s'.vf f).tlb = []) ∧ (∀ e ∈ (s'.vf f).tlb, e ∈ v.tlb) ∧
      ∀ a, some a ∈ v.inval → ∀ e ∈ (s'.vf f).tlb, a.toNat < e.va ∨ e.va + e.size ≤ a.toNat) ∧
    ((∃ i ∈ v.inval, s.inFlight f i = true) → exec (.tlbinvDone f) s = .next s)) ∧
  (∀ (s : State) (port : Nat), port < 4 → ∃ s', exec (.cxlLinkDown port) s = .next s' ∧ (s'.cxl.get 0 port).getLsbD 0 = false ∧
    ∀ p acc pa, p ∈ s.pend → p.acc = some acc → acc.kind.recKind = 0 → acc.pa = some pa → s.target pa = .cxl port →
      (s.block? acc.bid).isSome = true → p ∉ s'.pend) ∧
  (∀ (s : State) (port : Nat), 4 ≤ port → exec (.cxlLinkDown port) s = .next s)

/-- R358 to R363, R372 and R373: a match or a request stops its cluster once and fills the stop record with the lowest watchpoint that matched, every resident
thread is asked to halt, further matches only count, the record is complete when every thread stands still and then has an entry for
each gang that had a thread at the match, a resume lets all go on, and a step lets the halted threads of one gang go on. -/
def Obligations.DebugStops : Prop :=
  (∀ (s : State) (cl : Nat) (h : Hit) (hs : List Hit), (s.cluster cl).hits = hs → firstHit hs = some h →
    (h ∈ hs ∧ ∀ g ∈ hs, h.wp ≤ g.wp) ∧
    ((s.cluster cl).stop = false → ∃ s', exec (.watchpointMatch cl) s = .next s' ∧
      let c := s'.cluster cl
      c.stop = true ∧ c.recorded = false ∧ c.wp = BitVec.ofNat 4 h.wp ∧ c.kind = BitVec.ofNat 3 h.kind ∧ c.iblk = BitVec.ofNat 32 h.iblk ∧
      c.ictr = h.ictr ∧ c.ispo = h.ispo ∧ c.icore = BitVec.ofNat 9 h.core ∧ c.retd = h.ret ∧ c.nhit = min 255 (hs.length - 1) ∧ c.hits = [] ∧
      c.present = s.gangsAt cl ∧ s'.mem = s.mem ∧
      ∀ b ∈ s'.blocks, b.resident = true → clusterOf b.core = cl → ∀ t ∈ b.threads, t.halted = true ∨ t.haltReq = true) ∧
    ((s.cluster cl).stop = true → ∃ s', exec (.watchpointMatch cl) s = .next s' ∧ s'.blocks = s.blocks ∧
      (s'.cluster cl).nhit = min 255 ((s.cluster cl).nhit + hs.length) ∧ (s'.cluster cl).wp = (s.cluster cl).wp ∧
      (s'.cluster cl).hits = [])) ∧
  (∀ (s : State) (cl : Nat), cl < 96 → (s.cluster cl).stop = false → ∃ s', exec (.stopRequest cl) s = .next s' ∧ (s'.cluster cl).stop = true ∧
    (s'.cluster cl).wp = 15#4 ∧ (s'.cluster cl).kind = 7#3 ∧
    ∀ b ∈ s'.blocks, b.resident = true → clusterOf b.core = cl → ∀ t ∈ b.threads, t.halted = true ∨ t.haltReq = true) ∧
  (∀ (s : State) (cl : Nat), (s.cluster cl).stop = true → (s.cluster cl).recorded = false →
    (∀ b ∈ s.blocks, b.resident = true → clusterOf b.core = cl → ∀ t ∈ b.threads, t.still = true) →
    ∃ s', exec (.stopRecordDone cl) s = .next s' ∧ s'.blocks = s.blocks ∧
      let c := s'.cluster cl
      c.recorded = true ∧ c.gangs.length = c.ngang ∧
      c.listed.Perm ((s.cluster cl).present ++ (s.gangsAt cl).filter (fun x => !(s.cluster cl).present.contains x)) ∧
      c.listed.Pairwise (fun x y => GangAt.before x y = true) ∧
      ∀ (i : Nat) (x : GangAt), c.listed[i]? = some x → c.gangs[i]? = some (i, gangEntry x (s.liveAt x))) ∧
  (∀ (s : State) (cl : Nat), (s.cluster cl).stop = false ∨ (s.cluster cl).recorded = true ∨
      (∃ b ∈ s.blocks, b.resident = true ∧ clusterOf b.core = cl ∧ ∃ t ∈ b.threads, t.still = false) →
    exec (.stopRecordDone cl) s = .next s) ∧
  (∀ (s : State) (cl : Nat), (s.cluster cl).stop = true → ∃ s', exec (.debugResume cl) s = .next s' ∧ (s'.cluster cl).stop = false ∧
    (s'.cluster cl).stepping = none ∧
    ∀ b ∈ s'.blocks, b.resident = true → clusterOf b.core = cl → ∀ t ∈ b.threads, t.halted = false ∧ t.haltReq = false) ∧
  (∀ (s : State) (cl : Nat) (v : DWord) (b : Block), cl < 96 → v.getLsbD 15 = true → (s.cluster cl).stop = true → (s.cluster cl).stepping = none →
    s.atIndex (4 * cl + bitsOf v 11 10) (bitsOf v 9 5) = some b → s.block? b.bid = some b → bitsOf v 4 0 < b.shape.gangs →
    let g := bitsOf v 4 0
    let runs (l : Nat) (t : Thread) : Prop := l < 32 ∧ b.thread? (32 * g + l) = some t ∧ t.halted = true ∧ t.park = .running ∧ t.life = .live
    ∃ s', exec (.debugStep cl v) s = .next s' ∧ (s'.cluster cl).stepReg = v &&& 0xFFF#64 ∧
      (∀ l t, runs l t → ∃ t', s'.thread? b.bid (32 * g + l) = some t' ∧ t'.halted = false ∧ t'.haltReq = true ∧ SameProgram t t') ∧
      ((∃ l t, runs l t) → (s'.cluster cl).stepping = some (b.bid, g)) ∧ s'.mem = s.mem)

/-- R41 and R366 to R372: DBG.KILL kills a thread of a stopped cluster; the shadow port reads a thread's registers with their types, and writes them
while the thread is halted and no step runs; a write that is discarded sets WREJ. -/
def Obligations.DebugAccess : Prop :=
  ∀ (s : State) (cl : Nat) (v : DWord) (b : Block) (tid : Nat) (t : Thread), cl < 96 → s.block? b.bid = some b → b.thread? tid = some t →
    let c := s.cluster cl
    let i := shIdx c.shsel
    (v.getLsbD 15 = true → c.stop = true → s.inSlot (4 * cl + bitsOf v 11 10) (bitsOf v 9 8) (bitsOf v 7 3) (bitsOf v 2 0) = some (b, tid, t) →
      ∃ s' t', exec (.debugKill cl v) s = .next s' ∧ s'.thread? b.bid tid = some t' ∧ t'.life = .killed ∧ t'.regs = t.regs ∧
        (b.bid, tid) ∉ s'.issue ∧ (s'.cluster cl).killReg = v &&& 0xFFF#64 ∧ s'.mem = s.mem) ∧
    (v.getLsbD 15 = false ∨ c.stop = false → ∃ s', exec (.debugKill cl v) s = .next s' ∧ s'.blocks = s.blocks) ∧
    (s.selected cl = some (b, tid, t) → ∃ s', exec (.shadowRead cl) s = .next s' ∧ s'.blocks = s.blocks ∧
      (s'.cluster cl).shst.getLsbD 0 = true ∧ (s'.cluster cl).shst.getLsbD 2 = t.halted ∧
      (shCls c.shsel = 0 → ∀ r, t.regs[i]? = some r →
        (s'.cluster cl).shdata = r.val.setWidth 64 ∧ ((s'.cluster cl).shst.getLsbD 1 = true ↔ r.ty = .A)) ∧
      (shCls c.shsel = 6 → i = 0 → (s'.cluster cl).shdata = t.genX) ∧
      (shCls c.shsel = 2 → (s'.cluster cl).shdata = BitVec.ofNat 64 (t.flags.getD i 0))) ∧
    (s.selected cl = none → ∃ s', exec (.shadowRead cl) s = .next s' ∧ (s'.cluster cl).shdata = 0 ∧ (s'.cluster cl).shst.getLsbD 0 = false) ∧
    (s.selected cl = some (b, tid, t) → t.halted = true → c.stop = true → c.stepping = none → ∃ s', exec (.shadowWrite cl v) s = .next s' ∧
      (s'.cluster cl).shdata = v ∧
      (shCls c.shsel = 0 → i < t.regs.length → (s'.cluster cl).shst.getLsbD 3 = false ∧
        s'.thread? b.bid tid = some { t with regs := t.regs.set i ⟨v.setWidth 32, if c.shsel.getLsbD 27 then .A else .P⟩ }) ∧
      (shCls c.shsel = 1 → i < 7 → s'.thread? b.bid tid = some { t with preds := t.preds.set i ⟨v.getLsbD 0, if c.shsel.getLsbD 27 then .A else .P⟩ }) ∧
      (shCls c.shsel = 2 → (s'.cluster cl).shst.getLsbD 3 = true ∧ s'.blocks = s.blocks)) ∧
    (s.selected cl = some (b, tid, t) → t.halted = false ∨ c.stop = false ∨ c.stepping ≠ none →
      ∃ s', exec (.shadowWrite cl v) s = .next s' ∧ s'.blocks = s.blocks ∧ (s'.cluster cl).shst.getLsbD 3 = true)


/-! ### Management, migration and links (R353, R374 to R426) -/

namespace Sys2Proof.Machine

/-- A call that waits in a mailbox (R415): GO is set, no reserved field is, and its target is below the range. -/
def Mailbox.Waits (m : Mailbox) (code range : Nat) : Prop := m.go = true ∧ m.code = code ∧ m.reserved = false ∧ m.target < range

/-- A mailbox after its call: GO reads 0, STATUS is st, the results stand from RES0 on, the argument is kept (R415). -/
def Answered (m m' : Mailbox) (st : Nat) (res : List DWord) : Prop :=
  m'.call.getLsbD 8 = false ∧ m'.call.toNat % 256 = st ∧ m'.arg = m.arg ∧ ∀ i x, i < 8 → res[i]? = some x → m'.res[i]? = some x

/-- State s' is s but for the monitor's mailbox. -/
def OnlyMon (m1 : Bool) (s s' : State) : Prop := s' = s.setMon m1 (s'.mon m1)

/-- State s' is s but for the firmware's mailbox. -/
def OnlyFw (s s' : State) : Prop := s' = { s with fwBox := s'.fwBox }

/-- A monitor call of code with targets below range, where it waits: what each argument and target give, as E says of the call's answer. -/
def MonCall (s : State) (m1 : Bool) (e : Instr) (code range : Nat) (E : (d : Nat) → (v : DWord) → (st : Nat) → List DWord → State → Prop) : Prop :=
  let m := s.mon m1
  (m.go = false ∨ m.code ≠ code → exec e s = .next s) ∧
  (m.go = true → m.code = code → m.reserved = true ∨ range ≤ m.target →
    ∃ s', exec e s = .next s' ∧ Answered m (s'.mon m1) 3 [] ∧ OnlyMon m1 s s') ∧
  (m.Waits code range → ∃ s' st res, exec e s = .next s' ∧ Answered m (s'.mon m1) st res ∧ E m.target m.arg st res s')

/-- As MonCall, for a firmware call. -/
def FwCall (s : State) (e : Instr) (code range : Nat) (E : (d : Nat) → (v : DWord) → (st : Nat) → List DWord → State → Prop) : Prop :=
  let m := s.fwBox
  (m.go = false ∨ m.code ≠ code → exec e s = .next s) ∧
  (m.go = true → m.code = code → m.reserved = true ∨ range ≤ m.target →
    ∃ s', exec e s = .next s' ∧ Answered m s'.fwBox 3 [] ∧ OnlyFw s s') ∧
  (m.Waits code range → ∃ s' st res, exec e s = .next s' ∧ Answered m s'.fwBox st res ∧ E m.target m.arg st res s')

/-- A block of function f is resident. -/
def State.holds (s : State) (f : Nat) : Prop := ∃ b ∈ s.blocks, b.vf = f ∧ b.resident = true

end Sys2Proof.Machine

/-- R353, R382, R383, R413, R415, R420 to R422: the monitor's calls, whenever they wait in a mailbox. SETDIE and SETVF wait for no block to run,
SETFW takes OPEN only when it names the dies of the partition, INJ starts its stream when EN is set, MEASURE gives the running bank's
words, BANK selects the verified bank, PRESET ends the partition's work, tells the host of a job that it ended, and clears the
partition's memory; a reserved field or a target out of range is answered with status 3. -/
def Sys2Proof.Machine.MonitorCalls : Prop :=
  ∀ (s : State) (m1 : Bool),
    MonCall s m1 (.setdie m1) 0x01 8 (fun d v st _ s' =>
      (16 ≤ v.toNat → st = 3 ∧ OnlyMon m1 s s') ∧
      (v.toNat < 16 → s.runsOn d = true → st = 2 ∧ OnlyMon m1 s s') ∧
      (v.toNat < 16 → s.runsOn d = false → st = 0 ∧ (s'.die d).reg = v ∧
        (∀ e, e < 8 → s'.partOf e = v.toNat % 8 → (s'.die e).reg.getLsbD 3 = v.getLsbD 3) ∧ (∀ e, e ≠ d → s'.partOf e = s.partOf e) ∧
        (v.toNat % 8 ≠ s.partOf d → s.tripped.contains (v.toNat % 8) = false → s'.partup.getLsbD (v.toNat % 8) = true) ∧
        (v.toNat % 8 ≠ s.partOf d → (∀ e, e < 8 → e ≠ d → s.partOf e ≠ s.partOf d) → s'.partup.getLsbD (s.partOf d) = false))) ∧
    MonCall s m1 (.setvf m1) 0x02 96 (fun d v st _ s' =>
      (8 ≤ v.toNat → st = 3 ∧ OnlyMon m1 s s') ∧
      (v.toNat < 8 → s.holds d ∨ s.activeCount d ≠ 0 → st = 2 ∧ OnlyMon m1 s s') ∧
      (v.toNat < 8 → ¬ s.holds d → s.activeCount d = 0 → st = 0 ∧ (s'.vf d).part = v ∧ ∀ f, f ≠ d → s'.vf f = s.vf f)) ∧
    MonCall s m1 (.setfw m1) 0x03 8 (fun d v st _ s' =>
      let names := ∀ e, e < 8 → (v.getLsbD e = true ↔ s.partOf e = s.partOf d)
      (¬ names → st = 3 ∧ OnlyMon m1 s s') ∧
      (names → st = 0 ∧ (∀ e, e ≠ d → s'.die e = s.die e) ∧ ∀ i, i < 8 → ((s'.die d).fw.getLsbD i = v.getLsbD i) ∧
        ((s'.die d).fw.getLsbD (8 + i) = ((s.die d).fw.getLsbD (8 + i) && !v.getLsbD (8 + i))))) ∧
    MonCall s m1 (.inj m1) 0x04 2 (fun d v st _ s' =>
      (d = 1 → st = 0 ∧ s'.injSeed = v ∧ s'.injCtl = s.injCtl) ∧
      (d = 0 → s.namesTest v = false → st = 1 ∧ OnlyMon m1 s s') ∧
      (d = 0 → s.namesTest v = true → st = 0 ∧ s'.injCtl = v &&& 0xFFFFFFF8FFFF0003#64 ∧ s'.injSeed = s.injSeed ∧
        (v.getLsbD 0 = true → s.injCtl.getLsbD 0 = false → s'.injCount = 0 ∧ (s'.injX, s'.injY) = rngSeed s.injSeed 0))) ∧
    MonCall s m1 (.measure m1) 0x05 65536 (fun _ _ st res s' =>
      st = 0 ∧ res = (List.range 6).map (fun i => (Config.measurement s.bankRun).extractLsb' (64 * i) 64) ∧ OnlyMon m1 s s') ∧
    MonCall s m1 (.bank m1) 0x06 1 (fun _ _ st _ s' =>
      (s.ready = false → st = 2 ∧ OnlyMon m1 s s') ∧
      (s.ready = true → s'.bankRun = s.bankRun ∧
        (Config.bankVerifies s.free (!s.bankRun) = true → st = 0 ∧ s'.bankSel = !s.bankRun) ∧
        (Config.bankVerifies s.free (!s.bankRun) = false → st = 1 ∧ s'.bankSel = s.bankSel))) ∧
    MonCall s m1 (.preset m1) 0x07 8 (fun d _ st _ s' =>
      (s.diesOf d = [] → st = 3 ∧ OnlyMon m1 s s') ∧
      (s.diesOf d ≠ [] → st = 0 ∧
        (∀ b ∈ s'.blocks, b.vf < 96 → s.vfPart b.vf ≠ d) ∧ (∀ j ∈ s'.jobs, j.vf < 96 → s.vfPart j.vf ≠ d) ∧
        (∀ l ∈ s'.launches, l.vf < 96 → s.vfPart l.vf ≠ d) ∧ (∀ c ∈ s'.counters, c.vf < 96 → s.vfPart c.vf ≠ d) ∧
        (∀ a, s.inStacks d a = true → readByte s'.mem a = 0 ∧ s'.tag a = .P) ∧ s'.partup.getLsbD d = true ∧
        s'.tripped.contains d = false ∧ (∀ e, s'.partOf e = s.partOf e) ∧
        ∀ (j : Job) (va : Nat) (q : List (Nat × Nat)), s.jobs.filter (fun x => (s.vfsOf d).contains x.vf) = [j] → j.active = true →
          j.donew = some va → va % 8 = 0 → ((s.setUp d false).dispLines j.vf va 8 true).1 = .ok q →
          let pa := physLine q (va / 128) * 128 + va % 128
          s.inStacks d pa = false → s.near pa → Safe s →
          readBytes s'.mem pa 8 = bytesOf 8 (j.tag.toNat * 2 ^ 32 + 2) ∧ (s'.vf j.vf).isr.getLsbD 0 = true))

/-- R380, R384, R415 and R419: the firmware's calls, whenever they wait in the mailbox. SETQOS refuses a weight of 0, SETOWN a function outside the
cluster's partition, EVREAD an entry that is not there; EVCOUNT gives the count and the last time. -/
def Sys2Proof.Machine.FirmwareCalls : Prop :=
  ∀ (s : State),
    FwCall s .setqos 0x10 96 (fun d v st _ s' =>
      (v.toNat % 16 = 0 → st = 3 ∧ OnlyFw s s') ∧
      (v.toNat % 16 ≠ 0 → st = 0 ∧ (s'.vf d).qos = v &&& 0xFFFF070F#64 ∧ (s'.vf d).age = (s.vf d).age ∧ ∀ f, f ≠ d → s'.vf f = s.vf f)) ∧
    FwCall s .setown 0x11 96 (fun d v st _ s' =>
      let fits := v.toNat % 128 < 96 ∧ s.vfPart (v.toNat % 128) = s.partOf (d / 12)
      (¬ fits → st = 3 ∧ OnlyFw s s') ∧
      (fits → st = 0 ∧ (s'.cluster d).clown = v &&& 0x1FF#64 ∧ s'.blocks = s.blocks ∧ ∀ c, c ≠ d → s'.cluster c = s.cluster c)) ∧
    FwCall s .evread 0x12 65536 (fun _ v st res s' => OnlyFw s s' ∧
      (∀ r, s.evlog[v.toNat]? = some r → st = 0 ∧
        res = r.time :: (Config.eventHead r.code r.island r.part).1 :: (Config.eventHead r.code r.island r.part).2 :: r.detail) ∧
      (s.evlog.length ≤ v.toNat → st = 3)) ∧
    FwCall s .evcount 0x13 65536 (fun _ _ st res s' => OnlyFw s s' ∧ st = 0 ∧
      res = [BitVec.ofNat 64 s.evlog.length, (s.evlog.getLast?.map (·.time)).getD 0])

/-- R353, R380, R382 to R384, R413, R415 and R419 to R422: the calls of the monitor and of the firmware. -/
def Obligations.ManagementCalls : Prop := MonitorCalls ∧ FirmwareCalls

/-- R374, R375, R404, R416 to R418, R420 and R423: a register write changes what it names as its access says; a die's latch writes one record and starts its
counters again; an island that trips kills what runs in its partition; a module reset brings the package up with nothing left of its
work and its memory. -/
def Obligations.PackageEvents : Prop :=
  (∀ (s : State) (f : Nat) (v : DWord), f < 96 →
    (∃ s', exec (.registerWrite (.vf f) 0x048 v) s = .next s' ∧ (s'.vf f).xvec = v &&& 0x01FFFFFFFFFFFFF9#64 ∧ s'.blocks = s.blocks ∧ s'.mem = s.mem) ∧
    (∃ s', exec (.registerWrite (.vf f) 0x088 v) s = .next s' ∧ ∀ i, i < 4 → (s'.vf f).isr.getLsbD i = ((s.vf f).isr.getLsbD i && !v.getLsbD i)) ∧
    (20 ≤ v.toNat % 64 → v.toNat % 64 ≤ 40 → ∃ s', exec (.registerWrite (.vf f) 0x050 v) s = .next s' ∧ (s'.vf f).wdog = v.toNat % 64) ∧
    (0 < v.toNat % 64 → v.toNat % 64 < 20 → exec (.registerWrite (.vf f) 0x050 v) s = .next s) ∧
    (∃ s', exec (.registerWrite (.vf f) 0x010 v) s = .next s' ∧ (s'.vf f).ptroot = v &&& 0x000FFFFFFFFFF001#64 ∧ s'.blocks = s.blocks) ∧
    (∃ s', exec (.registerWrite (.vf f) 0x068 v) s = .next s' ∧ (s'.vf f).xbkt = v &&& 0x00FFFFFF0000FFFF#64 ∧ s'.blocks = s.blocks) ∧
    (ringTakes v = true → ∃ s', exec (.registerWrite (.vf f) 0x038 v) s = .next s' ∧ (s'.vf f).flbase = v) ∧
    (ringTakes v = false → exec (.registerWrite (.vf f) 0x038 v) s = .next s) ∧
    exec (.registerWrite (.vf f) 0x000 v) s = exec (.submit f v) s ∧
    (∀ off page, off % 8 ≠ 0 → exec (.registerWrite page off v) s = .next s)) ∧
  (∀ (s : State) (die : Nat), 8 ≤ die ∨ s.tsCtl.getLsbD 0 = false ∨ s.refClk ≠ (s.die die).tsNext → exec (.tsLatch die) s = .next s) ∧
  (∀ (s : State) (die : Nat), die < 8 → s.tsCtl.getLsbD 0 = true → (s.die die).tsNext = s.refClk →
    let d := s.die die
    let n := ringSize d.tsRing
    let full := (d.tsTail.toNat + 2 ^ 31 - d.tsHead.toNat) % 2 ^ 31 = n
    ∃ s', exec (.tsLatch die) s = .next s' ∧ (s'.die die).tsTail = d.tsTail + 1 ∧ (s'.die die).counts = [] ∧
      (s'.die die).tsNext = d.tsNext + 2 ^ bitsOf s.tsCtl 12 8 ∧ (s'.die die).tsLost = (d.tsLost || decide full) ∧ (full → s'.mem = s.mem) ∧
      (¬ full →
        ∃ r, s'.mem = writeBytes s.mem (ringBase d.tsRing + 2048 * (d.tsTail.toNat % n)) r ∧ r.length = 1792 ∧
          r.take 32 = bytesOf 8 d.tsNext ++ bytesOf 4 d.tsTail.toNat ++ bytesOf 1 die ++ bytesOf 1 (bitsOf s.tsCtl 12 8) ++ bytesOf 18 0 ∧
          ∀ k, k < 440 →
            ((∃ i ∈ keyIslands die k, i ∈ s.islFence) → (r.drop (32 + 4 * k)).take 4 = bytesOf 4 0) ∧
            ((∀ i ∈ keyIslands die k, i ∉ s.islFence) → counted k = true → ¬ (k < 384 ∧ k % 8 = 7) →
              (r.drop (32 + 4 * k)).take 4 = bytesOf 4 (d.counts.get 0 k)))) ∧
  (∀ (s : State) (isl : Nat), isl < 1024 →
    (∃ s', exec (.sensorReport isl true false) s = .next s' ∧ isl ∈ s'.islThrottle ∧ (∀ c ∈ islandCores isl, (s'.core c).throttled = true) ∧
      s'.blocks = s.blocks) ∧
    (isl < 992 → ∃ s', exec (.sensorReport isl false true) s = .next s' ∧ s'.tripped.contains (s.partOf (isl / 124)) = true ∧
      s'.partup.getLsbD (s.partOf (isl / 124)) = false ∧
      ∀ b, s.block? b.bid = some b → b.resident = true → s.partOf (dieOf b.core) = s.partOf (isl / 124) → (s.launch? b.launch).isSome = true →
        ∃ b', s'.block? b.bid = some b' ∧ b'.killed = true)) ∧
  (∀ s : State, Config.bankVerifies s.free s.bankSel = true → s.bootFails < 3 → Config.bootsReady (s.resets + 1) s.bankSel = true →
    ∃ s', exec .moduleReset s = .next s' ∧ s'.ready = true ∧ s'.bringup = 6 ∧ s'.partup = 1#8 ∧ s'.bankRun = s.bankSel ∧ s'.bootFails = 0 ∧
      s'.blocks = [] ∧ s'.jobs = [] ∧ s'.launches = [] ∧ s'.counters = [] ∧ s'.vfs = [] ∧ s'.cores = [] ∧ s'.clusters = [] ∧ s'.dies = [] ∧
      ∀ a, a / 2 ^ 50 % 4 = 0 → readByte s'.mem a = 0 ∧ s'.tag a = .P)

/-- R393 to R395, R399 and R400: a source saves its function's blocks and is ready to send; a target is armed and takes the state that arrives as stopped
blocks; forwarding ends with the pages' place remembered. -/
def Obligations.Migration : Prop :=
  ∀ (s : State) (f : Nat) (peer : BitVec 12) (sweep : Bool), f < 96 →
    ((s.vf f).migState = 0 → ∃ s', exec (.migrateSend f peer sweep) s = .next s' ∧ (s'.vf f).migState = 1 ∧ (s'.vf f).peer = peer ∧
      (s'.vf f).sweep = sweep ∧ (s'.vf f).isr.getLsbD 3 = true ∧
      ∀ b, s.block? b.bid = some b → b.vf = f → b.stoppable = true → s'.HasPhase b.bid (· = .saving 0)) ∧
    ((s.vf f).migState = 0 → (∀ b ∈ s.blocks, b.vf = f → b.resident = false) → ∃ s', exec (.migrateReceive f peer sweep) s = .next s' ∧
      (s'.vf f).armed = true ∧ (s'.vf f).peer = peer ∧ (s'.vf f).sweep = sweep ∧ (s'.vf f).migState = 0 ∧ s'.blocks = s.blocks) ∧
    ((s.vf f).migState ≠ 0 → exec (.migrateSend f peer sweep) s = .next s ∧ exec (.migrateReceive f peer sweep) s = .next s) ∧
    ((s.vf f).migState = 3 → ∃ s', exec (.endForwarding f) s = .next s' ∧ (s'.vf f).migState = 0 ∧ (s'.vf f).moved = some (s.vf f).peer ∧
      (s'.vf f).isr.getLsbD 3 = true ∧ s'.blocks = s.blocks) ∧
    ((s.vf f).migState ≠ 3 → exec (.endForwarding f) s = .next s) ∧
    (∀ v : DWord, v.toNat % 16 = 3 → (s.vf f).migState = 3 → ∃ s', exec (.registerWrite (.vf f) 0x080 v) s = .next s' ∧ (s'.vf f).migState = 0 ∧
      (s'.vf f).moved = some (s.vf f).peer ∧ (s'.vf f).peer = v.extractLsb' 36 12 ∧ (s'.vf f).sweep = v.getLsbD 8 ∧ (s'.vf f).isr.getLsbD 3 = true ∧
      s'.blocks = s.blocks) ∧
    (∀ v : DWord, v.toNat % 16 = 3 → (s.vf f).migState ≠ 3 → exec (.registerWrite (.vf f) 0x080 v) s = .next s) ∧
    (∀ i e, s.inbox[i]? = some e → (s.vf f).armed = true → (∀ o ∈ e.oplog, ∀ r va, o.waiter ≠ .disp r va) → ∃ s', exec (.executionStateArrival f i) s = .next s' ∧
      ((s'.vf f).migState = 4 ∨ (s'.vf f).migState = 5) ∧ (s'.vf f).armed = false ∧ (s'.vf f).xvec = e.regs.xvec ∧ s'.inbox = s.inbox.eraseIdx i ∧
      s'.blocks = s.blocks ++ e.blocks.map (fun (b : Block) => { b with vf := f, phase := match b.phase with | .relaunch o => .stopped o | p => p }) ∧
      (∀ c ∈ e.counters, ∃ c' ∈ s'.counters, c'.vf = f ∧ c'.level = c.level ∧ c'.num = c.num ∧ c'.value = c.value) ∧
      s'.launches = s.launches ++ e.launches.map (fun (l : Launch) => { l with vf := f })) ∧
    ((s.vf f).armed = false → ∀ i, exec (.executionStateArrival f i) s = .next s)

/-- R396 to R398, R400 to R403, R406 and R407: a page is pulled by a request to its source, which marks it as being transferred, then gives its bytes and marks it
gone, and the reply puts them in the target's frame; a request of another package is served through an export window; a response ends
what waited for it; the host writes device memory. -/
def Obligations.PagesAndLinks : Prop :=
  (∀ (s : State) (f : Nat) (va : Addr) (p : Nat × Nat × Nat), s.pteAt f va.toNat = some p →
    let v := s.vf f
    let n := levelSize p.2.1
    let lo := va.toNat - va.toNat % n
    (v.migState = 4 → pteOwn p.2.2 = 1 → s.cut.contains v.peer = false → s.pulling f lo = false → s.pageRecords f lo n ≠ [] →
      ∃ s' m, exec (.pagePull f va) s = .next s' ∧ s'.sent = s.sent ++ [m] ∧ m.op = opPull ∧ m.dst = v.peer ∧ m.resp = false ∧
        m.addr = BitVec.ofNat 64 lo ∧ s'.pulling f lo = true ∧ s'.mem = s.mem) ∧
    (∀ (peer : BitVec 12) (tag : BitVec 16) (l : Nat),
      let x : Pull := { vf := f, va := va, level := l, from_ := peer, tag := tag }
      let o := exec (.pullRequest f va l peer tag) s
      let bare := p.2.2 - pteOwn p.2.2 * 2 ^ 54
      s.cut.contains peer = false →
      (x ∉ s.pulls → v.migState = 3 → v.peer = peer → pteOwn p.2.2 = 0 → ∃ s', o = .next s' ∧ s'.pulls = x :: s.pulls ∧ s'.sent = s.sent ∧
        s'.mem = writeBytes s.mem p.1 (bytesOf 8 (bare + 2 * 2 ^ 54))) ∧
      (x ∈ s.pulls → l = p.2.1 → va.toNat % n = 0 → ∃ s' m, o = .next s' ∧ x ∉ s'.pulls ∧ s'.sent = s.sent ++ [m] ∧ m.resp = true ∧ m.stat = 0 ∧
        m.tag = tag ∧ m.dst = peer ∧ m.data = s.readMem (pteFrame p.2.2) n ++ s.lineMarks (pteFrame p.2.2) n ∧
        s'.mem = writeBytes s.mem p.1 (bytesOf 8 (bare + 3 * 2 ^ 54))) ∧
      (x ∉ s.pulls → v.migState ≠ 3 ∨ v.peer ≠ peer ∨ pteOwn p.2.2 = 1 ∨ pteOwn p.2.2 = 3 →
        ∃ s' m, o = .next s' ∧ s'.sent = s.sent ++ [m] ∧ m.resp = true ∧ m.stat = 3 ∧ s'.mem = s.mem)) ∧
    (∀ (data : List Byte) (al : List Bool) (po : List Nat), s.pulling f va.toNat = true → s.cut.contains v.peer = false →
      s.pageRecords f va.toNat n = [] →
      ∃ s', exec (.pullReply f va true data al po) s = .next s' ∧ s'.pulling f va.toNat = false ∧
        s'.mem = writeBytes (writeBytes s.mem (pteFrame p.2.2) ((List.range n).map (fun i => data.getD i 0))) p.1
          (bytesOf 8 (p.2.2 - pteOwn p.2.2 * 2 ^ 54)))) ∧
  (∀ (s : State) (m : Msg), m.resp = false → m.dst = s.pkg → s.cut.contains m.src = false → m.op = opLoad ∨ m.op = opStore →
    let o := m.addr.toNat
    (s.windows.get none (o / 2 ^ 32) = none → ∃ s' r, exec (.damaskAccess m) s = .next s' ∧ s'.sent = s.sent ++ [r] ∧ r.resp = true ∧ r.stat = 2 ∧
      r.tag = m.tag ∧ r.dst = m.src ∧ s'.mem = s.mem) ∧
    (∀ f base peer, s.windows.get none (o / 2 ^ 32) = some (f, base) → (s.vf f).moved = some peer →
      ∃ s' r, exec (.damaskAccess m) s = .next s' ∧ s'.sent = s.sent ++ [r] ∧ r.stat = 1 ∧ r.peer = peer ∧ r.tag = m.tag) ∧
    (∀ f base e, s.windows.get none (o / 2 ^ 32) = some (f, base) → (s.vf f).moved = none →
      let va := (base + o % 2 ^ 32) % 2 ^ 57
      let q := s.leafOf ioDie f va
      let pa := e.pa + va % e.size
      (q.1 = .ok e → e.own = 3 → ∃ s' r, exec (.damaskAccess m) s = .next s' ∧ s'.sent = s.sent ++ [r] ∧ r.resp = true ∧ r.stat = 1 ∧
        r.peer = (s.vf f).peer ∧ r.tag = m.tag ∧ s'.mem = s.mem) ∧
      (q.1 = .ok e → e.own = 2 → exec (.damaskAccess m) s = .next s) ∧
      (q.1 = .ok e → e.own = 0 → (q.2.reach ioDie pa).1 = true → s.near pa →
      (m.op = opLoad → m.data = [] → ∃ s' r, exec (.damaskAccess m) s = .next s' ∧ s'.sent = s.sent ++ [r] ∧ r.resp = true ∧ r.stat = 0 ∧ r.tag = m.tag ∧
        r.dst = m.src ∧ r.data = s.readMem (pa / 128 * 128) 128 ∧ (r.aTag = true ↔ s.tag pa = .A) ∧ s'.mem = s.mem) ∧
      (m.op = opStore → e.w = true → (m.aTag = true ↔ s.tag pa = .A) → m.data.length = 8 → pa % 8 = 0 → ∃ s' r, exec (.damaskAccess m) s = .next s' ∧
        s'.sent = s.sent ++ [r] ∧ r.resp = true ∧ r.stat = 0 ∧ s'.mem = writeBytes s.mem pa m.data)))) ∧
  (∀ (s : State) (m : Msg) (w : Awaited) (op : Nat) (o : OpEntry) (acc : Acc) (d : G) (t : Ty) (n : VCnt) (x y : Bool), m.resp = true → m.dst = s.pkg →
    s.cut.contains m.src = false → s.awaits.find? (fun a => a.tag == m.tag && a.peer == m.src) = some w → w.what = .access op →
    s.oplog.find? (fun e => e.id == op) = some o → o.acc = some acc → (s.block? acc.bid).isSome = true → acc.kind = .load d t n x y → m.stat = 0 →
    (m.aTag = true ↔ acc.lt = .A) → acc.homed = false →
    ∃ s' q, exec (.damaskResponse m) s = .next s' ∧ s'.pend = s.pend ++ [q] ∧ q.id = acc.wid ∧ q.bid = acc.bid ∧ q.tid = acc.tid ∧
      q.kind = .load d t n acc.lt (acc.overlay ((m.data.drop (acc.a % 128)).take acc.n)) acc ∧ (∀ e ∈ s'.oplog, e.id ≠ op) ∧ w ∉ s'.awaits ∧
      s'.mem = s.mem) ∧
  (∀ (s : State) (peer : BitVec 12), (∃ s', exec (.damaskPartition peer false) s = .next s' ∧ s'.cut.contains peer = true) ∧
    (∃ s', exec (.damaskPartition peer true) s = .next s' ∧ s'.cut.contains peer = false ∧ ∀ p, p ≠ peer → s'.cut.contains p = s.cut.contains p)) ∧
  (∀ (s : State) (pa n : Nat) (bs : List Byte), bs ≠ [] → pa + bs.length ≤ 2 ^ 40 →
    (∃ s', exec (.hostMemAccess pa (some bs) n) s = .next s' ∧ s'.mem = writeBytes s.mem pa bs) ∧
    exec (.hostMemAccess pa none n) s = .next s)


/-! ### The whole machine: storage, encodings, the step, reset (R5, R71 to R78, R104 to R107, R320) -/

/-- R5, R77, R107, R288: what is written is what is read: a register or predicate gives its last value, gz reads 0 and p7 true whatever is written to them, a
pair is two registers, low half first, and memory gives back the bytes stored and keeps every other byte and its canonical form. -/
def Obligations.StorageReads : Prop :=
  (∀ (t : Thread) (g h : G) (r : Reg), t.seen = [] →
    (t.setReg 0xFF#8 r = t ∧ t.reg 0xFF#8 = ⟨0, .P⟩) ∧
    (g ≠ 0xFF#8 → g.toNat < t.regs.length → (t.setReg g r).reg g = r) ∧ (h ≠ g → (t.setReg g r).reg h = t.reg h)) ∧
  (∀ (t : Thread) (g : G) (v : DWord), t.seen = [] → g ≠ 0xFF#8 → g ≠ 0xFE#8 → g.toNat + 1 < t.regs.length →
    (t.setPair g v).pair g = v ∧ (t.setPair g v).val g = v.setWidth 32 ∧ (t.setPair g v).val (g + 1) = (v >>> 32).setWidth 32 ∧
    ∀ h, h ≠ g → h ≠ g + 1 → (t.setPair g v).reg h = t.reg h) ∧
  (∀ (t : Thread) (p q : PF) (r : PReg), t.seen = [] → t.preds.length = 7 →
    t.setPred 7#3 r = t ∧ t.pred 7#3 = ⟨true, .P⟩ ∧ (p ≠ 7#3 → (t.setPred p r).pred p = r) ∧ (q ≠ p → (t.setPred p r).pred q = t.pred q)) ∧
  (∀ (m : List Host.Cell) (a : Nat) (bs : List Byte), Memory.wf m = true →
    Memory.wf (writeBytes m a bs) = true ∧ readBytes (writeBytes m a bs) a bs.length = bs ∧
    (∀ x, x < a ∨ a + bs.length ≤ x → readByte (writeBytes m a bs) x = readByte m x)) ∧
  (∀ (m n : List Host.Cell), Memory.wf m = true → Memory.wf n = true → (∀ a, readByte m a = readByte n a) → m = n)

/-- R76 to R92: every well-formed instruction has a word, which decodes to it, with every operand at every value the encoding admits; and a word that
decodes is well formed and is the only word of its instruction. A header gives back its fields. -/
def Obligations.EncodeDecode : Prop :=
  (∀ i : Instr, i.wf = true → i.isEvent = false → ∃ w, encode i = some w ∧ decode w = .ok i) ∧
  (∀ (w : DWord) (i : Instr), decode w = .ok i → i.wf = true ∧ encode i = some w) ∧
  (∀ h : Header, Header.unpack h.pack = h) ∧ (∀ w : DWord, (Header.unpack w).pack = w)

/-- R76 to R92: words of the spec's worked encodings decode to the instructions they stand for, and words of an unassigned opcode, of an unused field that is
not all ones, or of an unassigned modifier decode to none. -/
def Obligations.WorkedWords : Prop :=
  let c : Ctl := { pg := 7, pn := false, sp := false }
  let p0 : Ctl := { pg := 0, pn := false, sp := false }
  decode 0x033827FC00000004#64 = .ok (.movi c 9 1) ∧
  decode 0x323830142BFC5F00#64 = .ok (.xor c 12 5 10 .n32) ∧
  decode 0xC038103C14400080#64 = .ok (.ld c 4 15 5 .n32 .v1 .normal 0x80) ∧
  decode 0xBC382827FFFC41A0#64 = .ok (.gred c false 10 9 .n32 .add (.run 5 0)) ∧
  decode 0xA01BFFFFFFFFFFF0#64 = .ok (.bra { c with pg := 3 } 0xFFFFFFFC#32) ∧
  decode 0x11382C0410245F00#64 = .ok (.addc c 11 1 1 4 (some 1)) ∧
  decode 0x083804080C1FFFC0#64 = .ok (.plop c 1 2 3 7 0xC0) ∧
  decode 0x60B81C141BFD3F00#64 = .ok (.fadd c true 7 5 6 .f16 .rne) ∧
  decode 0x90380807FFFCC809#64 = .ok (.cvt c false 2 1 .s32 .f32 .rz true) ∧
  decode 0xA53BFFFC00000000#64 = .ok (.exit c) ∧
  decode 0xD0381800080C3820#64 = .ok (.atom c 6 0 2 3 .add .acqrel .dev .n32) ∧
  decode 0xD3381807FE400000#64 = .ok (.rel c 6 1 0xFF .dev true 0) ∧
  decode 0xCB03FC3C00000400#64 = .ok (.ainit p0 15 0 0xFF 256 false) ∧
  decode 0xE738_17FF_FC01_0001#64 = .ok (.sysr c 5 0x10001) ∧
  decode 0xF13BFFFC000009B0#64 = .ok (.avsetI c 620) ∧
  decode 0x90380807FFFCC80D#64 = .error .reserved ∧ decode 0x0000000000000000#64 = .error .unassigned ∧
  decode 0x323830142BF85F00#64 = .error .reserved

/-- R70 to R78 and R346: a step at which the thread at the head of the packet stands at a good slot is the decoded instruction's exec on the state as time has
passed; entering a clause it first takes the header; a word that is no instruction gives fault 0x01, a waiting asynchronous fault is
delivered instead; with no packet the next event of the agenda acts, and with none an agent's step. -/
def Obligations.StepRunsDecoded : Prop :=
  ∀ (s : State), let s1 := s.tick
    (∀ (u : Cur) (w : DWord) (i : Instr), s1.cur = some u → u.t.fault = none → u.t.slot ≠ 0 → u.t.rehdr = false → u.t.early = [] →
      s1.codeWord u.b u.t.pc = some w → s1.codeA u.b u.t.pc = false → u.t.decodes w = .ok i →
      ∃ s2, step s = exec i s2 ∧ s2 = s1.setThread u.b.bid u.tid u.t ∧ s2.thread? u.b.bid u.tid = some u.t) ∧
    (∀ (u : Cur) (h w : DWord) (i : Instr), s1.cur = some u → u.t.fault = none → u.t.slot = 0 → u.t.early = [] → u.t.rpt = none →
      s1.codeWord u.b u.t.pc = some h → (Header.unpack h).ok = true →
      (∀ a ∈ clauseWords u.t.pc (Header.unpack h).cnt.toNat, s1.codeA u.b a = false) →
      s1.codeWord u.b (u.t.pc + 8) = some w → decode w = .ok i →
      ∃ s2, step s = exec i s2 ∧ s2.thread? u.b.bid u.tid = some { u.t with hdr := h, rehdr := false, pc := u.t.pc + 8, slot := 1 } ∧
        s2.mem = s1.mem ∧ s2.issue = s1.issue) ∧
    (∀ (u : Cur) (w : DWord) (r : Reject), s1.cur = some u → u.t.fault = none → u.t.slot ≠ 0 → u.t.rehdr = false → u.t.early = [] →
      s1.codeWord u.b u.t.pc = some w → s1.codeA u.b u.t.pc = false → u.t.decodes w = .error r →
      step s = .next ((s1.setThread u.b.bid u.tid u.t).syncFault u.b u.tid u.t 0x01)) ∧
    (∀ (u : Cur) (f : AsyncFault), s1.cur = some u → u.t.fault = some f → step s = .next (s1.asyncFault u.b u.tid u.t f).endPacket) ∧
    (∀ (e : Instr) (rest : List Instr), s1.issue = [] → s1.agenda = e :: rest → e.isEvent = true → step s = exec e { s1 with agenda := rest }) ∧
    (s1.issue = [] → s1.agenda = [] → step s = exec s1.choose.1 s1.choose.2)

/-- R5, R78, R104, R105 and R320: an instruction that names a register beyond .regs faults with 0x01, a precise one with an A-typed guard or source with 0x20, and
one whose guard is false only goes on; an approximate one may read A-typed sources. -/
def Obligations.IssueChecks : Prop :=
  ∀ (s : State) (u : Cur) (c : Ctl) (d a b : G) (t : IntTy) (ft : Ty) (rm : Rm) (ap : Bool), s.cur = some u →
    let ranges := u.t.has (d, t.n) = true ∧ u.t.has (a, t.n) = true ∧ u.t.has (b, t.n) = true
    let franges := u.t.has (d, 1) = true ∧ u.t.has (a, 1) = true ∧ u.t.has (b, 1) = true
    (¬ ranges → exec (.add c d a b t false) s = .next (s.syncFault u.b u.tid u.t 0x01)) ∧
    (ranges → (u.t.pred c.pg).ty = .A → exec (.add c d a b t false) s = .next (s.syncFault u.b u.tid u.t 0x20)) ∧
    (ranges → (u.t.pred c.pg).ty = .P → u.t.guard c = false → Completes c s u 0 (exec (.add c d a b t false) s) u.t) ∧
    (ranges → (u.t.pred c.pg).ty = .P → u.t.guard c = true → u.t.tainted (a, t.n) = true →
      exec (.add c d a b t false) s = .next (s.syncFault u.b u.tid u.t 0x20)) ∧
    (franges → (u.t.pred c.pg).ty = .P → u.t.guard c = true → u.t.tainted (a, 1) = true →
      exec (.fadd c false d a b ft rm) s = .next (s.syncFault u.b u.tid u.t 0x20)) ∧
    (franges → u.t.guard c = false → (u.t.pred c.pg).ty = .P ∨ ap = true → Completes c s u 0 (exec (.fadd c ap d a b ft rm) s) u.t) ∧
    ((u.t.pred c.pg).ty = .P → u.t.guard c = false → Completes c s u 0 (exec (.bra c 5) s) u.t ∧ Completes c s u 0 (exec (.exit c) s) u.t ∧
      Completes c s u 0 (exec (.bar c) s) u.t) ∧
    ((u.t.pred c.pg).ty = .A → exec (.bra c 5) s = .next (s.syncFault u.b u.tid u.t 0x20) ∧
      exec (.bar c) s = .next (s.syncFault u.b u.tid u.t 0x20))

/-- An invariant of every step: memory keeps its canonical form, whatever instruction, event or agent acts. -/
def Obligations.StepKeepsMemory : Prop := ∀ s s' : State, Safe s → step s = .next s' → Safe s'

/-- R238, R281, R302, R312, R333, R345, R352, R360, R374, R380, R383, R384: the machine after reset: its memory is in canonical form, no work stands in it, and its
registers hold the reset values the spec gives. -/
def Obligations.ResetValues : Prop :=
  Safe State.reset ∧ State.reset.blocks = [] ∧ State.reset.jobs = [] ∧ State.reset.launches = [] ∧ State.reset.issue = [] ∧
  (∀ f, let v := State.reset.vf f
    v.ptroot = 0 ∧ v.busy = false ∧ v.bindt = 0 ∧ v.xvec = 0 ∧ v.wdog = 32 ∧ v.pairctl.toNat % 512 = 256 ∧ bitsOf v.pairctl 15 12 = 3 ∧
    v.weight = 1 ∧ v.prio = 0 ∧ v.slice = 0 ∧ v.xbkt = 0x0000400000000000#64 ∧ v.migState = 0) ∧
  (∀ c, let k := State.reset.cluster c
    k.stop = false ∧ k.wp = 15#4 ∧ k.ispo = 0xFFFFF#20 ∧ k.bken = false ∧ k.owned = false ∧ k.lends = true) ∧
  (∀ d, (State.reset.die d).fw = 0xFF#64 ∧ State.reset.partOf d = 0) ∧ (∀ c, (State.reset.core c).rail = 750) ∧
  bitsOf State.reset.tsCtl 12 8 = 16 ∧ State.reset.tsCtl.getLsbD 0 = false
end

