-- ==== Sys2Proof/Laws/Issue.lean ====
section
/-! SUPPORT. What retiring an instruction does, once for every instruction: State.done, execLocal, execFree, execWith. -/

namespace Sys2Proof.Machine

/-- The state with another memory and other functions' registers. -/
def State.setMV (s : State) (m : List Host.Cell) (v : Tab Vf) : State := { s with mem := m, vfs := v }

/-- What flushing a function's ring makes of memory and the functions' registers. -/
def ringMV (vf : Nat) : Nat → List Host.Cell → Tab Vf → List Host.Cell × Tab Vf
  | 0, m, t => (m, t)
  | n + 1, m, t =>
    let v := t.get Vf.reset vf
    match v.frecs.find? (fun r => !r.written) with
    | none => (m, t)
    | some r =>
      if v.fqbase.getLsbD 0 && (v.fqtail - v.fqhead).toNat != ringSize v.fqbase then
        let bs := bytesOf 8 r.page ++ bytesOf 4 r.seq.toNat ++ bytesOf 4 r.lanes.toNat ++ bytesOf 4 r.spo.toNat
          ++ bytesOf 4 r.where_.toNat ++ bytesOf 4 r.launch.toNat ++ bytesOf 1 r.kind ++ bytesOf 1 r.cause ++ bytesOf 2 0
        let m := writeBytes m (ringBase v.fqbase + 32 * (r.seq.toNat % ringSize v.fqbase)) bs
        let t := t.set vf { v with
          fqtail := v.fqtail + 1
          frecs := v.frecs.map fun q => if q.seq == r.seq then { q with written := true } else q }
        let w := t.get Vf.reset vf
        ringMV vf n m (t.set vf { w with isr := w.isr ||| 2#4, irqs := if w.isr == 0 then w.irqs + 1 else w.irqs })
      else (m, t)

theorem State.irq_setMV (s : State) (m : List Host.Cell) (t : Tab Vf) (f : Nat) (b : BitVec 4) : (s.setMV m t).irq f b
    = s.setMV m (t.set f { t.get Vf.reset f with
        isr := (t.get Vf.reset f).isr ||| b
        irqs := if (t.get Vf.reset f).isr == 0 then (t.get Vf.reset f).irqs + 1 else (t.get Vf.reset f).irqs }) := rfl

theorem State.writeMem_setMV (s : State) (m : List Host.Cell) (t : Tab Vf) (a : Nat) (bs : List Byte) :
    (s.setMV m t).writeMem a bs = s.setMV (writeBytes m a bs) t := rfl

theorem State.setVf_setMV (s : State) (m : List Host.Cell) (t : Tab Vf) (f : Nat) (v : Vf) :
    (s.setMV m t).setVf f v = s.setMV m (t.set f v) := rfl

theorem flushRing_setMV (vf n : Nat) (s : State) (m : List Host.Cell) (t : Tab Vf) :
    flushRing vf n (s.setMV m t) = s.setMV (ringMV vf n m t).1 (ringMV vf n m t).2 := by
  induction n generalizing m t with
  | zero => rfl
  | succ n ih =>
    unfold flushRing ringMV
    have hv : (s.setMV m t).vf vf = t.get Vf.reset vf := rfl
    simp only [hv]
    cases (t.get Vf.reset vf).frecs.find? (fun r => !r.written) with
    | none => rfl
    | some r =>
      simp only
      by_cases h : ((t.get Vf.reset vf).fqbase.getLsbD 0
          && ((t.get Vf.reset vf).fqtail - (t.get Vf.reset vf).fqhead).toNat != ringSize (t.get Vf.reset vf).fqbase) = true
      · rw [if_pos h, if_pos h, ← ih, State.writeMem_setMV, State.setVf_setMV, State.irq_setMV]
      · rw [if_neg h, if_neg h]

theorem flushRing_eq (vf n : Nat) (s : State) :
    flushRing vf n s = s.setMV (ringMV vf n s.mem s.vfs).1 (ringMV vf n s.mem s.vfs).2 :=
  flushRing_setMV vf n s s.mem s.vfs

theorem flushRing_with (vf n : Nat) (s : State) (B : List Block) (L : List Launch) (F : Nat) :
    flushRing vf n (s.put B L F)
      = (flushRing vf n s).put B L F := by
  rw [flushRing_eq, flushRing_eq]
  rfl

theorem flushAll_with (l : List Nat) (s : State) (B : List Block) (L : List Launch) (F : Nat) :
    l.foldl (fun s v => flushRing v 64 s) (s.put B L F)
      = (l.foldl (fun s v => flushRing v 64 s) s).put B L F := by
  induction l generalizing s with
  | nil => rfl
  | cons v l ih =>
    simp only [List.foldl_cons]
    rw [flushRing_with, ih]

/-- Ending an issue touches neither the blocks, nor the launches, nor the count of free values. -/
theorem State.popIssue_with (s : State) (B : List Block) (L : List Launch) (F : Nat) :
    State.popIssue (s.put B L F)
      = s.popIssue.put B L F := by
  by_cases h : s.issue.tail.isEmpty = true
  · have e (t : State) (ht : t.issue.isEmpty = true) : t.endPacket
        = (t.pktFaults.map (fun p => p.1)).foldl (fun s v => flushRing v 64 s) { t with pktFaults := [], memo := none } := by
      simp only [State.endPacket, ht, if_true]
    simp only [State.popIssue]
    rw [e _ h, e _ h]
    exact flushAll_with _ { s with issue := s.issue.tail, pktFaults := [], memo := none } B L F
  · have e (t : State) (ht : ¬ t.issue.isEmpty = true) : t.endPacket = t := by
      simp only [State.endPacket, ht]; rfl
    simp only [State.popIssue]
    rw [e { s with issue := s.issue.tail } h]
    exact e { s.put B L F with issue := s.issue.tail } h

theorem State.popIssue_self (s : State) :
    s.popIssue.put s.blocks s.launches s.free = s.popIssue :=
  (s.popIssue_with s.blocks s.launches s.free).symm

@[simp] theorem State.popIssue_blocks (s : State) : s.popIssue.blocks = s.blocks :=
  (congrArg State.blocks s.popIssue_self).symm.trans rfl
@[simp] theorem State.popIssue_launches (s : State) : s.popIssue.launches = s.launches :=
  (congrArg State.launches s.popIssue_self).symm.trans rfl
@[simp] theorem State.popIssue_free (s : State) : s.popIssue.free = s.free :=
  (congrArg State.free s.popIssue_self).symm.trans rfl

/-- With no fault record of the packet waiting, ending an issue only removes the packet's head, and with the last member what the packet's
lanes shared. -/
theorem State.popIssue_quiet (s : State) (h : s.pktFaults = []) :
    s.popIssue = { s with issue := s.issue.tail, memo := if s.issue.tail.isEmpty then none else s.memo } := by
  unfold State.popIssue State.endPacket
  split
  · simp only [h]; rfl
  · rfl

theorem Thread.retired_goesOn (c : Ctl) (old t : Thread) (ord : BitVec 20) (rd clk : Nat) :
    GoesOnAt c t (Thread.retired old t c.sp ord rd clk) := by
  refine ⟨rfl, ?_, ?_⟩
  · have ⟨p, hp⟩ : ∃ p : Bool, (Thread.retired old t c.sp ord rd clk).mode
        = if (t.mode == .demoted && p) = true then .normal else t.mode := ⟨_, rfl⟩
    rw [hp]
    by_cases h : (t.mode == .demoted && p) = true
    · simp only [Bool.and_eq_true, beq_iff_eq] at h
      exact Or.inr ⟨h.1, by simp [h]⟩
    · exact Or.inl (if_neg h)
  · intro hsp
    simp [Thread.retired, hsp]

theorem SameLaunches.refl (l : List Launch) : SameLaunches l l := rfl

theorem SameLaunches.count (l : List Launch) (n : Nat) :
    SameLaunches l (l.map fun x => if x.obj == n then { x with count := 0 } else x) := by
  unfold SameLaunches
  rw [List.map_map]
  apply List.map_congr_left
  intro x _
  show _ = ({ (if x.obj == n then { x with count := 0 } else x : Launch) with count := 0 } : Launch)
  split <;> rfl

/-! ### Blocks and threads -/

theorem set_modify {α : Type} (l : List α) (i : Nat) (t : α) (f : α → α) : (l.set i t).modify i f = l.set i (f t) := by
  induction l generalizing i with
  | nil => cases i <;> rfl
  | cons x l ih => cases i with
    | zero => rfl
    | succ i => simp [List.modify_succ_cons, ih]

theorem State.setThread_mod (s : State) (bid tid : Nat) (t : Thread) (f : Thread → Thread) :
    ((s.setThread bid tid t).modThread bid tid f).blocks = (s.setThread bid tid (f t)).blocks := by
  simp only [State.modThread, State.setThread, State.modBlock, List.map_map]
  apply List.map_congr_left
  intro b _
  simp only [Function.comp]
  by_cases e : b.bid = bid
  · simp [e, Block.setThread, Block.modThread, set_modify]
  · simp [e]

/-! ### Retiring -/

theorem State.retire_eq (s : State) (b : Block) (tid : Nat) (old : Thread) (k : Ctl) (rd : Nat) :
    ∃ L, SameLaunches s.launches L ∧
      s.retire b tid old k rd = s.popIssue.put
        (s.modThread b.bid tid fun t => Thread.retired old t.advance k.sp (s.ordinal b old) rd (s.clkOf b.core)).blocks L s.free := by
  unfold State.retire
  by_cases h : old.mode == .demoted
  · refine ⟨s.launches, SameLaunches.refl _, ?_⟩
    simp only [h, if_true]
    exact State.popIssue_with s _ s.launches s.free
  · refine ⟨_, SameLaunches.count s.launches b.launch, ?_⟩
    simp only [h]
    exact State.popIssue_with s _ _ s.free

theorem State.retireAt_eq (s : State) (b : Block) (tid : Nat) (old : Thread) (k : Ctl) :
    ∃ L, SameLaunches s.launches L ∧
      s.retireAt b tid old k = s.popIssue.put
        (s.modThread b.bid tid fun t => Thread.retired old t k.sp (s.ordinal b old) 1 (s.clkOf b.core)).blocks L s.free := by
  unfold State.retireAt
  by_cases h : old.mode == .demoted
  · refine ⟨s.launches, SameLaunches.refl _, ?_⟩
    simp only [h, if_true]
    exact State.popIssue_with s _ s.launches s.free
  · refine ⟨_, SameLaunches.count s.launches b.launch, ?_⟩
    simp only [h]
    exact State.popIssue_with s _ _ s.free

theorem GoesOn.of_retired (c : Ctl) (old t : Thread) (ord : BitVec 20) (rd clk : Nat) :
    GoesOn c t (Thread.retired old t.advance c.sp ord rd clk) := by
  obtain ⟨h1, h2, h3⟩ := Thread.retired_goesOn c old t.advance ord rd clk
  have hm : t.advance.mode = t.mode := by unfold Thread.advance; repeat (split <;> try rfl)
  have hs : t.advance.spo = t.spo := by unfold Thread.advance; repeat (split <;> try rfl)
  have hh : t.advance.halted = t.halted := by unfold Thread.advance; repeat (split <;> try rfl)
  rw [hm] at h2
  rw [hs, hh] at h3
  exact ⟨h1, h2, h3⟩

/-- State.done of thread u, changed to t, from a state that differs from s in the count of free values alone. -/
theorem State.done_threadOnly (s : State) (u : Cur) (c : Ctl) (rd n : Nat) (t : Thread) :
    ThreadOnly (GoesOn c t) n s ((s.put s.blocks s.launches (s.free + n)).done u c rd t) u := by
  obtain ⟨L, hL, e⟩ := ((s.put s.blocks s.launches (s.free + n)).setThread u.b.bid u.tid t).retire_eq u.b u.tid u.t c rd
  have e1 : (s.put s.blocks s.launches (s.free + n)).setThread u.b.bid u.tid t
      = s.put (s.setThread u.b.bid u.tid t).blocks s.launches (s.free + n) := rfl
  unfold State.done
  rw [e, State.setThread_mod, e1, State.popIssue_with]
  exact ⟨_, GoesOn.of_retired c u.t t _ rd _, hL, rfl⟩

theorem State.done_completes (s : State) (u : Cur) (c : Ctl) (rd : Nat) (t : Thread) :
    ThreadOnly (GoesOn c t) 0 s (s.done u c rd t) u := s.done_threadOnly u c rd 0 t

/-! ### The checks -/

theorem State.gate_pass (s : State) (u : Cur) (c : Ctl) (k : Checks) (off act : State) (h : k.pass u.t c = true) :
    s.gate u c k off act = act := by
  simp only [Checks.pass, Bool.and_eq_true, Bool.not_eq_true', Option.isNone_iff_eq_none] at h
  obtain ⟨⟨⟨⟨h1, h2⟩, h3⟩, h4⟩, h5⟩ := h
  simp [State.gate, h1, h2, h3, h4, h5]

theorem execWith_ready {s : State} {u : Cur} {c : Ctl} (k : Cur → Checks) (act : Cur → State) (h : Ready s u c (k u)) :
    execWith c s k act = .next (act u) := by
  simp only [execWith, h.1, State.gate_pass _ _ _ _ _ _ h.2]

/-- An instruction that changes only its thread, once its checks pass. -/
theorem execLocal_completes {s : State} {u : Cur} {c : Ctl} (rd : Nat) (k : Cur → Checks) (f : Cur → Thread)
    (h : Ready s u c (k u)) : Completes c s u 0 (execLocal c rd s k f) (f u) :=
  ⟨_, execWith_ready k _ h, s.done_completes u c rd (f u)⟩

theorem execFree_completes {s : State} {u : Cur} {c : Ctl} (rd n : Nat) (k : Cur → Checks) (f : Cur → Thread)
    (h : Ready s u c (k u)) : Completes c s u n (execFree c rd n s k f) (f u) :=
  ⟨_, execWith_ready k _ h, s.done_threadOnly u c rd n (f u)⟩

/-- With a false guard an instruction only goes on (R105). -/
theorem execWith_off {s : State} {u : Cur} {c : Ctl} (k : Cur → Checks) (act : Cur → State) (hc : s.cur = some u)
    (hr : (k u).ranges u.t = true) (hb : (k u).guardBad u.t c = false) (hg : u.t.guard c = false) :
    execWith c s k act = .next (s.retire u.b u.tid u.t c 1) := by
  simp [execWith, hc, State.gate, hr, hb, hg]

/-- A register range that does not exist faults with 0x01 (R78). -/
theorem execWith_range {s : State} {u : Cur} {c : Ctl} (k : Cur → Checks) (act : Cur → State) (hc : s.cur = some u)
    (hr : (k u).ranges u.t = false) : execWith c s k act = .next (s.syncFault u.b u.tid u.t 0x01) := by
  simp [execWith, hc, State.gate, hr]

/-- An A-typed guard of a precise instruction faults with 0x20 (R320). -/
theorem execWith_guardBad {s : State} {u : Cur} {c : Ctl} (k : Cur → Checks) (act : Cur → State) (hc : s.cur = some u)
    (hr : (k u).ranges u.t = true) (hb : (k u).guardBad u.t c = true) :
    execWith c s k act = .next (s.syncFault u.b u.tid u.t 0x20) := by
  simp [execWith, hc, State.gate, hr, hb]

/-- An A-typed source that must be precise faults with 0x20 (R104, R320). -/
theorem execWith_tainted {s : State} {u : Cur} {c : Ctl} (k : Cur → Checks) (act : Cur → State) (hc : s.cur = some u)
    (hr : (k u).ranges u.t = true) (hb : (k u).guardBad u.t c = false) (hg : u.t.guard c = true)
    (ht : (k u).tainted u.t = true) : execWith c s k act = .next (s.syncFault u.b u.tid u.t 0x20) := by
  simp [execWith, hc, State.gate, hr, hb, hg, ht]

end Sys2Proof.Machine
end

