-- ==== Sys2Proof/Laws/Access.lean ====
section
/-! SUPPORT. The issue of a memory access: its checks leave the blocks alone, and its thread goes on. -/

namespace Sys2Proof.Machine

@[simp] theorem State.coin_blocks (s : State) : s.coin.2.blocks = s.blocks := rfl
@[simp] theorem State.event_blocks (s : State) (a b c) : (s.event a b c).blocks = s.blocks := by simp [State.event]
@[simp] theorem State.modDie_blocks (s : State) (d f) : (s.modDie d f).blocks = s.blocks := rfl
@[simp] theorem State.modVf_blocks (s : State) (d f) : (s.modVf d f).blocks = s.blocks := rfl
@[simp] theorem State.modCore_blocks (s : State) (d f) : (s.modCore d f).blocks = s.blocks := rfl
@[simp] theorem State.fwRefuse_blocks (s : State) (a b) : (s.fwRefuse a b).blocks = s.blocks := by
  unfold State.fwRefuse State.fwSeen; dsimp only; split <;> simp
@[simp] theorem State.reach_blocks (s : State) (a b) : (s.reach a b).2.blocks = s.blocks := by
  unfold State.reach; (repeat' split) <;> first | rfl | simp
@[simp] theorem State.candidate_blocks (s : State) (a b) : (s.candidate a b).2.blocks = s.blocks := by
  unfold State.candidate; dsimp only; split <;> rfl
@[simp] theorem walkFrom_blocks (a b l t s) : (walkFrom a b l t s).2.blocks = s.blocks := by
  induction l generalizing t s with
  | zero => rfl
  | succ l ih =>
    unfold walkFrom
    dsimp only
    repeat' split
    all_goals simp [ih]
@[simp] theorem State.walk_blocks (s : State) (a b c) : (s.walk a b c).2.blocks = s.blocks := by
  unfold State.walk; dsimp only; split <;> simp
@[simp] theorem State.leafNow_blocks (s : State) (a b c) : (s.leafNow a b c).2.blocks = s.blocks := by
  unfold State.leafNow; dsimp only; repeat' split
  all_goals first | rfl | simp
@[simp] theorem State.leafOf_blocks (s : State) (a b c) : (s.leafOf a b c).2.blocks = s.blocks := by
  unfold State.leafOf; dsimp only; repeat' split
  all_goals first | rfl | simp
@[simp] theorem State.translate_blocks (s : State) (a b c d) : (s.translate a b c d).2.blocks = s.blocks := by
  unfold State.translate; dsimp only; repeat' split
  all_goals first | rfl | simp
@[simp] theorem State.copyStands_blocks (s : State) (l) : (s.copyStands l).2.blocks = s.blocks := by
  unfold State.copyStands; repeat' split
  all_goals rfl
@[simp] theorem State.seesWrite_blocks (s : State) (a b) : (s.seesWrite a b).2.blocks = s.blocks := by
  unfold State.seesWrite; repeat' split
  all_goals rfl
@[simp] theorem State.lineFor_blocks (s : State) (a b c d e) : (s.lineFor a b c d e).2.2.blocks = s.blocks := by
  unfold State.lineFor; dsimp only; repeat' split
  all_goals first | rfl | simp
@[simp] theorem shareByte_blocks (k : Know) (a b c es) (s : State) : (shareByte k a b c es s).2.blocks = s.blocks := by
  induction es generalizing s with
  | nil => rfl
  | cons e es ih =>
    unfold shareByte
    dsimp only
    repeat' split
    all_goals first | rfl | simp | exact ih _ | (rw [ih]; simp)
@[simp] theorem shareBytes_blocks (k : Know) (a b es n pa) (s : State) : (shareBytes k a b es n pa s).2.blocks = s.blocks := by
  induction n generalizing pa s with
  | zero => rfl
  | succ n ih => exact (ih _ _).trans (shareByte_blocks ..)
@[simp] theorem State.loadBytes_blocks (s : State) (b t k va pa n l) : (s.loadBytes b t k va pa n l).2.2.blocks = s.blocks := by
  unfold State.loadBytes; simp
/-- The state the checks of an access leave. -/
def Prep.after : Prep → State → State
  | .go s .., _ => s
  | .ask s .., _ => s
  | .paged s _, _ => s
  | .wait s, _ => s
  | .fault _, s => s
theorem State.typedHere_blocks (s : State) (b acc pa) : ((s.typedHere b acc pa).after s).blocks = s.blocks := by
  unfold State.typedHere; dsimp only; repeat' split
  all_goals first | rfl | simp [Prep.after]
theorem State.typed_blocks (s : State) (b acc pa) : ((s.typed b acc pa).after s).blocks = s.blocks := by
  unfold State.typed; repeat' split
  all_goals first | rfl | exact s.typedHere_blocks b acc pa
/-- The checks of an access leave the blocks alone. -/
theorem State.prepare_blocks (s : State) (b acc) : ((s.prepare b acc).after s).blocks = s.blocks := by
  unfold State.prepare; dsimp only; split
  · split <;> simp [Prep.after]
  · rename_i pa _
    have h2 := State.typed_blocks (s.translate (dieOf b.core) b.vf acc.a acc.kind.why).2 b acc pa
    revert h2
    cases State.typed (s.translate (dieOf b.core) b.vf acc.a acc.kind.why).2 b acc pa <;> simp [Prep.after]
theorem Thread.notePromote_keeps (t : Thread) (k : MemK) (l : Option (Nat × Nat)) : (t.notePromote k l).bare = t.bare
    ∧ (t.notePromote k l).spo = t.spo ∧ (t.notePromote k l).halted = t.halted
    ∧ ((t.notePromote k l).mode = t.mode ∨ (t.mode = .demoted ∧ (t.notePromote k l).mode = .normal)) := by
  have h : t.notePromote k l = t ∨ (t.mode = .demoted ∧ t.notePromote k l = { t with mode := .normal }) := by
    by_cases hm : t.mode = .demoted <;> cases k <;> cases l <;> simp [Thread.notePromote, hm]
  rcases h with h | ⟨hm, h⟩
  · rw [h]; exact ⟨rfl, rfl, rfl, Or.inl rfl⟩
  · rw [h]; exact ⟨rfl, rfl, rfl, Or.inr ⟨hm, rfl⟩⟩

theorem Thread.noteAccess_keeps (t : Thread) (f : Option Nat) (k : MemK) (l : Option (Nat × Nat)) :
    (t.noteAccess f k l).bare = (t.addFlag f).bare ∧ (t.noteAccess f k l).spo = (t.addFlag f).spo
    ∧ (t.noteAccess f k l).halted = (t.addFlag f).halted ∧ (t.noteAccess f k l).mode = (t.addFlag f).mode := by
  cases k <;> cases l <;> exact ⟨rfl, rfl, rfl, rfl⟩

theorem Thread.countSig_keeps (t : Thread) (a : Acc) : (∀ w : Thread, w.bare = t.bare → (w.countSig a).bare = (t.countSig a).bare)
    ∧ (t.countSig a).spo = t.spo ∧ (t.countSig a).halted = t.halted ∧ (t.countSig a).mode = t.mode := by
  unfold Thread.countSig
  split
  · refine ⟨fun w e => ?_, rfl, rfl, rfl⟩
    have e1 : w.nsig = t.nsig := (by rw [e] : w.bare.nsig = t.bare.nsig)
    have go (n : Nat) : ({ w with nsig := n } : Thread).bare = ({ t with nsig := n } : Thread).bare :=
      (by rw [e] : ({ w.bare with nsig := n } : Thread) = { t.bare with nsig := n })
    rw [e1]; exact go _
  · exact ⟨fun _ e => e, rfl, rfl, rfl⟩

theorem Thread.advance_bare {a b : Thread} (e : a.bare = b.bare) : a.advance.bare = b.advance.bare := by
  have e1 : a.rpt = b.rpt := (by rw [e] : a.bare.rpt = b.bare.rpt)
  have e2 : a.pc = b.pc := (by rw [e] : a.bare.pc = b.bare.pc)
  have e3 : a.slot = b.slot := (by rw [e] : a.bare.slot = b.bare.slot)
  have e4 : a.hdr = b.hdr := (by rw [e] : a.bare.hdr = b.bare.hdr)
  have e5 : a.lastSlot = b.lastSlot := by rw [Thread.lastSlot, Thread.lastSlot, Thread.header, Thread.header, e4, e3]
  have go (p : Addr) (n : Nat) (r : Option Rpt) : ({ a with rpt := r, pc := p, slot := n } : Thread).bare
      = ({ b with rpt := r, pc := p, slot := n } : Thread).bare :=
    (by rw [e] : ({ a.bare with rpt := r, pc := p, slot := n } : Thread) = { b.bare with rpt := r, pc := p, slot := n })
  unfold Thread.advance
  rw [e1, e2, e3, e5]
  cases b.rpt with
  | none => exact go _ _ _
  | some r =>
    dsimp only
    split
    · exact go _ _ _
    · exact go _ _ _

/-- The issue of an access: its thread has gone on with its flag and its signature counted, nothing else changed. -/
theorem start_only (s : State) (u : Cur) (c : Ctl) (acc : Acc) (l : Option (Nat × Nat)) :
    ThreadOnly (GoesOn c ((u.t.addFlag acc.flag).countSig acc)) 0 s
      ((s.setThread u.b.bid u.tid (((u.t.noteAccess acc.flag acc.kind l).notePromote acc.kind l).countSig acc)).retire u.b u.tid
        (u.t.notePromote acc.kind l) c 1) u := by
  obtain ⟨a1, a2, a3, a4⟩ := u.t.noteAccess_keeps acc.flag acc.kind l
  obtain ⟨b1, b2, b3, b4⟩ := (u.t.noteAccess acc.flag acc.kind l).notePromote_keeps acc.kind l
  generalize (u.t.noteAccess acc.flag acc.kind l).notePromote acc.kind l = w at *
  obtain ⟨-, d2, d3, d4⟩ := w.countSig_keeps acc
  obtain ⟨c1, c2, c3, c4⟩ := (u.t.addFlag acc.flag).countSig_keeps acc
  have d1 := c1 w (b1.trans a1)
  generalize w.countSig acc = t at *
  obtain ⟨L, hL, e⟩ := (s.setThread u.b.bid u.tid t).retire_eq u.b u.tid (u.t.notePromote acc.kind l) c 1
  have e1 : s.setThread u.b.bid u.tid t = s.put (s.setThread u.b.bid u.tid t).blocks s.launches s.free := rfl
  rw [e, State.setThread_mod]
  conv => rw [e1]
  rw [State.popIssue_with]
  obtain ⟨h1, h2, h3⟩ := GoesOn.of_retired c (u.t.notePromote acc.kind l) t
    ((s.setThread u.b.bid u.tid t).ordinal u.b (u.t.notePromote acc.kind l)) 1 ((s.setThread u.b.bid u.tid t).clkOf u.b.core)
  refine ⟨_, ⟨h1.trans (Thread.advance_bare d1), ?_, fun hs => ?_⟩, hL, rfl⟩
  · rw [a4] at b4
    rw [c4]
    rcases b4 with b4 | ⟨b4, b5⟩
    · rw [d4, b4] at h2; exact h2
    · rw [d4, b5] at h2
      rcases h2 with h2 | h2
      · exact Or.inr ⟨b4, h2⟩
      · exact absurd h2.1 (by decide)
  · have := h3 hs
    exact ⟨this.1.trans (d2.trans (b2.trans (a2.trans c2.symm))), this.2.trans (d3.trans (b3.trans (a3.trans c3.symm)))⟩

/-- The issuing thread stands in its block. -/
theorem State.cur_block {s : State} {u : Cur} (h : s.cur = some u) : s.block? u.b.bid = some u.b ∧ u.b.thread? u.tid = some u.t := by
  unfold State.cur at h
  split at h
  · cases h
  · split at h
    · cases h
    · split at h
      · cases h
      · rename_i b hb _ t ht
        split at h
        · cases h
          have e := List.find?_some hb
          simp at e
          subst e
          exact ⟨hb, ht⟩
        · cases h

/-- The block of the thread that went on. -/
theorem ThreadOnly.block {P : Thread → Prop} {n} {s s' : State} {u : Cur} {b : Block} (h : ThreadOnly P n s s' u) (hb : s.block? u.b.bid = some b) :
    ∃ t, P t ∧ s'.block? u.b.bid = some (b.setThread u.tid t) := by
  obtain ⟨t, ht, _, e⟩ := h
  refine ⟨t, ht, ?_⟩
  have : s'.blocks = (s.setThread u.b.bid u.tid t).blocks := by rw [e]; rfl
  unfold State.block?
  rw [this]
  unfold State.block? at hb
  have hid := List.find?_some hb
  simp at hid
  show (s.blocks.map _).find? _ = _
  rw [List.find?_map]
  have hf : ((fun x : Block => x.bid == u.b.bid) ∘ fun x : Block => if x.bid == u.b.bid then x.setThread u.tid t else x)
      = fun x => x.bid == u.b.bid := by
    funext x
    simp only [Function.comp]
    split <;> rfl
  rw [hf, hb]
  simp [hid]

/-- A check that finds no fault leaves a ready instruction ready. -/
theorem Ready.with {s : State} {u : Cur} {c : Ctl} {k : Checks} (h : Ready s u c k) (f : Option Nat) (hf : f = none)
    (hk : k.fault = none) : Ready s u c { k with fault := f } := by
  subst hf; cases k; simp_all

end Sys2Proof.Machine
end

