-- ==== Sys2Proof/Laws/Memory.lean ====
section
/-! SUPPORT. The laws of physical memory: the canonical form is kept by every write, and a read after a write. -/
namespace Sys2Proof.Machine

theorem wf_cons (c : Host.Cell) (m : List Host.Cell) :
    Memory.wf (c :: m) = true ↔ c.2 ≠ unlisted ∧ (∀ d ∈ m, c.1 < d.1) ∧ Memory.wf m = true := by
  induction m generalizing c with
  | nil => simp [Memory.wf]
  | cons d m ih =>
    simp only [Memory.wf, Bool.and_eq_true, decide_eq_true_eq, bne_iff_ne, ih d, List.mem_cons, forall_eq_or_imp]
    constructor
    · rintro ⟨⟨a, b⟩, c', e, f⟩
      exact ⟨a, ⟨b, fun x hx => Nat.lt_trans b (e x hx)⟩, c', e, f⟩
    · rintro ⟨a, ⟨b, _⟩, c', e, f⟩
      exact ⟨⟨a, b⟩, c', e, f⟩

theorem mem_writeByte (m : List Host.Cell) (a : Nat) (v : Byte) (d : Host.Cell) (hd : d ∈ writeByte m a v) :
    d = (a, v) ∨ d ∈ m := by
  induction m with
  | nil =>
    unfold writeByte at hd
    split at hd <;> simp_all
  | cons c m ih =>
    unfold writeByte at hd
    split at hd
    · split at hd
      · exact .inr hd
      · simpa using hd
    · split at hd
      · split at hd
        · exact .inr (List.mem_cons_of_mem _ hd)
        · rcases List.mem_cons.1 hd with rfl | h
          · exact .inl rfl
          · exact .inr (List.mem_cons_of_mem _ h)
      · rcases List.mem_cons.1 hd with rfl | h
        · exact .inr List.mem_cons_self
        · exact (ih h).imp id (List.mem_cons_of_mem _)

theorem writeByte_lower (m : List Host.Cell) (a : Nat) (v : Byte) (k : Nat) (h : ∀ d ∈ m, k < d.1) (hk : k < a) :
    ∀ d ∈ writeByte m a v, k < d.1 := fun d hd => by
  rcases mem_writeByte m a v d hd with rfl | h'
  · exact hk
  · exact h d h'

theorem writeByte_wf (m : List Host.Cell) (a : Nat) (v : Byte) (h : Memory.wf m = true) :
    Memory.wf (writeByte m a v) = true := by
  induction m with
  | nil =>
    unfold writeByte
    split
    · rfl
    · simp_all [Memory.wf]
  | cons c m ih =>
    rw [wf_cons] at h
    obtain ⟨hc, hl, hm⟩ := h
    unfold writeByte
    split
    · rename_i hlt
      split
      · rw [wf_cons]; exact ⟨hc, hl, hm⟩
      · rename_i hv
        rw [wf_cons, wf_cons]
        refine ⟨by simpa using hv, ?_, hc, hl, hm⟩
        simp only [List.mem_cons, forall_eq_or_imp]
        exact ⟨hlt, fun d hd => Nat.lt_trans hlt (hl d hd)⟩
    · split
      · rename_i hge heq
        split
        · exact hm
        · rename_i hv
          rw [wf_cons]
          have e : a = c.1 := by simpa using heq
          exact ⟨by simpa using hv, fun d hd => e ▸ hl d hd, hm⟩
      · rename_i hge hne
        rw [wf_cons]
        have : c.1 ≠ a := fun h => hne (by simp [h])
        exact ⟨hc, writeByte_lower m a v c.1 hl (by omega), ih hm⟩

theorem writeBytes_wf (bs : List Byte) : ∀ (m : List Host.Cell) (a : Nat), Memory.wf m = true → Memory.wf (writeBytes m a bs) = true := by
  induction bs with
  | nil => intro m a h; exact h
  | cons b bs ih => intro m a h; exact ih _ _ (writeByte_wf m a b h)

theorem dropCells_wf (m : List Host.Cell) (gone : Nat → Bool) (h : Memory.wf m = true) : Memory.wf (dropCells m gone) = true := by
  induction m with
  | nil => rfl
  | cons c m ih =>
    rw [wf_cons] at h
    obtain ⟨hc, hl, hm⟩ := h
    unfold dropCells at *
    rw [List.filter_cons]
    split
    · rw [wf_cons]
      exact ⟨hc, fun d hd => hl d (List.mem_filter.1 hd).1, ih hm⟩
    · exact ih hm

theorem readByte_nil (x : Nat) : readByte [] x = unlisted := rfl

theorem readByte_cons (c : Host.Cell) (m : List Host.Cell) (x : Nat) :
    readByte (c :: m) x = if c.1 = x then c.2 else readByte m x := by
  unfold readByte
  rw [List.find?_cons]
  by_cases h : c.1 = x
  · simp [h]
  · rw [if_neg h, show (c.1 == x) = false by simpa using h]

theorem readByte_above (m : List Host.Cell) (x : Nat) (h : ∀ d ∈ m, x < d.1) : readByte m x = unlisted := by
  induction m with
  | nil => rfl
  | cons c m ih =>
    rw [readByte_cons, if_neg (by have := h c List.mem_cons_self; omega)]
    exact ih fun d hd => h d (List.mem_cons_of_mem _ hd)

/-- Reading the byte just written gives it; every other byte reads as before. -/
theorem readByte_writeByte (m : List Host.Cell) (a : Nat) (v : Byte) (h : Memory.wf m = true) (x : Nat) :
    readByte (writeByte m a v) x = if x = a then v else readByte m x := by
  induction m with
  | nil =>
    unfold writeByte
    by_cases hv : v = unlisted
    · simp [hv, readByte_nil]
    · rw [if_neg (by simpa using hv), readByte_cons]
      by_cases hx : x = a
      · rw [if_pos hx.symm, if_pos hx]
      · rw [if_neg (fun e => hx e.symm), if_neg hx]
  | cons c m ih =>
    rw [wf_cons] at h
    obtain ⟨hc, hl, hm⟩ := h
    have ih := ih hm
    have step (l : List Host.Cell) : readByte ((a, v) :: l) x = if x = a then v else readByte l x := by
      rw [readByte_cons]
      by_cases hx : x = a
      · rw [if_pos hx.symm, if_pos hx]
      · rw [if_neg (fun e => hx e.symm), if_neg hx]
    have gone (l : List Host.Cell) (hv : v = unlisted) (ha : readByte l a = unlisted) :
        readByte l x = if x = a then v else readByte l x := by
      by_cases hx : x = a
      · rw [if_pos hx, hx, ha, hv]
      · rw [if_neg hx]
    rw [writeByte]
    split
    · rename_i hlt
      split
      · rename_i hv
        refine gone _ (by simpa using hv) (readByte_above _ _ fun d hd => ?_)
        rcases List.mem_cons.1 hd with rfl | h
        · exact hlt
        · exact Nat.lt_trans hlt (hl d h)
      · exact step _
    · split
      · rename_i hlt heq
        have ha : a = c.1 := by simpa using heq
        have skip : (if x = a then v else readByte (c :: m) x) = if x = a then v else readByte m x := by
          rw [readByte_cons]
          by_cases hx : x = a
          · rw [if_pos hx, if_pos hx]
          · rw [if_neg hx, if_neg hx, if_neg (fun e => hx (by rw [ha, e]))]
        rw [skip]
        split
        · rename_i hv
          exact gone _ (by simpa using hv) (readByte_above _ _ (ha ▸ hl))
        · exact step _
      · rename_i hlt heq
        rw [readByte_cons, readByte_cons, ih]
        by_cases hx : c.1 = x
        · rw [if_pos hx, if_pos hx, if_neg (fun e => heq (by rw [← e, hx]; exact beq_self_eq_true x))]
        · rw [if_neg hx, if_neg hx]

/-- Reading after a write of several bytes: inside them the byte written, elsewhere as before. -/
theorem readByte_writeBytes (bs : List Byte) : ∀ (m : List Host.Cell) (a : Nat), Memory.wf m = true → ∀ x,
    readByte (writeBytes m a bs) x = if a ≤ x ∧ x < a + bs.length then bs.getD (x - a) 0 else readByte m x := by
  induction bs with
  | nil => intro m a h x; simp [writeBytes] <;> omega
  | cons b bs ih =>
    intro m a h x
    rw [writeBytes, ih _ _ (writeByte_wf m a b h), readByte_writeByte m a b h]
    simp only [List.length_cons]
    by_cases hx : x = a
    · subst hx
      rw [if_neg (by omega), if_pos rfl, if_pos (by omega)]
      simp
    · by_cases h1 : a + 1 ≤ x ∧ x < a + 1 + bs.length
      · have h2 : a ≤ x ∧ x < a + (bs.length + 1) := by omega
        rw [if_pos h1, if_pos h2, show x - a = (x - (a + 1)) + 1 by omega]
        simp
      · rw [if_neg h1, if_neg hx, if_neg (by omega)]

end Sys2Proof.Machine
end

