-- ==== Sys2Proof/Laws/Frame.lean ====
section
/-! SUPPORT. Memory and every definition of the machine, in the order of use: X_mem says that X leaves memory alone, X_wf that X keeps
its canonical form; exec_wf says it of every instruction and event. -/

namespace Sys2Proof.Machine
/-- The memory an answer leaves; m when it is no next state. -/
def Out.memory (o : Host.Outcome State Fault Refusal) (m : List Host.Cell) : List Host.Cell :=
  match o with
  | .next s => s.mem
  | _ => m
@[simp] theorem Out.memory_next (s : State) (m) : Out.memory (.next s) m = s.mem := rfl
@[simp] theorem Out.memory_refused (r) (m) : Out.memory (.refused r) m = m := rfl
@[simp] theorem Out.memory_fault (r) (m) : Out.memory (.fault r) m = m := rfl
/-- The memory a prepared access leaves; m when it is refused. -/
def Prep.memory (p : Prep) (m : List Host.Cell) : List Host.Cell :=
  match p with
  | .go s _ _ _ => s.mem
  | .ask s _ _ _ => s.mem
  | .paged s _ => s.mem
  | .wait s => s.mem
  | .fault _ => m
theorem foldl_mem {α : Type} (f : State → α → State) (hf : ∀ s x, (f s x).mem = s.mem) (l : List α) (s : State) :
    (l.foldl f s).mem = s.mem := by
  induction l generalizing s with
  | nil => rfl
  | cons x l ih => exact (ih (f s x)).trans (hf s x)
theorem foldl_wf {α : Type} (f : State → α → State) (hf : ∀ s x, Memory.wf s.mem = true → Memory.wf (f s x).mem = true) (l : List α) (s : State)
    (h : Memory.wf s.mem = true) : Memory.wf (l.foldl f s).mem = true := by
  induction l generalizing s with
  | nil => exact h
  | cons x l ih => exact ih _ (hf s x h)
theorem foldl_snd_mem {α β : Type} (f : β × State → α → β × State) (hf : ∀ s x, (f s x).2.mem = s.2.mem) (l : List α) (s : β × State) :
    (l.foldl f s).2.mem = s.2.mem := by
  induction l generalizing s with
  | nil => rfl
  | cons x l ih => exact (ih (f s x)).trans (hf s x)
theorem foldl_third_mem {α β γ : Type} (f : β × γ × State → α → β × γ × State) (hf : ∀ s x, (f s x).2.2.mem = s.2.2.mem) (l : List α)
    (s : β × γ × State) : (l.foldl f s).2.2.mem = s.2.2.mem := by
  induction l generalizing s with
  | nil => rfl
  | cons x l ih => exact (ih (f s x)).trans (hf s x)
theorem foldl_snd_wf {α β : Type} (f : β × State → α → β × State) (hf : ∀ s x, Memory.wf s.2.mem = true → Memory.wf (f s x).2.mem = true)
    (l : List α) (s : β × State) (h : Memory.wf s.2.mem = true) : Memory.wf (l.foldl f s).2.mem = true := by
  induction l generalizing s with
  | nil => exact h
  | cons x l ih => exact ih _ (hf s x h)
end Sys2Proof.Machine

set_option linter.all false

namespace Sys2Proof.Machine

@[simp] theorem State.modBlock_mem (s x1 x2) : (@State.modBlock s x1 x2).mem = s.mem := by
  rfl
@[simp] theorem State.setThread_mem (s x1 x2 x3) : (@State.setThread s x1 x2 x3).mem = s.mem := by
  rfl
@[simp] theorem State.newId_mem (s) : ((@State.newId s).2).mem = s.mem := by
  rfl
@[simp] theorem State.setBlock_mem (s x1) : (@State.setBlock s x1).mem = s.mem := by
  rfl
@[simp] theorem State.takeSet_mem (s x1 x2) : (@State.takeSet s x1 x2).mem = s.mem := by
  rfl
@[simp] theorem State.handOver_mem (s x1 x2 x3) : (@State.handOver s x1 x2 x3).mem = s.mem := by
  rfl
@[simp] theorem State.setDie_mem (s x1 x2) : (@State.setDie s x1 x2).mem = s.mem := by
  rfl
@[simp] theorem State.modDie_mem (s x1 x2) : (@State.modDie s x1 x2).mem = s.mem := by
  rfl
@[simp] theorem State.count_mem (s x1 x2 x3) : (@State.count s x1 x2 x3).mem = s.mem := by
  unfold State.count; (try dsimp only); (repeat' split) <;> first | rfl | simp
@[simp] theorem State.finished_mem (s x1 x2) : (@State.finished s x1 x2).mem = s.mem := by
  simp [State.finished]
@[simp] theorem State.modBoth_mem (s x1 x2 x3 x4) : (@State.modBoth s x1 x2 x3 x4).mem = s.mem := by
  rfl
@[simp] theorem State.entered_mem (s x1) : (@State.entered s x1).mem = s.mem := by
  rfl
@[simp] theorem State.unpark_mem (s x1 x2 x3) : (@State.unpark s x1 x2 x3).mem = s.mem := by
  rfl
@[simp] theorem State.promote_mem (s x1 x2 x3 x4 x5) : (@State.promote s x1 x2 x3 x4 x5).mem = s.mem := by
  rfl
@[simp] theorem State.candidate_mem (s x1 x2) : ((@State.candidate s x1 x2).2).mem = s.mem := by
  unfold State.candidate; (try dsimp only); (repeat' split) <;> first | rfl | simp
@[simp] theorem State.matched_mem (s x1 x2 x3 x4) : (@State.matched s x1 x2 x3 x4).mem = s.mem := by
  rfl
@[simp] theorem State.consumes_mem (s x1 x2 x3) : (@State.consumes s x1 x2 x3).mem = s.mem := by
  rfl
@[simp] theorem State.signed_mem (s x1 x2 x3 x4 x5) : (@State.signed s x1 x2 x3 x4 x5).mem = s.mem := by
  unfold State.signed; (try dsimp only); (repeat' split) <;> first | rfl | simp
@[simp] theorem State.sign_mem (s x1 x2) : (@State.sign s x1 x2).mem = s.mem := by
  unfold State.sign; (try dsimp only); (repeat' split) <;> first | rfl | simp
@[simp] theorem State.enter_mem (s x1 x2) : (@State.enter s x1 x2).mem = s.mem := by
  unfold State.enter; (try dsimp only); (repeat' split) <;> first | rfl | simp
@[simp] theorem State.afterForced_mem (s x1 x2 x3) : (@State.afterForced s x1 x2 x3).mem = s.mem := by
  unfold State.afterForced; (try dsimp only); (repeat' split) <;> first | rfl | simp
@[simp] theorem State.send_mem (s x1 x2 x3 x4 x5 x6 x7 x8) : (@State.send s x1 x2 x3 x4 x5 x6 x7 x8).mem = s.mem := by
  rfl
@[simp] theorem State.sendAcc_mem (s x1 x2 x3 x4 x5 x6 x7 x8) : (@State.sendAcc s x1 x2 x3 x4 x5 x6 x7 x8).mem = s.mem := by
  rfl
@[simp] theorem State.onceDone_mem (s x1) : (@State.onceDone s x1).mem = s.mem := by
  unfold State.onceDone; (try dsimp only); (repeat' split) <;> first | rfl | simp
@[simp] theorem State.fwSeen_mem (s x1 x2) : (@State.fwSeen s x1 x2).mem = s.mem := by
  rfl
@[simp] theorem State.event_mem (s x1 x2 x3) : (@State.event s x1 x2 x3).mem = s.mem := by
  simp [State.event]
@[simp] theorem State.fwRefuse_mem (s x1 x2) : (@State.fwRefuse s x1 x2).mem = s.mem := by
  unfold State.fwRefuse; (try dsimp only); (repeat' split) <;> first | rfl | simp
@[simp] theorem State.reach_mem (s x1 x2) : ((@State.reach s x1 x2).2).mem = s.mem := by
  unfold State.reach; (try dsimp only); (repeat' split) <;> first | rfl | simp
@[simp] theorem State.keepFound_mem (s x1 x2 x3 x4 x5) : (@State.keepFound s x1 x2 x3 x4 x5).mem = s.mem := by
  rfl
@[simp] theorem State.keepOld_mem (s x1 x2 x3 x4 x5 x6) : (@State.keepOld s x1 x2 x3 x4 x5 x6).mem = s.mem := by
  rfl
theorem State.writeMem_wf (s x1 x2) (hm : Memory.wf s.mem = true) : Memory.wf ((@State.writeMem s x1 x2).mem) = true := by
  unfold State.writeMem; repeat' (first | assumption | apply writeBytes_wf | dsimp only | split | refine foldl_wf _ (fun s x hm => ?_) _ _ ?_ | refine foldl_snd_wf _ (fun s x hm => ?_) _ _ ?_ | (simp; done) | (simp; assumption) | (simp))
@[simp] theorem State.setVf_mem (s x1 x2) : (@State.setVf s x1 x2).mem = s.mem := by
  rfl
@[simp] theorem State.modVf_mem (s x1 x2) : (@State.modVf s x1 x2).mem = s.mem := by
  rfl
@[simp] theorem State.irq_mem (s x1 x2) : (@State.irq s x1 x2).mem = s.mem := by
  rfl
theorem flushRing_wf (x0 x1 s) (hm : Memory.wf s.mem = true) : Memory.wf ((@flushRing x0 x1 s).mem) = true := by
  induction x1 generalizing s with
  | zero => exact hm
  | succ n ih =>
    rw [flushRing]
    dsimp only
    split
    · exact hm
    · split
      · refine ih _ ?_
        simp only [State.irq_mem, State.setVf_mem]
        exact State.writeMem_wf _ _ _ hm
      · exact hm
theorem State.endPacket_wf (s) (hm : Memory.wf s.mem = true) : Memory.wf ((@State.endPacket s).mem) = true := by
  unfold State.endPacket; repeat' (first | assumption | intro _ | apply flushRing_wf | dsimp only | split | refine foldl_wf _ (fun s x hm => ?_) _ _ ?_ | refine foldl_snd_wf _ (fun s x hm => ?_) _ _ ?_ | (simp; done) | (simp; assumption) | (simp))
theorem State.settleRecords_wf (s) (hm : Memory.wf s.mem = true) : Memory.wf ((@State.settleRecords s).mem) = true := by
  unfold State.settleRecords; repeat' (first | assumption | intro _ | apply State.endPacket_wf | dsimp only | split | refine foldl_wf _ (fun s x hm => ?_) _ _ ?_ | refine foldl_snd_wf _ (fun s x hm => ?_) _ _ ?_ | (simp; done) | (simp; assumption) | (simp))
@[simp] theorem State.faultRecord_mem (s x1 x2 x3 x4 x5 x6 x7 x8) : ((@State.faultRecord s x1 x2 x3 x4 x5 x6 x7 x8).2).mem = s.mem := by
  unfold State.faultRecord; (try dsimp only); (repeat' split) <;> first | rfl | simp
@[simp] theorem State.pageFault_mem (s x1 x2 x3) : (@State.pageFault s x1 x2 x3).mem = s.mem := by
  simp [State.pageFault]
theorem State.atHome_wf (s : State) (b acc pa) (here : State → State) (op data) (hm : Memory.wf s.mem = true)
    (h : ∀ s, Memory.wf s.mem = true → Memory.wf (here s).mem = true) : Memory.wf (State.atHome s b acc pa here op data).mem = true := by
  unfold State.atHome
  split
  · simpa using hm
  · dsimp only
    split
    · exact h _ (by simpa using hm)
    · first | exact State.settleRecords_wf _ (by simpa using hm) | simpa using hm
@[simp] theorem State.setCore_mem (s x1 x2) : (@State.setCore s x1 x2).mem = s.mem := by
  rfl
@[simp] theorem State.modCore_mem (s x1 x2) : (@State.modCore s x1 x2).mem = s.mem := by
  rfl
@[simp] theorem State.updateL1_mem (s x1 x2 x3) : (@State.updateL1 s x1 x2 x3).mem = s.mem := by
  rfl
@[simp] theorem State.promotePa_mem (s x1 x2 x3) : (@State.promotePa s x1 x2 x3).mem = s.mem := by
  unfold State.promotePa; repeat' (first | rfl | (refine (foldl_mem _ (fun s x => ?_) _ _).trans ?_) | split | (simp; done) | dsimp only)
theorem State.writeHome_wf (s x1 x2 x3 x4 x5 x6 x7) (hm : Memory.wf s.mem = true) : Memory.wf ((@State.writeHome s x1 x2 x3 x4 x5 x6 x7).mem) = true := by
  unfold State.writeHome; repeat' (first | assumption | apply State.writeMem_wf | dsimp only | split | refine foldl_wf _ (fun s x hm => ?_) _ _ ?_ | refine foldl_snd_wf _ (fun s x hm => ?_) _ _ ?_ | (simp; done) | (simp; assumption) | (simp))
theorem State.rmwHome_wf (s x1 x2 x3 x4 x5 x6 x7 x8 x9 x10) (hm : Memory.wf s.mem = true) : Memory.wf (((@State.rmwHome s x1 x2 x3 x4 x5 x6 x7 x8 x9 x10).2).mem) = true := by
  unfold State.rmwHome; repeat' (first | assumption | apply State.writeHome_wf | dsimp only | split | refine foldl_wf _ (fun s x hm => ?_) _ _ ?_ | refine foldl_snd_wf _ (fun s x hm => ?_) _ _ ?_ | (simp; done) | (simp; assumption) | (simp))
@[simp] theorem State.eccReads_mem (x0 x1 x2 s) : (State.eccReads x0 x1 x2 s).mem = s.mem := by
  induction x2 generalizing s with
  | zero => rfl
  | succ n ih => rw [State.eccReads, ih]; split <;> simp
@[simp] theorem State.eccLine_mem (s x1 x2 x3) : (@State.eccLine s x1 x2 x3).mem = s.mem := by
  unfold State.eccLine; (try dsimp only); (repeat' split) <;> first | rfl | simp
@[simp] theorem State.setCluster_mem (s x1 x2) : (@State.setCluster s x1 x2).mem = s.mem := by
  rfl
@[simp] theorem State.modCluster_mem (s x1 x2) : (@State.modCluster s x1 x2).mem = s.mem := by
  rfl
@[simp] theorem State.watch_mem (s x1 x2 x3 x4 x5 x6 x7 x8) : (@State.watch s x1 x2 x3 x4 x5 x6 x7 x8).mem = s.mem := by
  unfold State.watch; (try dsimp only); (repeat' split) <;> first | rfl | simp
@[simp] theorem State.watchGlobal_mem (s x1 x2 x3 x4 x5 x6 x7) : (@State.watchGlobal s x1 x2 x3 x4 x5 x6 x7).mem = s.mem := by
  simp [State.watchGlobal]
@[simp] theorem State.release_mem (s x1) : (@State.release s x1).mem = s.mem := by
  rfl
@[simp] theorem State.dropL1_mem (s x1) : (@State.dropL1 s x1).mem = s.mem := by
  rfl
@[simp] theorem State.acquireAll_mem (s x1 x2) : (@State.acquireAll s x1 x2).mem = s.mem := by
  unfold State.acquireAll; (try dsimp only); (repeat' split) <;> first | rfl | simp
@[simp] theorem State.atomSync_mem (s x1 x2 x3 x4 x5 x6) : (((@State.atomSync s x1 x2 x3 x4 x5 x6).2).2).mem = s.mem := by
  unfold State.atomSync; (try dsimp only); (repeat' split) <;> first | rfl | simp
@[simp] theorem State.atomSpin_mem (s x1 x2 x3) : (@State.atomSpin s x1 x2 x3).mem = s.mem := by
  rfl
@[simp] theorem State.addPend_mem (s x1 x2) : (@State.addPend s x1 x2).mem = s.mem := by
  rfl
@[simp] theorem State.addPendBoth_mem (s x1 x2) : (@State.addPendBoth s x1 x2).mem = s.mem := by
  unfold State.addPendBoth; (try dsimp only); (repeat' split) <;> first | rfl | simp
theorem State.atomHome_wf (s x1 x2 x3 x4 x5 x6 x7 x8 x9 x10) (hm : Memory.wf s.mem = true) : Memory.wf ((@State.atomHome s x1 x2 x3 x4 x5 x6 x7 x8 x9 x10).mem) = true := by
  unfold State.atomHome; repeat' (first | assumption | intro _ | apply State.rmwHome_wf | dsimp only | split | refine foldl_wf _ (fun s x hm => ?_) _ _ ?_ | refine foldl_snd_wf _ (fun s x hm => ?_) _ _ ?_ | (simp; done) | (simp; assumption) | (simp))
@[simp] theorem State.lateFault_mem (s x1 x2) : (@State.lateFault s x1 x2).mem = s.mem := by
  unfold State.lateFault; (try dsimp only); (repeat' split) <;> first | rfl | simp
@[simp] theorem State.eccScr_mem (s x1 x2 x3) : (@State.eccScr s x1 x2 x3).mem = s.mem := by
  unfold State.eccScr; (try dsimp only); (repeat' split) <;> first | rfl | simp
@[simp] theorem State.writeScr_mem (s x1 x2 x3 x4) : (@State.writeScr s x1 x2 x3 x4).mem = s.mem := by
  unfold State.writeScr; (try dsimp only); (repeat' split) <;> first | rfl | simp
@[simp] theorem State.rmwBank_mem (s x1 x2 x3 x4 x5 x6 x7 x8) : ((@State.rmwBank s x1 x2 x3 x4 x5 x6 x7 x8).2).mem = s.mem := by
  unfold State.rmwBank; (try dsimp only); (repeat' split) <;> first | rfl | simp
@[simp] theorem State.watchScr_mem (s x1 x2 x3 x4 x5 x6 x7 x8) : (@State.watchScr s x1 x2 x3 x4 x5 x6 x7 x8).mem = s.mem := by
  simp [State.watchScr]
@[simp] theorem State.atomBank_mem (s x1 x2 x3 x4 x5 x6 x7 x8 x9) : (@State.atomBank s x1 x2 x3 x4 x5 x6 x7 x8 x9).mem = s.mem := by
  unfold State.atomBank; (try dsimp only); (repeat' split) <;> first | rfl | simp
theorem State.relHome_wf (s x1 x2 x3 x4 x5) (hm : Memory.wf s.mem = true) : Memory.wf ((@State.relHome s x1 x2 x3 x4 x5).mem) = true := by
  unfold State.relHome; repeat' (first | assumption | intro _ | apply State.writeHome_wf | dsimp only | split | refine foldl_wf _ (fun s x hm => ?_) _ _ ?_ | refine foldl_snd_wf _ (fun s x hm => ?_) _ _ ?_ | (simp; done) | (simp; assumption) | (simp))
theorem State.performHome_wf (s x1) (hm : Memory.wf s.mem = true) : Memory.wf ((@State.performHome s x1).mem) = true := by
  unfold State.performHome
  (repeat' split) <;> first
    | exact hm
    | exact State.atHome_wf _ _ _ _ _ _ _ hm (fun s h => State.atomHome_wf _ _ _ _ _ _ _ _ _ _ _ h)
    | exact State.atHome_wf _ _ _ _ _ _ _ hm (fun s h => State.relHome_wf _ _ _ _ _ _ h)
    | simpa using hm
@[simp] theorem State.endFence_mem (s x1 x2 x3 x4) : (@State.endFence s x1 x2 x3 x4).mem = s.mem := by
  unfold State.endFence; (try dsimp only); (repeat' split) <;> first | rfl | simp
@[simp] theorem State.modCounter_mem (s x1 x2 x3 x4) : (@State.modCounter s x1 x2 x3 x4).mem = s.mem := by
  rfl
@[simp] theorem State.addCounter_mem (s x1 x2 x3) : (@State.addCounter s x1 x2 x3).mem = s.mem := by
  rfl
@[simp] theorem State.endCkpt_mem (s x1 x2) : (@State.endCkpt s x1 x2).mem = s.mem := by
  unfold State.endCkpt; repeat' (first | rfl | (refine (foldl_mem _ (fun s x => ?_) _ _).trans ?_) | split | (simp; done) | dsimp only)
theorem State.continue_wf (s x1 x2) (hm : Memory.wf s.mem = true) : Memory.wf ((@State.continue s x1 x2).mem) = true := by
  unfold State.continue; repeat' (first | assumption | intro _ | apply State.performHome_wf | dsimp only | split | refine foldl_wf _ (fun s x hm => ?_) _ _ ?_ | refine foldl_snd_wf _ (fun s x hm => ?_) _ _ ?_ | (simp; done) | (simp; assumption) | (simp))
theorem State.advance_wf (x0 x1 s) (hm : Memory.wf s.mem = true) : Memory.wf (State.advance x0 x1 s).mem = true := by
  induction x1 generalizing s with
  | zero => exact hm
  | succ n ih =>
    rw [State.advance]
    (repeat' split) <;> first
      | exact hm
      | exact ih _ (by simpa using hm)
      | exact ih _ (State.continue_wf _ _ _ (by simpa using hm))
theorem State.commit_wf (s x1 x2 x3 x4) (hm : Memory.wf s.mem = true) : Memory.wf ((@State.commit s x1 x2 x3 x4).mem) = true := by
  unfold State.commit; repeat' (first | assumption | intro _ | apply State.advance_wf | dsimp only | split | refine foldl_wf _ (fun s x hm => ?_) _ _ ?_ | refine foldl_snd_wf _ (fun s x hm => ?_) _ _ ?_ | (simp; done) | (simp; assumption) | (simp))
theorem State.settleFence_wf (s x1 x2 x3) (hm : Memory.wf s.mem = true) : Memory.wf ((@State.settleFence s x1 x2 x3).mem) = true := by
  unfold State.settleFence; repeat' (first | assumption | intro _ | apply State.commit_wf | dsimp only | split | refine foldl_wf _ (fun s x hm => ?_) _ _ ?_ | refine foldl_snd_wf _ (fun s x hm => ?_) _ _ ?_ | (simp; done) | (simp; assumption) | (simp))
@[simp] theorem State.settleCwt_mem (s x1 x2 x3) : (@State.settleCwt s x1 x2 x3).mem = s.mem := by
  unfold State.settleCwt; (try dsimp only); (repeat' split) <;> first | rfl | simp
theorem State.settlePark_wf (s x1 x2 x3 x4) (hm : Memory.wf s.mem = true) : Memory.wf (State.settlePark s x1 x2 x3 x4).mem = true := by
  unfold State.settlePark
  cases x4.park <;> dsimp only
  all_goals first
    | exact hm
    | exact State.settleFence_wf _ _ _ _ hm
    | (simpa using hm; done)
    | (split <;> first | exact hm | (simpa using hm; done) | (split <;> first | exact hm | (simpa using hm; done)))
@[simp] theorem State.modThread_mem (s x1 x2 x3) : (@State.modThread s x1 x2 x3).mem = s.mem := by
  rfl
@[simp] theorem State.settleHalt_mem (s x1 x2 x3) : (@State.settleHalt s x1 x2 x3).mem = s.mem := by
  unfold State.settleHalt; (try dsimp only); (repeat' split) <;> first | rfl | simp
theorem State.settleThread_wf (x0 s x2) (hm : Memory.wf s.mem = true) : Memory.wf ((@State.settleThread x0 s x2).mem) = true := by
  unfold State.settleThread; repeat' (first | assumption | intro _ | apply State.settlePark_wf | dsimp only | split | refine foldl_wf _ (fun s x hm => ?_) _ _ ?_ | refine foldl_snd_wf _ (fun s x hm => ?_) _ _ ?_ | (simp; done) | (simp; assumption) | (simp))
@[simp] theorem State.endBar_mem (s x1) : (@State.endBar s x1).mem = s.mem := by
  rfl
theorem State.startCkpt_wf (s x1) (hm : Memory.wf s.mem = true) : Memory.wf ((@State.startCkpt s x1).mem) = true := by
  unfold State.startCkpt; repeat' (first | assumption | intro _ | apply State.commit_wf | dsimp only | split | refine foldl_wf _ (fun s x hm => ?_) _ _ ?_ | refine foldl_snd_wf _ (fun s x hm => ?_) _ _ ?_ | (simp; done) | (simp; assumption) | (simp))
theorem State.settleMeet_wf (s x1) (hm : Memory.wf s.mem = true) : Memory.wf ((@State.settleMeet s x1).mem) = true := by
  unfold State.settleMeet; repeat' (first | assumption | intro _ | apply State.startCkpt_wf | dsimp only | split | refine foldl_wf _ (fun s x hm => ?_) _ _ ?_ | refine foldl_snd_wf _ (fun s x hm => ?_) _ _ ?_ | (simp; done) | (simp; assumption) | (simp))
theorem State.settleWork_wf (s b) (hm : Memory.wf s.mem = true) : Memory.wf (State.settleWork s b).mem = true := by
  have h1 (c : Bool) : Memory.wf (if c = true then (List.range b.threads.length).foldl (State.settleThread b.bid) s else s).mem = true := by
    split
    · exact foldl_wf _ (fun s x h => State.settleThread_wf _ _ _ h) _ _ hm
    · exact hm
  have h2 (c : Bool) (t : State) (ht : Memory.wf t.mem = true) : Memory.wf (if c = true then t.settleMeet b.bid else t).mem = true := by
    split
    · exact State.settleMeet_wf _ _ ht
    · exact ht
  have h3 (c : Bool) (t : State) (ht : Memory.wf t.mem = true) :
      Memory.wf (if c = true then t else State.advance b.bid commitFuel t).mem = true := by
    split
    · exact ht
    · exact State.advance_wf _ _ _ ht
  exact h3 _ _ (h2 _ _ (h1 _))
theorem State.commitSave_wf (s x1) (hm : Memory.wf s.mem = true) : Memory.wf ((@State.commitSave s x1).mem) = true := by
  unfold State.commitSave; repeat' (first | assumption | intro _ | apply State.commit_wf | apply State.advance_wf | dsimp only | split | refine foldl_wf _ (fun s x hm => ?_) _ _ ?_ | refine foldl_snd_wf _ (fun s x hm => ?_) _ _ ?_ | (simp; done) | (simp; assumption) | (simp))
@[simp] theorem State.completeCmd_mem (s x1 x2 x3 x4 x5 x6) : (@State.completeCmd s x1 x2 x3 x4 x5 x6).mem = s.mem := by
  unfold State.completeCmd; repeat' (first | rfl | (refine (foldl_mem _ (fun s x => ?_) _ _).trans ?_) | split | (simp; done) | dsimp only)
@[simp] theorem State.endXfer_mem (s x1 x2 x3) : (@State.endXfer s x1 x2 x3).mem = s.mem := by
  simp [State.endXfer]
@[simp] theorem State.cancelRound_mem (s x1) : (@State.cancelRound s x1).mem = s.mem := by
  unfold State.cancelRound; repeat' (first | rfl | (refine (foldl_mem _ (fun s x => ?_) _ _).trans ?_) | split | (simp; done) | dsimp only)
@[simp] theorem State.cancelRounds_mem (s x1 x2) : (@State.cancelRounds s x1 x2).mem = s.mem := by
  unfold State.cancelRounds; repeat' (first | rfl | (refine (foldl_mem _ (fun s x => ?_) _ _).trans ?_) | split | (simp; done) | dsimp only)
theorem State.beginSave_wf (s x1) (hm : Memory.wf s.mem = true) : Memory.wf ((@State.beginSave s x1).mem) = true := by
  unfold State.beginSave; repeat' (first | assumption | intro _ | apply State.commitSave_wf | dsimp only | split | refine foldl_wf _ (fun s x hm => ?_) _ _ ?_ | refine foldl_snd_wf _ (fun s x hm => ?_) _ _ ?_ | (simp; done) | (simp; assumption) | (simp))
theorem State.emptyCore_wf (s x1) (hm : Memory.wf s.mem = true) : Memory.wf ((@State.emptyCore s x1).mem) = true := by
  unfold State.emptyCore; repeat' (first | assumption | intro _ | apply State.beginSave_wf | dsimp only | split | refine foldl_wf _ (fun s x hm => ?_) _ _ ?_ | refine foldl_snd_wf _ (fun s x hm => ?_) _ _ ?_ | (simp; done) | (simp; assumption) | (simp))
@[simp] theorem State.wake_mem (s x1 x2 x3 x4) : (@State.wake s x1 x2 x3 x4).mem = s.mem := by
  rfl
@[simp] theorem State.putWord_mem (s x1 x2 x3 x4) : (@State.putWord s x1 x2 x3 x4).mem = s.mem := by
  simp [State.putWord]
@[simp] theorem State.breakWord_mem (s x1 x2 x3) : (@State.breakWord s x1 x2 x3).mem = s.mem := by
  unfold State.breakWord; (try dsimp only); (repeat' split) <;> first | rfl | simp
@[simp] theorem State.failLine_mem (s x1 x2) : (@State.failLine s x1 x2).mem = s.mem := by
  unfold State.failLine; (try dsimp only); (repeat' split) <;> first | rfl | simp
@[simp] theorem State.childDone_mem (s x1 x2 x3 x4 x5) : (@State.childDone s x1 x2 x3 x4 x5).mem = s.mem := by
  rfl
@[simp] theorem State.modLaunch_mem (s x1 x2) : (@State.modLaunch s x1 x2).mem = s.mem := by
  rfl
@[simp] theorem State.close_mem (s x1 x2 x3) : (@State.close s x1 x2 x3).mem = s.mem := by
  rfl
@[simp] theorem State.modGraph_mem (s x1 x2) : (@State.modGraph s x1 x2).mem = s.mem := by
  rfl
@[simp] theorem State.becomeDue_mem (s x1 x2) : (@State.becomeDue s x1 x2).mem = s.mem := by
  rfl
@[simp] theorem State.nextPhase_mem (s x1 x2) : (@State.nextPhase s x1 x2).mem = s.mem := by
  rfl
@[simp] theorem State.jobOver_mem (s x1) : (@State.jobOver s x1).mem = s.mem := by
  unfold State.jobOver; (try dsimp only); (repeat' split) <;> first | rfl | simp
@[simp] theorem State.coin_mem (s) : ((@State.coin s).2).mem = s.mem := by
  rfl
@[simp] theorem walkFrom_mem (x0 x1 x2 x3 s) : ((@walkFrom x0 x1 x2 x3 s).2).mem = s.mem := by
  fun_induction walkFrom x0 x1 x2 x3 s <;> first | rfl | (rename_i ih; rw [ih]; simp +zetaDelta; done) | simp +zetaDelta [*]
@[simp] theorem State.walk_mem (s x1 x2 x3) : ((@State.walk s x1 x2 x3).2).mem = s.mem := by
  unfold State.walk; (try dsimp only); (repeat' split) <;> first | rfl | simp
@[simp] theorem State.leafNow_mem (s x1 x2 x3) : ((@State.leafNow s x1 x2 x3).2).mem = s.mem := by
  unfold State.leafNow; (try dsimp only); (repeat' split) <;> first | rfl | simp
@[simp] theorem State.leafOf_mem (s x1 x2 x3) : ((@State.leafOf s x1 x2 x3).2).mem = s.mem := by
  unfold State.leafOf; (try dsimp only); (repeat' split) <;> first | rfl | simp
@[simp] theorem State.translate_mem (s x1 x2 x3 x4) : ((@State.translate s x1 x2 x3 x4).2).mem = s.mem := by
  unfold State.translate; (try dsimp only); (repeat' split) <;> first | rfl | simp
@[simp] theorem State.xlate_mem (x0 x1 x2 s) : ((@State.xlate x0 x1 x2 s).2).mem = s.mem := by
  fun_induction State.xlate x0 x1 x2 s <;> first | rfl | simp +zetaDelta [*]
@[simp] theorem State.dispLines_mem (s x1 x2 x3 x4) : ((@State.dispLines s x1 x2 x3 x4).2).mem = s.mem := by
  unfold State.dispLines; (try dsimp only); (repeat' split) <;> first | rfl | simp
@[simp] theorem State.dispWaits_mem (s x1 x2) : (@State.dispWaits s x1 x2).mem = s.mem := by
  rfl
theorem State.dispFault_wf (s x1 x2 x3 x4 x5) (hm : Memory.wf s.mem = true) : Memory.wf ((@State.dispFault s x1 x2 x3 x4 x5).mem) = true := by
  unfold State.dispFault; repeat' (first | assumption | intro _ | apply State.settleRecords_wf | dsimp only | split | refine foldl_wf _ (fun s x hm => ?_) _ _ ?_ | refine foldl_snd_wf _ (fun s x hm => ?_) _ _ ?_ | (simp; done) | (simp; assumption) | (simp))
@[simp] theorem State.dispSend_mem (s x1 x2 x3 x4 x5 x6 x7) : (@State.dispSend s x1 x2 x3 x4 x5 x6 x7).mem = s.mem := by
  rfl
@[simp] theorem State.overwritten_mem (s x1 x2 x3) : (@State.overwritten s x1 x2 x3).mem = s.mem := by
  rfl
theorem State.putGlobal_wf (s x1 x2 x3 x4) (hm : Memory.wf s.mem = true) : Memory.wf ((@State.putGlobal s x1 x2 x3 x4).mem) = true := by
  unfold State.putGlobal; repeat' (first | assumption | apply State.writeMem_wf | dsimp only | split | refine foldl_wf _ (fun s x hm => ?_) _ _ ?_ | refine foldl_snd_wf _ (fun s x hm => ?_) _ _ ?_ | (simp; done) | (simp; assumption) | (simp))
theorem State.jobWord_wf (s x1) (hm : Memory.wf s.mem = true) : Memory.wf (State.jobWord s x1).mem = true := by
  unfold State.jobWord
  split
  · simpa using hm
  · dsimp only
    split
    · exact State.dispFault_wf _ _ _ _ _ _ (by simpa using hm)
    · split
      · simpa using hm
      · rw [State.jobOver_mem]
        exact foldl_wf _ (fun s x h => State.putGlobal_wf _ _ _ _ _ h) _ _ (by simpa using hm)
@[simp] theorem State.modJob_mem (s x1 x2) : (@State.modJob s x1 x2).mem = s.mem := by
  rfl
theorem State.climbJob_wf (s x1) (hm : Memory.wf s.mem = true) : Memory.wf ((@State.climbJob s x1).mem) = true := by
  unfold State.climbJob; repeat' (first | assumption | intro _ | apply State.jobWord_wf | dsimp only | split | refine foldl_wf _ (fun s x hm => ?_) _ _ ?_ | refine foldl_snd_wf _ (fun s x hm => ?_) _ _ ?_ | (simp; done) | (simp; assumption) | (simp))
theorem State.phaseLeaves_wf (s x1 x2) (hm : Memory.wf s.mem = true) : Memory.wf ((@State.phaseLeaves s x1 x2).mem) = true := by
  unfold State.phaseLeaves; repeat' (first | assumption | intro _ | apply State.climbJob_wf | dsimp only | split | refine foldl_wf _ (fun s x hm => ?_) _ _ ?_ | refine foldl_snd_wf _ (fun s x hm => ?_) _ _ ?_ | (simp; done) | (simp; assumption) | (simp))
theorem State.climbPhase_wf (s x1) (hm : Memory.wf s.mem = true) : Memory.wf ((@State.climbPhase s x1).mem) = true := by
  unfold State.climbPhase; repeat' (first | assumption | intro _ | apply State.phaseLeaves_wf | dsimp only | split | refine foldl_wf _ (fun s x hm => ?_) _ _ ?_ | refine foldl_snd_wf _ (fun s x hm => ?_) _ _ ?_ | (simp; done) | (simp; assumption) | (simp))
theorem State.graphLeaves_wf (s x1 x2) (hm : Memory.wf s.mem = true) : Memory.wf ((@State.graphLeaves s x1 x2).mem) = true := by
  unfold State.graphLeaves; repeat' (first | assumption | intro _ | apply State.climbPhase_wf | dsimp only | split | refine foldl_wf _ (fun s x hm => ?_) _ _ ?_ | refine foldl_snd_wf _ (fun s x hm => ?_) _ _ ?_ | (simp; done) | (simp; assumption) | (simp))
theorem State.climbGraph_wf (s x1) (hm : Memory.wf s.mem = true) : Memory.wf ((@State.climbGraph s x1).mem) = true := by
  unfold State.climbGraph; repeat' (first | assumption | intro _ | apply State.graphLeaves_wf | dsimp only | split | refine foldl_wf _ (fun s x hm => ?_) _ _ ?_ | refine foldl_snd_wf _ (fun s x hm => ?_) _ _ ?_ | (simp; done) | (simp; assumption) | (simp))
@[simp] theorem State.settleNode_mem (x0 s x2) : (@State.settleNode x0 s x2).mem = s.mem := by
  unfold State.settleNode; (try dsimp only); (repeat' split) <;> first | rfl | simp
@[simp] theorem State.settleNodes_mem (s x1) : (@State.settleNodes s x1).mem = s.mem := by
  unfold State.settleNodes; repeat' (first | rfl | (refine (foldl_mem _ (fun s x => ?_) _ _).trans ?_) | split | (simp; done) | dsimp only)
theorem State.climbLaunch_wf (s x1) (hm : Memory.wf s.mem = true) : Memory.wf ((@State.climbLaunch s x1).mem) = true := by
  unfold State.climbLaunch; repeat' (first | assumption | intro _ | apply State.climbGraph_wf | dsimp only | split | refine foldl_wf _ (fun s x hm => ?_) _ _ ?_ | refine foldl_snd_wf _ (fun s x hm => ?_) _ _ ?_ | (simp; done) | (simp; assumption) | (simp))
@[simp] theorem State.cancelMatrix_mem (s x1 x2) : (@State.cancelMatrix s x1 x2).mem = s.mem := by
  unfold State.cancelMatrix; repeat' (first | rfl | (refine (foldl_mem _ (fun s x => ?_) _ _).trans ?_) | split | (simp; done) | dsimp only)
@[simp] theorem State.cancelWaiting_mem (s x1 x2) : (State.cancelWaiting s x1 x2).mem = s.mem := by
  unfold State.cancelWaiting
  dsimp only
  rw [State.cancelMatrix_mem, State.cancelRounds_mem]
  exact foldl_mem _ (fun s x => by simp) _ _
@[simp] theorem State.freeRows_mem (s x1 x2) : (@State.freeRows s x1 x2).mem = s.mem := by
  rfl
@[simp] theorem State.stopOne_mem (s x1) : (@State.stopOne s x1).mem = s.mem := by
  unfold State.stopOne; (try dsimp only); (repeat' split) <;> first | rfl | simp
@[simp] theorem State.cancelLaunch_mem (s x1) : (@State.cancelLaunch s x1).mem = s.mem := by
  unfold State.cancelLaunch; (try dsimp only); (repeat' split) <;> first | rfl | simp
@[simp] theorem State.killOne_mem (s x1) : (@State.killOne s x1).mem = s.mem := by
  unfold State.killOne; (try dsimp only); (repeat' split) <;> first | rfl | simp
@[simp] theorem State.killLaunch_mem (s x1) : (@State.killLaunch s x1).mem = s.mem := by
  unfold State.killLaunch; repeat' (first | rfl | (refine (foldl_mem _ (fun s x => ?_) _ _).trans ?_) | split | (simp; done) | dsimp only)
theorem State.killWhole_wf (s x1) (hm : Memory.wf s.mem = true) : Memory.wf ((@State.killWhole s x1).mem) = true := by
  unfold State.killWhole; repeat' (first | assumption | intro _ | apply State.climbLaunch_wf | dsimp only | split | refine foldl_wf _ (fun s x hm => ?_) _ _ ?_ | refine foldl_snd_wf _ (fun s x hm => ?_) _ _ ?_ | (simp; done) | (simp; assumption) | (simp))
theorem State.killPartition_wf (s x1) (hm : Memory.wf s.mem = true) : Memory.wf ((@State.killPartition s x1).mem) = true := by
  unfold State.killPartition; repeat' (first | assumption | intro _ | apply State.killWhole_wf | dsimp only | split | refine foldl_wf _ (fun s x hm => ?_) _ _ ?_ | refine foldl_snd_wf _ (fun s x hm => ?_) _ _ ?_ | (simp; done) | (simp; assumption) | (simp))
theorem State.fence_wf (s x1) (hm : Memory.wf s.mem = true) : Memory.wf (State.fence s x1).mem = true := by
  have a (l : List XCmd) (s : State) : (l.foldl (fun s c => s.failLine c 0x12) s).mem = s.mem := foldl_mem _ (fun s x => by simp) _ _
  have b (p : Nat) (l : List Nat) (s : State) : (l.foldl (fun s e => if s.partOf e == p then s.modDie e (fun x => { x with fenced := true }) else s) s).mem = s.mem :=
    foldl_mem _ (fun s x => by split <;> simp) _ _
  unfold State.fence
  split
  · exact hm
  · dsimp only
    split
    · simpa using hm
    · split
      · exact State.emptyCore_wf _ _ (by simpa using hm)
      · split
        · exact foldl_wf _ (fun s x h => State.emptyCore_wf _ _ h) _ _ (by rw [a]; simpa using hm)
        · exact State.killPartition_wf _ _ (by rw [b]; simpa using hm)
theorem State.islandError_wf (s x1) (hm : Memory.wf s.mem = true) : Memory.wf ((@State.islandError s x1).mem) = true := by
  unfold State.islandError; repeat' (first | assumption | intro _ | apply State.fence_wf | dsimp only | split | refine foldl_wf _ (fun s x hm => ?_) _ _ ?_ | refine foldl_snd_wf _ (fun s x hm => ?_) _ _ ?_ | (simp; done) | (simp; assumption) | (simp))
theorem State.countErrors_wf (s x1) (hm : Memory.wf s.mem = true) : Memory.wf ((@State.countErrors s x1).mem) = true := by
  unfold State.countErrors; repeat' (first | assumption | intro _ | apply State.islandError_wf | dsimp only | split | refine foldl_wf _ (fun s x hm => ?_) _ _ ?_ | refine foldl_snd_wf _ (fun s x hm => ?_) _ _ ?_ | (simp; done) | (simp; assumption) | (simp))
@[simp] theorem State.rewind_mem (s x1 x2) : (@State.rewind s x1 x2).mem = s.mem := by
  simp [State.rewind]
theorem State.logFault_wf (s x1 x2 x3 x4 x5 x6 x7 x8 x9) (hm : Memory.wf s.mem = true) : Memory.wf ((@State.logFault s x1 x2 x3 x4 x5 x6 x7 x8 x9).mem) = true := by
  unfold State.logFault
  dsimp only
  split
  · simp only [State.irq_mem, State.setVf_mem]
    exact State.writeMem_wf _ _ _ hm
  · simpa using hm
theorem State.logBlock_wf (s x1 x2 x3 x4 x5 x6 x7) (hm : Memory.wf s.mem = true) : Memory.wf ((@State.logBlock s x1 x2 x3 x4 x5 x6 x7).mem) = true := by
  unfold State.logBlock
  dsimp only
  split
  · rw [State.event_mem]
    exact State.logFault_wf _ _ _ _ _ _ _ _ _ _ hm
  · exact State.logFault_wf _ _ _ _ _ _ _ _ _ _ hm
theorem State.logErrors_wf (s x1 x2) (hm : Memory.wf s.mem = true) : Memory.wf ((@State.logErrors s x1 x2).mem) = true := by
  unfold State.logErrors; repeat' (first | assumption | intro _ | apply State.logBlock_wf | dsimp only | split | refine foldl_wf _ (fun s x hm => ?_) _ _ ?_ | refine foldl_snd_wf _ (fun s x hm => ?_) _ _ ?_ | (simp; done) | (simp; assumption) | (simp))
@[simp] theorem State.lowerRail_mem (s x1) : (@State.lowerRail s x1).mem = s.mem := by
  unfold State.lowerRail; (try dsimp only); (repeat' split) <;> first | rfl | simp
@[simp] theorem State.vacate_mem (s x1 x2 x3) : (@State.vacate s x1 x2 x3).mem = s.mem := by
  simp [State.vacate]
theorem State.rollback_wf (s x1) (hm : Memory.wf s.mem = true) : Memory.wf ((@State.rollback s x1).mem) = true := by
  unfold State.rollback
  split
  · dsimp only
    simp only [State.vacate_mem, State.freeRows_mem, State.modBlock_mem, State.rewind_mem, State.cancelRounds_mem]
    exact State.logErrors_wf _ _ _ hm
  · exact State.killWhole_wf _ _ (State.logErrors_wf _ _ _ hm)
@[simp] theorem State.rewindCopy_mem (s x1) : (@State.rewindCopy s x1).mem = s.mem := by
  unfold State.rewindCopy; (try dsimp only); (repeat' split) <;> first | rfl | simp
theorem State.rollbackPair_wf (s x1 x2) (hm : Memory.wf s.mem = true) : Memory.wf ((@State.rollbackPair s x1 x2).mem) = true := by
  unfold State.rollbackPair; repeat' (first | assumption | intro _ | apply State.logErrors_wf | apply State.killWhole_wf | dsimp only | split | refine foldl_wf _ (fun s x hm => ?_) _ _ ?_ | refine foldl_snd_wf _ (fun s x hm => ?_) _ _ ?_ | (simp; done) | (simp; assumption) | (simp))
theorem State.settleErrors_wf (s x1) (hm : Memory.wf s.mem = true) : Memory.wf ((@State.settleErrors s x1).mem) = true := by
  unfold State.settleErrors; repeat' (first | assumption | intro _ | apply State.countErrors_wf | apply State.rollback_wf | apply State.rollbackPair_wf | dsimp only | split | refine foldl_wf _ (fun s x hm => ?_) _ _ ?_ | refine foldl_snd_wf _ (fun s x hm => ?_) _ _ ?_ | (simp; done) | (simp; assumption) | (simp))
theorem State.settleFaults_wf (s b) (hm : Memory.wf s.mem = true) : Memory.wf (State.settleFaults s b).mem = true := by
  have h4 (c : Bool) : Memory.wf (if c = true then s else s.settleErrors b.bid).mem = true := by
    split
    · exact hm
    · exact State.settleErrors_wf _ _ hm
  have h5 (c : Bool) (t : State) (ht : Memory.wf t.mem = true) : Memory.wf (if c = true then t.consumes b.bid 0x90 0 else t).mem = true := by
    split
    · rw [State.consumes_mem]; exact ht
    · exact ht
  exact h5 _ _ (h4 _)
@[simp] theorem State.freeEnded_mem (s x1) : (@State.freeEnded s x1).mem = s.mem := by
  unfold State.freeEnded; (try dsimp only); (repeat' split) <;> first | rfl | simp
@[simp] theorem State.removeBlock_mem (s x1) : (@State.removeBlock s x1).mem = s.mem := by
  simp [State.removeBlock]
theorem State.settleBlock_wf (s x1) (hm : Memory.wf s.mem = true) : Memory.wf (State.settleBlock s x1).mem = true := by
  unfold State.settleBlock
  split
  · exact hm
  · dsimp only
    split
    · exact State.settleWork_wf _ _ hm
    · split
      · rw [State.removeBlock_mem]
        exact State.settleFaults_wf _ _ (by rw [State.freeEnded_mem]; exact State.settleWork_wf _ _ hm)
      · exact State.settleFaults_wf _ _ (by rw [State.freeEnded_mem]; exact State.settleWork_wf _ _ hm)
@[simp] theorem State.startMatrix_mem (s x1 x2 x3) : (@State.startMatrix s x1 x2 x3).mem = s.mem := by
  unfold State.startMatrix; (try dsimp only); (repeat' split) <;> first | rfl | simp
@[simp] theorem State.settleEngine_mem (s x1) : (@State.settleEngine s x1).mem = s.mem := by
  unfold State.settleEngine; (try dsimp only); (repeat' split) <;> first | rfl | simp
@[simp] theorem State.settleLoan_mem (s x1) : (@State.settleLoan s x1).mem = s.mem := by
  unfold State.settleLoan; (try dsimp only); (repeat' split) <;> first | rfl | simp
@[simp] theorem State.settleKilled_mem (s x1) : (@State.settleKilled s x1).mem = s.mem := by
  unfold State.settleKilled; (try dsimp only); (repeat' split) <;> first | rfl | simp
@[simp] theorem State.settleStep_mem (s x1) : (@State.settleStep s x1).mem = s.mem := by
  unfold State.settleStep; (try dsimp only); (repeat' split) <;> first | rfl | simp
@[simp] theorem State.setMig_mem (s x1 x2) : (@State.setMig s x1 x2).mem = s.mem := by
  rfl
@[simp] theorem State.settlePull_mem (s x1) : (@State.settlePull s x1).mem = s.mem := by
  unfold State.settlePull; (try dsimp only); (repeat' split) <;> first | rfl | simp
theorem State.saveAll_wf (s x1) (hm : Memory.wf s.mem = true) : Memory.wf ((@State.saveAll s x1).mem) = true := by
  unfold State.saveAll; repeat' (first | assumption | intro _ | apply State.beginSave_wf | dsimp only | split | refine foldl_wf _ (fun s x hm => ?_) _ _ ?_ | refine foldl_snd_wf _ (fun s x hm => ?_) _ _ ?_ | (simp; done) | (simp; assumption) | (simp))
@[simp] theorem State.dropWork_mem (s x1) : (@State.dropWork s x1).mem = s.mem := by
  rfl
theorem State.settleSource_wf (s x1) (hm : Memory.wf s.mem = true) : Memory.wf ((@State.settleSource s x1).mem) = true := by
  unfold State.settleSource; repeat' (first | assumption | intro _ | apply State.saveAll_wf | dsimp only | split | refine foldl_wf _ (fun s x hm => ?_) _ _ ?_ | refine foldl_snd_wf _ (fun s x hm => ?_) _ _ ?_ | (simp; done) | (simp; assumption) | (simp))
@[simp] theorem State.settleAges_mem (s) : (@State.settleAges s).mem = s.mem := by
  rfl
@[simp] theorem State.freeCounters_mem (s) : (@State.freeCounters s).mem = s.mem := by
  rfl
theorem State.settle_wf (s) (hm : Memory.wf s.mem = true) : Memory.wf ((@State.settle s).mem) = true := by
  unfold State.settle; repeat' (first | assumption | intro _ | apply State.settleBlock_wf | apply State.settleSource_wf | dsimp only | split | refine foldl_wf _ (fun s x hm => ?_) _ _ ?_ | refine foldl_snd_wf _ (fun s x hm => ?_) _ _ ?_ | (simp; done) | (simp; assumption) | (simp))
@[simp] theorem State.countTime_mem (s x1) : (@State.countTime s x1).mem = s.mem := by
  unfold State.countTime; repeat' (first | rfl | (refine (foldl_mem _ (fun s x => ?_) _ _).trans ?_) | split | (simp; done) | dsimp only)
@[simp] theorem State.tuned_mem (s) : (@State.tuned s).mem = s.mem := by
  unfold State.tuned; (try dsimp only); (repeat' split) <;> first | rfl | simp
@[simp] theorem State.poison_mem (s x1 x2) : (@State.poison s x1 x2).mem = s.mem := by
  rfl
@[simp] theorem State.struck_mem (s) : (@State.struck s).mem = s.mem := by
  unfold State.struck; (try dsimp only); (repeat' split) <;> first | rfl | simp
@[simp] theorem State.elapsed_mem (s) : (@State.elapsed s).mem = s.mem := by
  simp [State.elapsed]
theorem State.tick_wf (s) (hm : Memory.wf s.mem = true) : Memory.wf ((@State.tick s).mem) = true := by
  unfold State.tick; repeat' (first | assumption | intro _ | apply State.settle_wf | dsimp only | split | refine foldl_wf _ (fun s x hm => ?_) _ _ ?_ | refine foldl_snd_wf _ (fun s x hm => ?_) _ _ ?_ | (simp; done) | (simp; assumption) | (simp))
theorem State.popIssue_wf (s) (hm : Memory.wf s.mem = true) : Memory.wf ((@State.popIssue s).mem) = true := by
  unfold State.popIssue; repeat' (first | assumption | intro _ | apply State.endPacket_wf | dsimp only | split | refine foldl_wf _ (fun s x hm => ?_) _ _ ?_ | refine foldl_snd_wf _ (fun s x hm => ?_) _ _ ?_ | (simp; done) | (simp; assumption) | (simp))
@[simp] theorem State.killBlock_mem (s x1) : (@State.killBlock s x1).mem = s.mem := by
  unfold State.killBlock; (try dsimp only); (repeat' split) <;> first | rfl | simp
theorem State.takeFault_wf (s x1 x2 x3 x4 x5 x6 x7) (hm : Memory.wf s.mem = true) : Memory.wf ((@State.takeFault s x1 x2 x3 x4 x5 x6 x7).mem) = true := by
  unfold State.takeFault; repeat' (first | assumption | intro _ | apply State.logBlock_wf | dsimp only | split | refine foldl_wf _ (fun s x hm => ?_) _ _ ?_ | refine foldl_snd_wf _ (fun s x hm => ?_) _ _ ?_ | (simp; done) | (simp; assumption) | (simp))
theorem State.asyncFault_wf (s x1 x2 x3 x4) (hm : Memory.wf s.mem = true) : Memory.wf ((@State.asyncFault s x1 x2 x3 x4).mem) = true := by
  unfold State.asyncFault; repeat' (first | assumption | intro _ | apply State.takeFault_wf | dsimp only | split | refine foldl_wf _ (fun s x hm => ?_) _ _ ?_ | refine foldl_snd_wf _ (fun s x hm => ?_) _ _ ?_ | (simp; done) | (simp; assumption) | (simp))
theorem State.syncFault_wf (s x1 x2 x3 x4) (hm : Memory.wf s.mem = true) : Memory.wf ((@State.syncFault s x1 x2 x3 x4).mem) = true := by
  unfold State.syncFault; repeat' (first | assumption | intro _ | apply State.endPacket_wf | apply State.takeFault_wf | dsimp only | split | refine foldl_wf _ (fun s x hm => ?_) _ _ ?_ | refine foldl_snd_wf _ (fun s x hm => ?_) _ _ ?_ | (simp; done) | (simp; assumption) | (simp))
@[simp] theorem seeEarly_mem (x0 x1 x2 s) : ((@seeEarly x0 x1 x2 s).2).mem = s.mem := by
  fun_induction seeEarly x0 x1 x2 s <;> first | rfl | simp +zetaDelta [*]
theorem execRpt_wf (x0 x1 x2 x3 x4 s) (hm : Memory.wf s.mem = true) : Memory.wf (Out.memory (@execRpt x0 x1 x2 x3 x4 s) s.mem) = true := by
  unfold execRpt; repeat' (first | assumption | intro _ | apply State.syncFault_wf | dsimp only | split | refine foldl_wf _ (fun s x hm => ?_) _ _ ?_ | refine foldl_snd_wf _ (fun s x hm => ?_) _ _ ?_ | (simp; done) | (simp; assumption) | (simp))
theorem State.gate_wf (s : State) (u c k) (off act : State) (hm : Memory.wf s.mem = true) (ho : Memory.wf off.mem = true)
    (ha : Memory.wf act.mem = true) : Memory.wf (s.gate u c k off act).mem = true := by
  unfold State.gate
  (repeat' split) <;> first | assumption | exact State.syncFault_wf _ _ _ _ _ hm
theorem State.retire_wf (s x1 x2 x3 x4 x5) (hm : Memory.wf s.mem = true) : Memory.wf ((@State.retire s x1 x2 x3 x4 x5).mem) = true := by
  unfold State.retire; repeat' (first | assumption | intro _ | apply State.popIssue_wf | dsimp only | split | refine foldl_wf _ (fun s x hm => ?_) _ _ ?_ | refine foldl_snd_wf _ (fun s x hm => ?_) _ _ ?_ | (simp; done) | (simp; assumption) | (simp))
theorem execWith_wf (c s k) (act : Cur → State) (hm : Memory.wf s.mem = true) (ha : ∀ u, Memory.wf (act u).mem = true) :
    Memory.wf (Out.memory (execWith c s k act) s.mem) = true := by
  unfold execWith
  split
  · exact hm
  · exact State.gate_wf _ _ _ _ _ _ hm (by first | exact State.retire_wf _ _ _ _ _ _ hm | simpa using hm) (ha _)
theorem State.done_wf (s x1 x2 x3 x4) (hm : Memory.wf s.mem = true) : Memory.wf ((@State.done s x1 x2 x3 x4).mem) = true := by
  unfold State.done; repeat' (first | assumption | intro _ | apply State.retire_wf | dsimp only | split | refine foldl_wf _ (fun s x hm => ?_) _ _ ?_ | refine foldl_snd_wf _ (fun s x hm => ?_) _ _ ?_ | (simp; done) | (simp; assumption) | (simp))
theorem execLocal_wf (x0 x1 s x3 x4) (hm : Memory.wf s.mem = true) : Memory.wf (Out.memory (@execLocal x0 x1 s x3 x4) s.mem) = true := by
  unfold execLocal; repeat' (first | assumption | intro _ | apply execWith_wf | apply State.done_wf | dsimp only | split | refine foldl_wf _ (fun s x hm => ?_) _ _ ?_ | refine foldl_snd_wf _ (fun s x hm => ?_) _ _ ?_ | (simp; done) | (simp; assumption) | (simp))
theorem execMov_wf (x0 x1 x2 x3 s) (hm : Memory.wf s.mem = true) : Memory.wf (Out.memory (@execMov x0 x1 x2 x3 s) s.mem) = true := by
  unfold execMov; repeat' (first | assumption | intro _ | apply execLocal_wf | dsimp only | split | refine foldl_wf _ (fun s x hm => ?_) _ _ ?_ | refine foldl_snd_wf _ (fun s x hm => ?_) _ _ ?_ | (simp; done) | (simp; assumption) | (simp))
theorem execMovi_wf (x0 x1 x2 s) (hm : Memory.wf s.mem = true) : Memory.wf (Out.memory (@execMovi x0 x1 x2 s) s.mem) = true := by
  unfold execMovi; repeat' (first | assumption | intro _ | apply execLocal_wf | dsimp only | split | refine foldl_wf _ (fun s x hm => ?_) _ _ ?_ | refine foldl_snd_wf _ (fun s x hm => ?_) _ _ ?_ | (simp; done) | (simp; assumption) | (simp))
theorem execSel_wf (x0 x1 x2 x3 x4 x5 s) (hm : Memory.wf s.mem = true) : Memory.wf (Out.memory (@execSel x0 x1 x2 x3 x4 x5 s) s.mem) = true := by
  unfold execSel; repeat' (first | assumption | intro _ | apply execLocal_wf | dsimp only | split | refine foldl_wf _ (fun s x hm => ?_) _ _ ?_ | refine foldl_snd_wf _ (fun s x hm => ?_) _ _ ?_ | (simp; done) | (simp; assumption) | (simp))
theorem execSelI_wf (x0 x1 x2 x3 s) (hm : Memory.wf s.mem = true) : Memory.wf (Out.memory (@execSelI x0 x1 x2 x3 s) s.mem) = true := by
  unfold execSelI; repeat' (first | assumption | intro _ | apply execLocal_wf | dsimp only | split | refine foldl_wf _ (fun s x hm => ?_) _ _ ?_ | refine foldl_snd_wf _ (fun s x hm => ?_) _ _ ?_ | (simp; done) | (simp; assumption) | (simp))
theorem execSrd_wf (x0 x1 x2 x3 s) (hm : Memory.wf s.mem = true) : Memory.wf (Out.memory (@execSrd x0 x1 x2 x3 s) s.mem) = true := by
  unfold execSrd; repeat' (first | assumption | intro _ | apply execLocal_wf | dsimp only | split | refine foldl_wf _ (fun s x hm => ?_) _ _ ?_ | refine foldl_snd_wf _ (fun s x hm => ?_) _ _ ?_ | (simp; done) | (simp; assumption) | (simp))
theorem execSwr_wf (x0 x1 s) (hm : Memory.wf s.mem = true) : Memory.wf (Out.memory (@execSwr x0 x1 s) s.mem) = true := by
  unfold execSwr; repeat' (first | assumption | intro _ | apply execLocal_wf | dsimp only | split | refine foldl_wf _ (fun s x hm => ?_) _ _ ?_ | refine foldl_snd_wf _ (fun s x hm => ?_) _ _ ?_ | (simp; done) | (simp; assumption) | (simp))
theorem execPlop_wf (x0 x1 x2 x3 x4 x5 s) (hm : Memory.wf s.mem = true) : Memory.wf (Out.memory (@execPlop x0 x1 x2 x3 x4 x5 s) s.mem) = true := by
  unfold execPlop; repeat' (first | assumption | intro _ | apply execLocal_wf | dsimp only | split | refine foldl_wf _ (fun s x hm => ?_) _ _ ?_ | refine foldl_snd_wf _ (fun s x hm => ?_) _ _ ?_ | (simp; done) | (simp; assumption) | (simp))
theorem execLea_wf (x0 x1 x2 x3 x4 x5 s) (hm : Memory.wf s.mem = true) : Memory.wf (Out.memory (@execLea x0 x1 x2 x3 x4 x5 s) s.mem) = true := by
  unfold execLea; repeat' (first | assumption | intro _ | apply execLocal_wf | dsimp only | split | refine foldl_wf _ (fun s x hm => ?_) _ _ ?_ | refine foldl_snd_wf _ (fun s x hm => ?_) _ _ ?_ | (simp; done) | (simp; assumption) | (simp))
theorem execLeaI_wf (x0 x1 x2 x3 x4 s) (hm : Memory.wf s.mem = true) : Memory.wf (Out.memory (@execLeaI x0 x1 x2 x3 x4 s) s.mem) = true := by
  unfold execLeaI; repeat' (first | assumption | intro _ | apply execLocal_wf | dsimp only | split | refine foldl_wf _ (fun s x hm => ?_) _ _ ?_ | refine foldl_snd_wf _ (fun s x hm => ?_) _ _ ?_ | (simp; done) | (simp; assumption) | (simp))
theorem execInt2_wf (x0 x1 x2 x3 x4 x5 s) (hm : Memory.wf s.mem = true) : Memory.wf (Out.memory (@execInt2 x0 x1 x2 x3 x4 x5 s) s.mem) = true := by
  unfold execInt2; repeat' (first | assumption | intro _ | apply execLocal_wf | dsimp only | split | refine foldl_wf _ (fun s x hm => ?_) _ _ ?_ | refine foldl_snd_wf _ (fun s x hm => ?_) _ _ ?_ | (simp; done) | (simp; assumption) | (simp))
theorem execAdd_wf (x0 x1 x2 x3 x4 x5 s) (hm : Memory.wf s.mem = true) : Memory.wf (Out.memory (@execAdd x0 x1 x2 x3 x4 x5 s) s.mem) = true := by
  unfold execAdd; repeat' (first | assumption | intro _ | apply execInt2_wf | dsimp only | split | refine foldl_wf _ (fun s x hm => ?_) _ _ ?_ | refine foldl_snd_wf _ (fun s x hm => ?_) _ _ ?_ | (simp; done) | (simp; assumption) | (simp))
theorem execIntI_wf (x0 x1 x2 x3 x4 x5 s) (hm : Memory.wf s.mem = true) : Memory.wf (Out.memory (@execIntI x0 x1 x2 x3 x4 x5 s) s.mem) = true := by
  unfold execIntI; repeat' (first | assumption | intro _ | apply execLocal_wf | dsimp only | split | refine foldl_wf _ (fun s x hm => ?_) _ _ ?_ | refine foldl_snd_wf _ (fun s x hm => ?_) _ _ ?_ | (simp; done) | (simp; assumption) | (simp))
theorem execAddI_wf (x0 x1 x2 x3 x4 s) (hm : Memory.wf s.mem = true) : Memory.wf (Out.memory (@execAddI x0 x1 x2 x3 x4 s) s.mem) = true := by
  unfold execAddI; repeat' (first | assumption | intro _ | apply execIntI_wf | dsimp only | split | refine foldl_wf _ (fun s x hm => ?_) _ _ ?_ | refine foldl_snd_wf _ (fun s x hm => ?_) _ _ ?_ | (simp; done) | (simp; assumption) | (simp))
theorem execAddc_wf (x0 x1 x2 x3 x4 x5 s) (hm : Memory.wf s.mem = true) : Memory.wf (Out.memory (@execAddc x0 x1 x2 x3 x4 x5 s) s.mem) = true := by
  unfold execAddc; repeat' (first | assumption | intro _ | apply execLocal_wf | dsimp only | split | refine foldl_wf _ (fun s x hm => ?_) _ _ ?_ | refine foldl_snd_wf _ (fun s x hm => ?_) _ _ ?_ | (simp; done) | (simp; assumption) | (simp))
theorem execSub_wf (x0 x1 x2 x3 x4 x5 s) (hm : Memory.wf s.mem = true) : Memory.wf (Out.memory (@execSub x0 x1 x2 x3 x4 x5 s) s.mem) = true := by
  unfold execSub; repeat' (first | assumption | intro _ | apply execInt2_wf | dsimp only | split | refine foldl_wf _ (fun s x hm => ?_) _ _ ?_ | refine foldl_snd_wf _ (fun s x hm => ?_) _ _ ?_ | (simp; done) | (simp; assumption) | (simp))
theorem execSubI_wf (x0 x1 x2 x3 x4 s) (hm : Memory.wf s.mem = true) : Memory.wf (Out.memory (@execSubI x0 x1 x2 x3 x4 s) s.mem) = true := by
  unfold execSubI; repeat' (first | assumption | intro _ | apply execIntI_wf | dsimp only | split | refine foldl_wf _ (fun s x hm => ?_) _ _ ?_ | refine foldl_snd_wf _ (fun s x hm => ?_) _ _ ?_ | (simp; done) | (simp; assumption) | (simp))
theorem execSubb_wf (x0 x1 x2 x3 x4 x5 s) (hm : Memory.wf s.mem = true) : Memory.wf (Out.memory (@execSubb x0 x1 x2 x3 x4 x5 s) s.mem) = true := by
  unfold execSubb; repeat' (first | assumption | intro _ | apply execLocal_wf | dsimp only | split | refine foldl_wf _ (fun s x hm => ?_) _ _ ?_ | refine foldl_snd_wf _ (fun s x hm => ?_) _ _ ?_ | (simp; done) | (simp; assumption) | (simp))
theorem execMul_wf (x0 x1 x2 x3 x4 s) (hm : Memory.wf s.mem = true) : Memory.wf (Out.memory (@execMul x0 x1 x2 x3 x4 s) s.mem) = true := by
  unfold execMul; repeat' (first | assumption | intro _ | apply execInt2_wf | dsimp only | split | refine foldl_wf _ (fun s x hm => ?_) _ _ ?_ | refine foldl_snd_wf _ (fun s x hm => ?_) _ _ ?_ | (simp; done) | (simp; assumption) | (simp))
theorem execMulI_wf (x0 x1 x2 x3 x4 s) (hm : Memory.wf s.mem = true) : Memory.wf (Out.memory (@execMulI x0 x1 x2 x3 x4 s) s.mem) = true := by
  unfold execMulI; repeat' (first | assumption | intro _ | apply execIntI_wf | dsimp only | split | refine foldl_wf _ (fun s x hm => ?_) _ _ ?_ | refine foldl_snd_wf _ (fun s x hm => ?_) _ _ ?_ | (simp; done) | (simp; assumption) | (simp))
theorem execMulh_wf (x0 x1 x2 x3 x4 s) (hm : Memory.wf s.mem = true) : Memory.wf (Out.memory (@execMulh x0 x1 x2 x3 x4 s) s.mem) = true := by
  unfold execMulh; repeat' (first | assumption | intro _ | apply execInt2_wf | dsimp only | split | refine foldl_wf _ (fun s x hm => ?_) _ _ ?_ | refine foldl_snd_wf _ (fun s x hm => ?_) _ _ ?_ | (simp; done) | (simp; assumption) | (simp))
theorem execMad_wf (x0 x1 x2 x3 x4 x5 s) (hm : Memory.wf s.mem = true) : Memory.wf (Out.memory (@execMad x0 x1 x2 x3 x4 x5 s) s.mem) = true := by
  unfold execMad; repeat' (first | assumption | intro _ | apply execLocal_wf | dsimp only | split | refine foldl_wf _ (fun s x hm => ?_) _ _ ?_ | refine foldl_snd_wf _ (fun s x hm => ?_) _ _ ?_ | (simp; done) | (simp; assumption) | (simp))
theorem execMadI_wf (x0 x1 x2 x3 x4 s) (hm : Memory.wf s.mem = true) : Memory.wf (Out.memory (@execMadI x0 x1 x2 x3 x4 s) s.mem) = true := by
  unfold execMadI; repeat' (first | assumption | intro _ | apply execLocal_wf | dsimp only | split | refine foldl_wf _ (fun s x hm => ?_) _ _ ?_ | refine foldl_snd_wf _ (fun s x hm => ?_) _ _ ?_ | (simp; done) | (simp; assumption) | (simp))
theorem execMin_wf (x0 x1 x2 x3 x4 s) (hm : Memory.wf s.mem = true) : Memory.wf (Out.memory (@execMin x0 x1 x2 x3 x4 s) s.mem) = true := by
  unfold execMin; repeat' (first | assumption | intro _ | apply execInt2_wf | dsimp only | split | refine foldl_wf _ (fun s x hm => ?_) _ _ ?_ | refine foldl_snd_wf _ (fun s x hm => ?_) _ _ ?_ | (simp; done) | (simp; assumption) | (simp))
theorem execMinI_wf (x0 x1 x2 x3 x4 s) (hm : Memory.wf s.mem = true) : Memory.wf (Out.memory (@execMinI x0 x1 x2 x3 x4 s) s.mem) = true := by
  unfold execMinI; repeat' (first | assumption | intro _ | apply execIntI_wf | dsimp only | split | refine foldl_wf _ (fun s x hm => ?_) _ _ ?_ | refine foldl_snd_wf _ (fun s x hm => ?_) _ _ ?_ | (simp; done) | (simp; assumption) | (simp))
theorem execMax_wf (x0 x1 x2 x3 x4 s) (hm : Memory.wf s.mem = true) : Memory.wf (Out.memory (@execMax x0 x1 x2 x3 x4 s) s.mem) = true := by
  unfold execMax; repeat' (first | assumption | intro _ | apply execInt2_wf | dsimp only | split | refine foldl_wf _ (fun s x hm => ?_) _ _ ?_ | refine foldl_snd_wf _ (fun s x hm => ?_) _ _ ?_ | (simp; done) | (simp; assumption) | (simp))
theorem execMaxI_wf (x0 x1 x2 x3 x4 s) (hm : Memory.wf s.mem = true) : Memory.wf (Out.memory (@execMaxI x0 x1 x2 x3 x4 s) s.mem) = true := by
  unfold execMaxI; repeat' (first | assumption | intro _ | apply execIntI_wf | dsimp only | split | refine foldl_wf _ (fun s x hm => ?_) _ _ ?_ | refine foldl_snd_wf _ (fun s x hm => ?_) _ _ ?_ | (simp; done) | (simp; assumption) | (simp))
theorem execInt1_wf (x0 x1 x2 x3 x4 s) (hm : Memory.wf s.mem = true) : Memory.wf (Out.memory (@execInt1 x0 x1 x2 x3 x4 s) s.mem) = true := by
  unfold execInt1; repeat' (first | assumption | intro _ | apply execLocal_wf | dsimp only | split | refine foldl_wf _ (fun s x hm => ?_) _ _ ?_ | refine foldl_snd_wf _ (fun s x hm => ?_) _ _ ?_ | (simp; done) | (simp; assumption) | (simp))
theorem execAbs_wf (x0 x1 x2 x3 x4 s) (hm : Memory.wf s.mem = true) : Memory.wf (Out.memory (@execAbs x0 x1 x2 x3 x4 s) s.mem) = true := by
  unfold execAbs; repeat' (first | assumption | intro _ | apply execInt1_wf | dsimp only | split | refine foldl_wf _ (fun s x hm => ?_) _ _ ?_ | refine foldl_snd_wf _ (fun s x hm => ?_) _ _ ?_ | (simp; done) | (simp; assumption) | (simp))
theorem execCmp_wf (x0 x1 x2 x3 x4 x5 s) (hm : Memory.wf s.mem = true) : Memory.wf (Out.memory (@execCmp x0 x1 x2 x3 x4 x5 s) s.mem) = true := by
  unfold execCmp; repeat' (first | assumption | intro _ | apply execLocal_wf | dsimp only | split | refine foldl_wf _ (fun s x hm => ?_) _ _ ?_ | refine foldl_snd_wf _ (fun s x hm => ?_) _ _ ?_ | (simp; done) | (simp; assumption) | (simp))
theorem execCmpI_wf (x0 x1 x2 x3 x4 x5 s) (hm : Memory.wf s.mem = true) : Memory.wf (Out.memory (@execCmpI x0 x1 x2 x3 x4 x5 s) s.mem) = true := by
  unfold execCmpI; repeat' (first | assumption | intro _ | apply execLocal_wf | dsimp only | split | refine foldl_wf _ (fun s x hm => ?_) _ _ ?_ | refine foldl_snd_wf _ (fun s x hm => ?_) _ _ ?_ | (simp; done) | (simp; assumption) | (simp))
theorem execAnd_wf (x0 x1 x2 x3 x4 s) (hm : Memory.wf s.mem = true) : Memory.wf (Out.memory (@execAnd x0 x1 x2 x3 x4 s) s.mem) = true := by
  unfold execAnd; repeat' (first | assumption | intro _ | apply execInt2_wf | dsimp only | split | refine foldl_wf _ (fun s x hm => ?_) _ _ ?_ | refine foldl_snd_wf _ (fun s x hm => ?_) _ _ ?_ | (simp; done) | (simp; assumption) | (simp))
theorem execAndI_wf (x0 x1 x2 x3 x4 s) (hm : Memory.wf s.mem = true) : Memory.wf (Out.memory (@execAndI x0 x1 x2 x3 x4 s) s.mem) = true := by
  unfold execAndI; repeat' (first | assumption | intro _ | apply execIntI_wf | dsimp only | split | refine foldl_wf _ (fun s x hm => ?_) _ _ ?_ | refine foldl_snd_wf _ (fun s x hm => ?_) _ _ ?_ | (simp; done) | (simp; assumption) | (simp))
theorem execOr_wf (x0 x1 x2 x3 x4 s) (hm : Memory.wf s.mem = true) : Memory.wf (Out.memory (@execOr x0 x1 x2 x3 x4 s) s.mem) = true := by
  unfold execOr; repeat' (first | assumption | intro _ | apply execInt2_wf | dsimp only | split | refine foldl_wf _ (fun s x hm => ?_) _ _ ?_ | refine foldl_snd_wf _ (fun s x hm => ?_) _ _ ?_ | (simp; done) | (simp; assumption) | (simp))
theorem execOrI_wf (x0 x1 x2 x3 x4 s) (hm : Memory.wf s.mem = true) : Memory.wf (Out.memory (@execOrI x0 x1 x2 x3 x4 s) s.mem) = true := by
  unfold execOrI; repeat' (first | assumption | intro _ | apply execIntI_wf | dsimp only | split | refine foldl_wf _ (fun s x hm => ?_) _ _ ?_ | refine foldl_snd_wf _ (fun s x hm => ?_) _ _ ?_ | (simp; done) | (simp; assumption) | (simp))
theorem execXor_wf (x0 x1 x2 x3 x4 s) (hm : Memory.wf s.mem = true) : Memory.wf (Out.memory (@execXor x0 x1 x2 x3 x4 s) s.mem) = true := by
  unfold execXor; repeat' (first | assumption | intro _ | apply execInt2_wf | dsimp only | split | refine foldl_wf _ (fun s x hm => ?_) _ _ ?_ | refine foldl_snd_wf _ (fun s x hm => ?_) _ _ ?_ | (simp; done) | (simp; assumption) | (simp))
theorem execXorI_wf (x0 x1 x2 x3 x4 s) (hm : Memory.wf s.mem = true) : Memory.wf (Out.memory (@execXorI x0 x1 x2 x3 x4 s) s.mem) = true := by
  unfold execXorI; repeat' (first | assumption | intro _ | apply execIntI_wf | dsimp only | split | refine foldl_wf _ (fun s x hm => ?_) _ _ ?_ | refine foldl_snd_wf _ (fun s x hm => ?_) _ _ ?_ | (simp; done) | (simp; assumption) | (simp))
theorem execNot_wf (x0 x1 x2 x3 s) (hm : Memory.wf s.mem = true) : Memory.wf (Out.memory (@execNot x0 x1 x2 x3 s) s.mem) = true := by
  unfold execNot; repeat' (first | assumption | intro _ | apply execInt1_wf | dsimp only | split | refine foldl_wf _ (fun s x hm => ?_) _ _ ?_ | refine foldl_snd_wf _ (fun s x hm => ?_) _ _ ?_ | (simp; done) | (simp; assumption) | (simp))
theorem execShift_wf (x0 x1 x2 x3 x4 x5 s) (hm : Memory.wf s.mem = true) : Memory.wf (Out.memory (@execShift x0 x1 x2 x3 x4 x5 s) s.mem) = true := by
  unfold execShift; repeat' (first | assumption | intro _ | apply execLocal_wf | dsimp only | split | refine foldl_wf _ (fun s x hm => ?_) _ _ ?_ | refine foldl_snd_wf _ (fun s x hm => ?_) _ _ ?_ | (simp; done) | (simp; assumption) | (simp))
theorem execShl_wf (x0 x1 x2 x3 x4 s) (hm : Memory.wf s.mem = true) : Memory.wf (Out.memory (@execShl x0 x1 x2 x3 x4 s) s.mem) = true := by
  unfold execShl; repeat' (first | assumption | intro _ | apply execShift_wf | dsimp only | split | refine foldl_wf _ (fun s x hm => ?_) _ _ ?_ | refine foldl_snd_wf _ (fun s x hm => ?_) _ _ ?_ | (simp; done) | (simp; assumption) | (simp))
theorem execShiftI_wf (x0 x1 x2 x3 x4 x5 s) (hm : Memory.wf s.mem = true) : Memory.wf (Out.memory (@execShiftI x0 x1 x2 x3 x4 x5 s) s.mem) = true := by
  unfold execShiftI; repeat' (first | assumption | intro _ | apply execLocal_wf | dsimp only | split | refine foldl_wf _ (fun s x hm => ?_) _ _ ?_ | refine foldl_snd_wf _ (fun s x hm => ?_) _ _ ?_ | (simp; done) | (simp; assumption) | (simp))
theorem execShlI_wf (x0 x1 x2 x3 x4 s) (hm : Memory.wf s.mem = true) : Memory.wf (Out.memory (@execShlI x0 x1 x2 x3 x4 s) s.mem) = true := by
  unfold execShlI; repeat' (first | assumption | intro _ | apply execShiftI_wf | dsimp only | split | refine foldl_wf _ (fun s x hm => ?_) _ _ ?_ | refine foldl_snd_wf _ (fun s x hm => ?_) _ _ ?_ | (simp; done) | (simp; assumption) | (simp))
theorem execShr_wf (x0 x1 x2 x3 x4 s) (hm : Memory.wf s.mem = true) : Memory.wf (Out.memory (@execShr x0 x1 x2 x3 x4 s) s.mem) = true := by
  unfold execShr; repeat' (first | assumption | intro _ | apply execShift_wf | dsimp only | split | refine foldl_wf _ (fun s x hm => ?_) _ _ ?_ | refine foldl_snd_wf _ (fun s x hm => ?_) _ _ ?_ | (simp; done) | (simp; assumption) | (simp))
theorem execShrI_wf (x0 x1 x2 x3 x4 s) (hm : Memory.wf s.mem = true) : Memory.wf (Out.memory (@execShrI x0 x1 x2 x3 x4 s) s.mem) = true := by
  unfold execShrI; repeat' (first | assumption | intro _ | apply execShiftI_wf | dsimp only | split | refine foldl_wf _ (fun s x hm => ?_) _ _ ?_ | refine foldl_snd_wf _ (fun s x hm => ?_) _ _ ?_ | (simp; done) | (simp; assumption) | (simp))
theorem execRol_wf (x0 x1 x2 x3 x4 s) (hm : Memory.wf s.mem = true) : Memory.wf (Out.memory (@execRol x0 x1 x2 x3 x4 s) s.mem) = true := by
  unfold execRol; repeat' (first | assumption | intro _ | apply execShift_wf | dsimp only | split | refine foldl_wf _ (fun s x hm => ?_) _ _ ?_ | refine foldl_snd_wf _ (fun s x hm => ?_) _ _ ?_ | (simp; done) | (simp; assumption) | (simp))
theorem execRolI_wf (x0 x1 x2 x3 x4 s) (hm : Memory.wf s.mem = true) : Memory.wf (Out.memory (@execRolI x0 x1 x2 x3 x4 s) s.mem) = true := by
  unfold execRolI; repeat' (first | assumption | intro _ | apply execShiftI_wf | dsimp only | split | refine foldl_wf _ (fun s x hm => ?_) _ _ ?_ | refine foldl_snd_wf _ (fun s x hm => ?_) _ _ ?_ | (simp; done) | (simp; assumption) | (simp))
theorem execRor_wf (x0 x1 x2 x3 x4 s) (hm : Memory.wf s.mem = true) : Memory.wf (Out.memory (@execRor x0 x1 x2 x3 x4 s) s.mem) = true := by
  unfold execRor; repeat' (first | assumption | intro _ | apply execShift_wf | dsimp only | split | refine foldl_wf _ (fun s x hm => ?_) _ _ ?_ | refine foldl_snd_wf _ (fun s x hm => ?_) _ _ ?_ | (simp; done) | (simp; assumption) | (simp))
theorem execRorI_wf (x0 x1 x2 x3 x4 s) (hm : Memory.wf s.mem = true) : Memory.wf (Out.memory (@execRorI x0 x1 x2 x3 x4 s) s.mem) = true := by
  unfold execRorI; repeat' (first | assumption | intro _ | apply execShiftI_wf | dsimp only | split | refine foldl_wf _ (fun s x hm => ?_) _ _ ?_ | refine foldl_snd_wf _ (fun s x hm => ?_) _ _ ?_ | (simp; done) | (simp; assumption) | (simp))
theorem execBfx_wf (x0 x1 x2 x3 x4 x5 s) (hm : Memory.wf s.mem = true) : Memory.wf (Out.memory (@execBfx x0 x1 x2 x3 x4 x5 s) s.mem) = true := by
  unfold execBfx; repeat' (first | assumption | intro _ | apply execLocal_wf | dsimp only | split | refine foldl_wf _ (fun s x hm => ?_) _ _ ?_ | refine foldl_snd_wf _ (fun s x hm => ?_) _ _ ?_ | (simp; done) | (simp; assumption) | (simp))
theorem execBfxI_wf (x0 x1 x2 x3 x4 x5 s) (hm : Memory.wf s.mem = true) : Memory.wf (Out.memory (@execBfxI x0 x1 x2 x3 x4 x5 s) s.mem) = true := by
  unfold execBfxI; repeat' (first | assumption | intro _ | apply execLocal_wf | dsimp only | split | refine foldl_wf _ (fun s x hm => ?_) _ _ ?_ | refine foldl_snd_wf _ (fun s x hm => ?_) _ _ ?_ | (simp; done) | (simp; assumption) | (simp))
theorem execBfi_wf (x0 x1 x2 x3 x4 s) (hm : Memory.wf s.mem = true) : Memory.wf (Out.memory (@execBfi x0 x1 x2 x3 x4 s) s.mem) = true := by
  unfold execBfi; repeat' (first | assumption | intro _ | apply execLocal_wf | dsimp only | split | refine foldl_wf _ (fun s x hm => ?_) _ _ ?_ | refine foldl_snd_wf _ (fun s x hm => ?_) _ _ ?_ | (simp; done) | (simp; assumption) | (simp))
theorem execBfiI_wf (x0 x1 x2 x3 x4 s) (hm : Memory.wf s.mem = true) : Memory.wf (Out.memory (@execBfiI x0 x1 x2 x3 x4 s) s.mem) = true := by
  unfold execBfiI; repeat' (first | assumption | intro _ | apply execLocal_wf | dsimp only | split | refine foldl_wf _ (fun s x hm => ?_) _ _ ?_ | refine foldl_snd_wf _ (fun s x hm => ?_) _ _ ?_ | (simp; done) | (simp; assumption) | (simp))
theorem execPopc_wf (x0 x1 x2 x3 s) (hm : Memory.wf s.mem = true) : Memory.wf (Out.memory (@execPopc x0 x1 x2 x3 s) s.mem) = true := by
  unfold execPopc; repeat' (first | assumption | intro _ | apply execLocal_wf | dsimp only | split | refine foldl_wf _ (fun s x hm => ?_) _ _ ?_ | refine foldl_snd_wf _ (fun s x hm => ?_) _ _ ?_ | (simp; done) | (simp; assumption) | (simp))
theorem execClz_wf (x0 x1 x2 x3 s) (hm : Memory.wf s.mem = true) : Memory.wf (Out.memory (@execClz x0 x1 x2 x3 s) s.mem) = true := by
  unfold execClz; repeat' (first | assumption | intro _ | apply execLocal_wf | dsimp only | split | refine foldl_wf _ (fun s x hm => ?_) _ _ ?_ | refine foldl_snd_wf _ (fun s x hm => ?_) _ _ ?_ | (simp; done) | (simp; assumption) | (simp))
theorem execBrev_wf (x0 x1 x2 x3 s) (hm : Memory.wf s.mem = true) : Memory.wf (Out.memory (@execBrev x0 x1 x2 x3 s) s.mem) = true := by
  unfold execBrev; repeat' (first | assumption | intro _ | apply execLocal_wf | dsimp only | split | refine foldl_wf _ (fun s x hm => ?_) _ _ ?_ | refine foldl_snd_wf _ (fun s x hm => ?_) _ _ ?_ | (simp; done) | (simp; assumption) | (simp))
theorem execRngs_wf (x0 x1 s) (hm : Memory.wf s.mem = true) : Memory.wf (Out.memory (@execRngs x0 x1 s) s.mem) = true := by
  unfold execRngs; repeat' (first | assumption | intro _ | apply execLocal_wf | dsimp only | split | refine foldl_wf _ (fun s x hm => ?_) _ _ ?_ | refine foldl_snd_wf _ (fun s x hm => ?_) _ _ ?_ | (simp; done) | (simp; assumption) | (simp))
theorem execRng_wf (x0 x1 s) (hm : Memory.wf s.mem = true) : Memory.wf (Out.memory (@execRng x0 x1 s) s.mem) = true := by
  unfold execRng; repeat' (first | assumption | intro _ | apply execLocal_wf | dsimp only | split | refine foldl_wf _ (fun s x hm => ?_) _ _ ?_ | refine foldl_snd_wf _ (fun s x hm => ?_) _ _ ?_ | (simp; done) | (simp; assumption) | (simp))
theorem execRngj_wf (x0 x1 s) (hm : Memory.wf s.mem = true) : Memory.wf (Out.memory (@execRngj x0 x1 s) s.mem) = true := by
  unfold execRngj; repeat' (first | assumption | intro _ | apply execLocal_wf | dsimp only | split | refine foldl_wf _ (fun s x hm => ?_) _ _ ?_ | refine foldl_snd_wf _ (fun s x hm => ?_) _ _ ?_ | (simp; done) | (simp; assumption) | (simp))
theorem execKey_wf (x0 x1 x2 x3 x4 x5 s) (hm : Memory.wf s.mem = true) : Memory.wf (Out.memory (@execKey x0 x1 x2 x3 x4 x5 s) s.mem) = true := by
  unfold execKey; repeat' (first | assumption | intro _ | apply execLocal_wf | dsimp only | split | refine foldl_wf _ (fun s x hm => ?_) _ _ ?_ | refine foldl_snd_wf _ (fun s x hm => ?_) _ _ ?_ | (simp; done) | (simp; assumption) | (simp))
theorem execKmax_wf (x0 x1 x2 x3 x4 s) (hm : Memory.wf s.mem = true) : Memory.wf (Out.memory (@execKmax x0 x1 x2 x3 x4 s) s.mem) = true := by
  unfold execKmax; repeat' (first | assumption | intro _ | apply execKey_wf | dsimp only | split | refine foldl_wf _ (fun s x hm => ?_) _ _ ?_ | refine foldl_snd_wf _ (fun s x hm => ?_) _ _ ?_ | (simp; done) | (simp; assumption) | (simp))
theorem execKmin_wf (x0 x1 x2 x3 x4 s) (hm : Memory.wf s.mem = true) : Memory.wf (Out.memory (@execKmin x0 x1 x2 x3 x4 s) s.mem) = true := by
  unfold execKmin; repeat' (first | assumption | intro _ | apply execKey_wf | dsimp only | split | refine foldl_wf _ (fun s x hm => ?_) _ _ ?_ | refine foldl_snd_wf _ (fun s x hm => ?_) _ _ ?_ | (simp; done) | (simp; assumption) | (simp))
theorem execKcmp_wf (x0 x1 x2 x3 x4 x5 s) (hm : Memory.wf s.mem = true) : Memory.wf (Out.memory (@execKcmp x0 x1 x2 x3 x4 x5 s) s.mem) = true := by
  unfold execKcmp; repeat' (first | assumption | intro _ | apply execLocal_wf | dsimp only | split | refine foldl_wf _ (fun s x hm => ?_) _ _ ?_ | refine foldl_snd_wf _ (fun s x hm => ?_) _ _ ?_ | (simp; done) | (simp; assumption) | (simp))
theorem execFree_wf (x0 x1 x2 s x4 x5) (hm : Memory.wf s.mem = true) : Memory.wf (Out.memory (@execFree x0 x1 x2 s x4 x5) s.mem) = true := by
  unfold execFree; repeat' (first | assumption | intro _ | apply execWith_wf | apply State.done_wf | dsimp only | split | refine foldl_wf _ (fun s x hm => ?_) _ _ ?_ | refine foldl_snd_wf _ (fun s x hm => ?_) _ _ ?_ | (simp; done) | (simp; assumption) | (simp))
theorem execScalar_wf (x0 x1 x2 x3 x4 x5 x6 s x8) (hm : Memory.wf s.mem = true) : Memory.wf (Out.memory (@execScalar x0 x1 x2 x3 x4 x5 x6 s x8) s.mem) = true := by
  unfold execScalar; repeat' (first | assumption | intro _ | apply execFree_wf | dsimp only | split | refine foldl_wf _ (fun s x hm => ?_) _ _ ?_ | refine foldl_snd_wf _ (fun s x hm => ?_) _ _ ?_ | (simp; done) | (simp; assumption) | (simp))
theorem execFadd_wf (x0 x1 x2 x3 x4 x5 x6 s) (hm : Memory.wf s.mem = true) : Memory.wf (Out.memory (@execFadd x0 x1 x2 x3 x4 x5 x6 s) s.mem) = true := by
  unfold execFadd; repeat' (first | assumption | intro _ | apply execScalar_wf | dsimp only | split | refine foldl_wf _ (fun s x hm => ?_) _ _ ?_ | refine foldl_snd_wf _ (fun s x hm => ?_) _ _ ?_ | (simp; done) | (simp; assumption) | (simp))
theorem execFaddI_wf (x0 x1 x2 x3 x4 x5 s) (hm : Memory.wf s.mem = true) : Memory.wf (Out.memory (@execFaddI x0 x1 x2 x3 x4 x5 s) s.mem) = true := by
  unfold execFaddI; repeat' (first | assumption | intro _ | apply execScalar_wf | dsimp only | split | refine foldl_wf _ (fun s x hm => ?_) _ _ ?_ | refine foldl_snd_wf _ (fun s x hm => ?_) _ _ ?_ | (simp; done) | (simp; assumption) | (simp))
theorem execFsub_wf (x0 x1 x2 x3 x4 x5 x6 s) (hm : Memory.wf s.mem = true) : Memory.wf (Out.memory (@execFsub x0 x1 x2 x3 x4 x5 x6 s) s.mem) = true := by
  unfold execFsub; repeat' (first | assumption | intro _ | apply execScalar_wf | dsimp only | split | refine foldl_wf _ (fun s x hm => ?_) _ _ ?_ | refine foldl_snd_wf _ (fun s x hm => ?_) _ _ ?_ | (simp; done) | (simp; assumption) | (simp))
theorem execFmul_wf (x0 x1 x2 x3 x4 x5 x6 s) (hm : Memory.wf s.mem = true) : Memory.wf (Out.memory (@execFmul x0 x1 x2 x3 x4 x5 x6 s) s.mem) = true := by
  unfold execFmul; repeat' (first | assumption | intro _ | apply execScalar_wf | dsimp only | split | refine foldl_wf _ (fun s x hm => ?_) _ _ ?_ | refine foldl_snd_wf _ (fun s x hm => ?_) _ _ ?_ | (simp; done) | (simp; assumption) | (simp))
theorem execFmulI_wf (x0 x1 x2 x3 x4 x5 s) (hm : Memory.wf s.mem = true) : Memory.wf (Out.memory (@execFmulI x0 x1 x2 x3 x4 x5 s) s.mem) = true := by
  unfold execFmulI; repeat' (first | assumption | intro _ | apply execScalar_wf | dsimp only | split | refine foldl_wf _ (fun s x hm => ?_) _ _ ?_ | refine foldl_snd_wf _ (fun s x hm => ?_) _ _ ?_ | (simp; done) | (simp; assumption) | (simp))
theorem execFfma_wf (x0 x1 x2 x3 x4 x5 x6 x7 x8 s) (hm : Memory.wf s.mem = true) : Memory.wf (Out.memory (@execFfma x0 x1 x2 x3 x4 x5 x6 x7 x8 s) s.mem) = true := by
  unfold execFfma; repeat' (first | assumption | intro _ | apply execScalar_wf | dsimp only | split | refine foldl_wf _ (fun s x hm => ?_) _ _ ?_ | refine foldl_snd_wf _ (fun s x hm => ?_) _ _ ?_ | (simp; done) | (simp; assumption) | (simp))
theorem execFfmaI_wf (x0 x1 x2 x3 x4 x5 s) (hm : Memory.wf s.mem = true) : Memory.wf (Out.memory (@execFfmaI x0 x1 x2 x3 x4 x5 s) s.mem) = true := by
  unfold execFfmaI; repeat' (first | assumption | intro _ | apply execScalar_wf | dsimp only | split | refine foldl_wf _ (fun s x hm => ?_) _ _ ?_ | refine foldl_snd_wf _ (fun s x hm => ?_) _ _ ?_ | (simp; done) | (simp; assumption) | (simp))
theorem execMM_wf (x0 x1 x2 x3 x4 x5 x6 s) (hm : Memory.wf s.mem = true) : Memory.wf (Out.memory (@execMM x0 x1 x2 x3 x4 x5 x6 s) s.mem) = true := by
  unfold execMM; repeat' (first | assumption | intro _ | apply execFree_wf | dsimp only | split | refine foldl_wf _ (fun s x hm => ?_) _ _ ?_ | refine foldl_snd_wf _ (fun s x hm => ?_) _ _ ?_ | (simp; done) | (simp; assumption) | (simp))
theorem execFmin_wf (x0 x1 x2 x3 x4 x5 s) (hm : Memory.wf s.mem = true) : Memory.wf (Out.memory (@execFmin x0 x1 x2 x3 x4 x5 s) s.mem) = true := by
  unfold execFmin; repeat' (first | assumption | intro _ | apply execMM_wf | dsimp only | split | refine foldl_wf _ (fun s x hm => ?_) _ _ ?_ | refine foldl_snd_wf _ (fun s x hm => ?_) _ _ ?_ | (simp; done) | (simp; assumption) | (simp))
theorem execFmax_wf (x0 x1 x2 x3 x4 x5 s) (hm : Memory.wf s.mem = true) : Memory.wf (Out.memory (@execFmax x0 x1 x2 x3 x4 x5 s) s.mem) = true := by
  unfold execFmax; repeat' (first | assumption | intro _ | apply execMM_wf | dsimp only | split | refine foldl_wf _ (fun s x hm => ?_) _ _ ?_ | refine foldl_snd_wf _ (fun s x hm => ?_) _ _ ?_ | (simp; done) | (simp; assumption) | (simp))
theorem execFcmp_wf (x0 x1 x2 x3 x4 x5 x6 x7 s) (hm : Memory.wf s.mem = true) : Memory.wf (Out.memory (@execFcmp x0 x1 x2 x3 x4 x5 x6 x7 s) s.mem) = true := by
  unfold execFcmp; repeat' (first | assumption | intro _ | apply execFree_wf | dsimp only | split | refine foldl_wf _ (fun s x hm => ?_) _ _ ?_ | refine foldl_snd_wf _ (fun s x hm => ?_) _ _ ?_ | (simp; done) | (simp; assumption) | (simp))
theorem execFcmpI_wf (x0 x1 x2 x3 x4 x5 x6 x7 s) (hm : Memory.wf s.mem = true) : Memory.wf (Out.memory (@execFcmpI x0 x1 x2 x3 x4 x5 x6 x7 s) s.mem) = true := by
  unfold execFcmpI; repeat' (first | assumption | intro _ | apply execFree_wf | dsimp only | split | refine foldl_wf _ (fun s x hm => ?_) _ _ ?_ | refine foldl_snd_wf _ (fun s x hm => ?_) _ _ ?_ | (simp; done) | (simp; assumption) | (simp))
theorem execCode_wf (x0 x1 x2 x3 s x5) (hm : Memory.wf s.mem = true) : Memory.wf (Out.memory (@execCode x0 x1 x2 x3 s x5) s.mem) = true := by
  unfold execCode; repeat' (first | assumption | intro _ | apply execLocal_wf | dsimp only | split | refine foldl_wf _ (fun s x hm => ?_) _ _ ?_ | refine foldl_snd_wf _ (fun s x hm => ?_) _ _ ?_ | (simp; done) | (simp; assumption) | (simp))
theorem execFcls_wf (x0 x1 x2 x3 s) (hm : Memory.wf s.mem = true) : Memory.wf (Out.memory (@execFcls x0 x1 x2 x3 s) s.mem) = true := by
  unfold execFcls; repeat' (first | assumption | intro _ | apply execCode_wf | dsimp only | split | refine foldl_wf _ (fun s x hm => ?_) _ _ ?_ | refine foldl_snd_wf _ (fun s x hm => ?_) _ _ ?_ | (simp; done) | (simp; assumption) | (simp))
theorem execFrnd_wf (x0 x1 x2 x3 x4 s) (hm : Memory.wf s.mem = true) : Memory.wf (Out.memory (@execFrnd x0 x1 x2 x3 x4 s) s.mem) = true := by
  unfold execFrnd; repeat' (first | assumption | intro _ | apply execCode_wf | dsimp only | split | refine foldl_wf _ (fun s x hm => ?_) _ _ ?_ | refine foldl_snd_wf _ (fun s x hm => ?_) _ _ ?_ | (simp; done) | (simp; assumption) | (simp))
theorem execFscl_wf (x0 x1 x2 x3 x4 x5 s) (hm : Memory.wf s.mem = true) : Memory.wf (Out.memory (@execFscl x0 x1 x2 x3 x4 x5 s) s.mem) = true := by
  unfold execFscl; repeat' (first | assumption | intro _ | apply execLocal_wf | dsimp only | split | refine foldl_wf _ (fun s x hm => ?_) _ _ ?_ | refine foldl_snd_wf _ (fun s x hm => ?_) _ _ ?_ | (simp; done) | (simp; assumption) | (simp))
theorem execFrcp_wf (x0 x1 x2 x3 x4 s) (hm : Memory.wf s.mem = true) : Memory.wf (Out.memory (@execFrcp x0 x1 x2 x3 x4 s) s.mem) = true := by
  unfold execFrcp; repeat' (first | assumption | intro _ | apply execCode_wf | dsimp only | split | refine foldl_wf _ (fun s x hm => ?_) _ _ ?_ | refine foldl_snd_wf _ (fun s x hm => ?_) _ _ ?_ | (simp; done) | (simp; assumption) | (simp))
theorem execFsqrt_wf (x0 x1 x2 x3 x4 s) (hm : Memory.wf s.mem = true) : Memory.wf (Out.memory (@execFsqrt x0 x1 x2 x3 x4 s) s.mem) = true := by
  unfold execFsqrt; repeat' (first | assumption | intro _ | apply execCode_wf | dsimp only | split | refine foldl_wf _ (fun s x hm => ?_) _ _ ?_ | refine foldl_snd_wf _ (fun s x hm => ?_) _ _ ?_ | (simp; done) | (simp; assumption) | (simp))
theorem execTrans_wf (x0 x1 x2 x3 x4 s) (hm : Memory.wf s.mem = true) : Memory.wf (Out.memory (@execTrans x0 x1 x2 x3 x4 s) s.mem) = true := by
  unfold execTrans; repeat' (first | assumption | intro _ | apply execCode_wf | dsimp only | split | refine foldl_wf _ (fun s x hm => ?_) _ _ ?_ | refine foldl_snd_wf _ (fun s x hm => ?_) _ _ ?_ | (simp; done) | (simp; assumption) | (simp))
theorem execFrsq_wf (x0 x1 x2 x3 s) (hm : Memory.wf s.mem = true) : Memory.wf (Out.memory (@execFrsq x0 x1 x2 x3 s) s.mem) = true := by
  unfold execFrsq; repeat' (first | assumption | intro _ | apply execTrans_wf | dsimp only | split | refine foldl_wf _ (fun s x hm => ?_) _ _ ?_ | refine foldl_snd_wf _ (fun s x hm => ?_) _ _ ?_ | (simp; done) | (simp; assumption) | (simp))
theorem execFex2_wf (x0 x1 x2 x3 s) (hm : Memory.wf s.mem = true) : Memory.wf (Out.memory (@execFex2 x0 x1 x2 x3 s) s.mem) = true := by
  unfold execFex2; repeat' (first | assumption | intro _ | apply execTrans_wf | dsimp only | split | refine foldl_wf _ (fun s x hm => ?_) _ _ ?_ | refine foldl_snd_wf _ (fun s x hm => ?_) _ _ ?_ | (simp; done) | (simp; assumption) | (simp))
theorem execFlg2_wf (x0 x1 x2 x3 s) (hm : Memory.wf s.mem = true) : Memory.wf (Out.memory (@execFlg2 x0 x1 x2 x3 s) s.mem) = true := by
  unfold execFlg2; repeat' (first | assumption | intro _ | apply execTrans_wf | dsimp only | split | refine foldl_wf _ (fun s x hm => ?_) _ _ ?_ | refine foldl_snd_wf _ (fun s x hm => ?_) _ _ ?_ | (simp; done) | (simp; assumption) | (simp))
theorem execFsin_wf (x0 x1 x2 x3 s) (hm : Memory.wf s.mem = true) : Memory.wf (Out.memory (@execFsin x0 x1 x2 x3 s) s.mem) = true := by
  unfold execFsin; repeat' (first | assumption | intro _ | apply execTrans_wf | dsimp only | split | refine foldl_wf _ (fun s x hm => ?_) _ _ ?_ | refine foldl_snd_wf _ (fun s x hm => ?_) _ _ ?_ | (simp; done) | (simp; assumption) | (simp))
theorem execFcos_wf (x0 x1 x2 x3 s) (hm : Memory.wf s.mem = true) : Memory.wf (Out.memory (@execFcos x0 x1 x2 x3 s) s.mem) = true := by
  unfold execFcos; repeat' (first | assumption | intro _ | apply execTrans_wf | dsimp only | split | refine foldl_wf _ (fun s x hm => ?_) _ _ ?_ | refine foldl_snd_wf _ (fun s x hm => ?_) _ _ ?_ | (simp; done) | (simp; assumption) | (simp))
theorem execFtnh_wf (x0 x1 x2 x3 s) (hm : Memory.wf s.mem = true) : Memory.wf (Out.memory (@execFtnh x0 x1 x2 x3 s) s.mem) = true := by
  unfold execFtnh; repeat' (first | assumption | intro _ | apply execTrans_wf | dsimp only | split | refine foldl_wf _ (fun s x hm => ?_) _ _ ?_ | refine foldl_snd_wf _ (fun s x hm => ?_) _ _ ?_ | (simp; done) | (simp; assumption) | (simp))
theorem execPacked_wf (x0 x1 x2 x3 x4 x5 s x7) (hm : Memory.wf s.mem = true) : Memory.wf (Out.memory (@execPacked x0 x1 x2 x3 x4 x5 s x7) s.mem) = true := by
  unfold execPacked; repeat' (first | assumption | intro _ | apply execFree_wf | dsimp only | split | refine foldl_wf _ (fun s x hm => ?_) _ _ ?_ | refine foldl_snd_wf _ (fun s x hm => ?_) _ _ ?_ | (simp; done) | (simp; assumption) | (simp))
theorem execHadd2_wf (x0 x1 x2 x3 x4 x5 x6 s) (hm : Memory.wf s.mem = true) : Memory.wf (Out.memory (@execHadd2 x0 x1 x2 x3 x4 x5 x6 s) s.mem) = true := by
  unfold execHadd2; repeat' (first | assumption | intro _ | apply execPacked_wf | dsimp only | split | refine foldl_wf _ (fun s x hm => ?_) _ _ ?_ | refine foldl_snd_wf _ (fun s x hm => ?_) _ _ ?_ | (simp; done) | (simp; assumption) | (simp))
theorem execHsub2_wf (x0 x1 x2 x3 x4 x5 x6 s) (hm : Memory.wf s.mem = true) : Memory.wf (Out.memory (@execHsub2 x0 x1 x2 x3 x4 x5 x6 s) s.mem) = true := by
  unfold execHsub2; repeat' (first | assumption | intro _ | apply execPacked_wf | dsimp only | split | refine foldl_wf _ (fun s x hm => ?_) _ _ ?_ | refine foldl_snd_wf _ (fun s x hm => ?_) _ _ ?_ | (simp; done) | (simp; assumption) | (simp))
theorem execHmul2_wf (x0 x1 x2 x3 x4 x5 x6 s) (hm : Memory.wf s.mem = true) : Memory.wf (Out.memory (@execHmul2 x0 x1 x2 x3 x4 x5 x6 s) s.mem) = true := by
  unfold execHmul2; repeat' (first | assumption | intro _ | apply execPacked_wf | dsimp only | split | refine foldl_wf _ (fun s x hm => ?_) _ _ ?_ | refine foldl_snd_wf _ (fun s x hm => ?_) _ _ ?_ | (simp; done) | (simp; assumption) | (simp))
theorem execHfma2_wf (x0 x1 x2 x3 x4 x5 x6 x7 x8 s) (hm : Memory.wf s.mem = true) : Memory.wf (Out.memory (@execHfma2 x0 x1 x2 x3 x4 x5 x6 x7 x8 s) s.mem) = true := by
  unfold execHfma2; repeat' (first | assumption | intro _ | apply execPacked_wf | dsimp only | split | refine foldl_wf _ (fun s x hm => ?_) _ _ ?_ | refine foldl_snd_wf _ (fun s x hm => ?_) _ _ ?_ | (simp; done) | (simp; assumption) | (simp))
theorem execHfma2I_wf (x0 x1 x2 x3 x4 x5 s) (hm : Memory.wf s.mem = true) : Memory.wf (Out.memory (@execHfma2I x0 x1 x2 x3 x4 x5 s) s.mem) = true := by
  unfold execHfma2I; repeat' (first | assumption | intro _ | apply execPacked_wf | dsimp only | split | refine foldl_wf _ (fun s x hm => ?_) _ _ ?_ | refine foldl_snd_wf _ (fun s x hm => ?_) _ _ ?_ | (simp; done) | (simp; assumption) | (simp))
theorem execMM2_wf (x0 x1 x2 x3 x4 x5 x6 s) (hm : Memory.wf s.mem = true) : Memory.wf (Out.memory (@execMM2 x0 x1 x2 x3 x4 x5 x6 s) s.mem) = true := by
  unfold execMM2; repeat' (first | assumption | intro _ | apply execFree_wf | dsimp only | split | refine foldl_wf _ (fun s x hm => ?_) _ _ ?_ | refine foldl_snd_wf _ (fun s x hm => ?_) _ _ ?_ | (simp; done) | (simp; assumption) | (simp))
theorem execHmin2_wf (x0 x1 x2 x3 x4 x5 s) (hm : Memory.wf s.mem = true) : Memory.wf (Out.memory (@execHmin2 x0 x1 x2 x3 x4 x5 s) s.mem) = true := by
  unfold execHmin2; repeat' (first | assumption | intro _ | apply execMM2_wf | dsimp only | split | refine foldl_wf _ (fun s x hm => ?_) _ _ ?_ | refine foldl_snd_wf _ (fun s x hm => ?_) _ _ ?_ | (simp; done) | (simp; assumption) | (simp))
theorem execHmax2_wf (x0 x1 x2 x3 x4 x5 s) (hm : Memory.wf s.mem = true) : Memory.wf (Out.memory (@execHmax2 x0 x1 x2 x3 x4 x5 s) s.mem) = true := by
  unfold execHmax2; repeat' (first | assumption | intro _ | apply execMM2_wf | dsimp only | split | refine foldl_wf _ (fun s x hm => ?_) _ _ ?_ | refine foldl_snd_wf _ (fun s x hm => ?_) _ _ ?_ | (simp; done) | (simp; assumption) | (simp))
theorem execHcmp2_wf (x0 x1 x2 x3 x4 x5 x6 x7 s) (hm : Memory.wf s.mem = true) : Memory.wf (Out.memory (@execHcmp2 x0 x1 x2 x3 x4 x5 x6 x7 s) s.mem) = true := by
  unfold execHcmp2; repeat' (first | assumption | intro _ | apply execFree_wf | dsimp only | split | refine foldl_wf _ (fun s x hm => ?_) _ _ ?_ | refine foldl_snd_wf _ (fun s x hm => ?_) _ _ ?_ | (simp; done) | (simp; assumption) | (simp))
theorem execHdot2_wf (x0 x1 x2 x3 x4 x5 x6 x7 x8 s) (hm : Memory.wf s.mem = true) : Memory.wf (Out.memory (@execHdot2 x0 x1 x2 x3 x4 x5 x6 x7 x8 s) s.mem) = true := by
  unfold execHdot2; repeat' (first | assumption | intro _ | apply execScalar_wf | dsimp only | split | refine foldl_wf _ (fun s x hm => ?_) _ _ ?_ | refine foldl_snd_wf _ (fun s x hm => ?_) _ _ ?_ | (simp; done) | (simp; assumption) | (simp))
theorem execCvt_wf (x0 x1 x2 x3 x4 x5 x6 x7 s) (hm : Memory.wf s.mem = true) : Memory.wf (Out.memory (@execCvt x0 x1 x2 x3 x4 x5 x6 x7 s) s.mem) = true := by
  unfold execCvt; repeat' (first | assumption | intro _ | apply execFree_wf | dsimp only | split | refine foldl_wf _ (fun s x hm => ?_) _ _ ?_ | refine foldl_snd_wf _ (fun s x hm => ?_) _ _ ?_ | (simp; done) | (simp; assumption) | (simp))
theorem execCvtn_wf (x0 x1 x2 x3 x4 x5 x6 x7 x8 s) (hm : Memory.wf s.mem = true) : Memory.wf (Out.memory (@execCvtn x0 x1 x2 x3 x4 x5 x6 x7 x8 s) s.mem) = true := by
  unfold execCvtn; repeat' (first | assumption | intro _ | apply execFree_wf | dsimp only | split | refine foldl_wf _ (fun s x hm => ?_) _ _ ?_ | refine foldl_snd_wf _ (fun s x hm => ?_) _ _ ?_ | (simp; done) | (simp; assumption) | (simp))
theorem execCvtw_wf (x0 x1 x2 x3 x4 x5 x6 s) (hm : Memory.wf s.mem = true) : Memory.wf (Out.memory (@execCvtw x0 x1 x2 x3 x4 x5 x6 s) s.mem) = true := by
  unfold execCvtw; repeat' (first | assumption | intro _ | apply execFree_wf | dsimp only | split | refine foldl_wf _ (fun s x hm => ?_) _ _ ?_ | refine foldl_snd_wf _ (fun s x hm => ?_) _ _ ?_ | (simp; done) | (simp; assumption) | (simp))
theorem execSdot_wf (x0 x1 x2 x3 x4 x5 x6 x7 s) (hm : Memory.wf s.mem = true) : Memory.wf (Out.memory (@execSdot x0 x1 x2 x3 x4 x5 x6 x7 s) s.mem) = true := by
  unfold execSdot; repeat' (first | assumption | intro _ | apply execLocal_wf | dsimp only | split | refine foldl_wf _ (fun s x hm => ?_) _ _ ?_ | refine foldl_snd_wf _ (fun s x hm => ?_) _ _ ?_ | (simp; done) | (simp; assumption) | (simp))
theorem execCbx_wf (x0 x1 x2 x3 x4 s) (hm : Memory.wf s.mem = true) : Memory.wf (Out.memory (@execCbx x0 x1 x2 x3 x4 s) s.mem) = true := by
  unfold execCbx; repeat' (first | assumption | intro _ | apply execLocal_wf | dsimp only | split | refine foldl_wf _ (fun s x hm => ?_) _ _ ?_ | refine foldl_snd_wf _ (fun s x hm => ?_) _ _ ?_ | (simp; done) | (simp; assumption) | (simp))
theorem State.retireAt_wf (s x1 x2 x3 x4) (hm : Memory.wf s.mem = true) : Memory.wf ((@State.retireAt s x1 x2 x3 x4).mem) = true := by
  unfold State.retireAt; repeat' (first | assumption | intro _ | apply State.popIssue_wf | dsimp only | split | refine foldl_wf _ (fun s x hm => ?_) _ _ ?_ | refine foldl_snd_wf _ (fun s x hm => ?_) _ _ ?_ | (simp; done) | (simp; assumption) | (simp))
theorem State.doneAt_wf (s x1 x2 x3) (hm : Memory.wf s.mem = true) : Memory.wf ((@State.doneAt s x1 x2 x3).mem) = true := by
  unfold State.doneAt; repeat' (first | assumption | intro _ | apply State.retireAt_wf | dsimp only | split | refine foldl_wf _ (fun s x hm => ?_) _ _ ?_ | refine foldl_snd_wf _ (fun s x hm => ?_) _ _ ?_ | (simp; done) | (simp; assumption) | (simp))
theorem execBra_wf (x0 x1 s) (hm : Memory.wf s.mem = true) : Memory.wf (Out.memory (@execBra x0 x1 s) s.mem) = true := by
  unfold execBra; repeat' (first | assumption | intro _ | apply execWith_wf | apply State.doneAt_wf | dsimp only | split | refine foldl_wf _ (fun s x hm => ?_) _ _ ?_ | refine foldl_snd_wf _ (fun s x hm => ?_) _ _ ?_ | (simp; done) | (simp; assumption) | (simp))
theorem execBrx_wf (x0 x1 x2 x3 s) (hm : Memory.wf s.mem = true) : Memory.wf (Out.memory (@execBrx x0 x1 x2 x3 s) s.mem) = true := by
  unfold execBrx; repeat' (first | assumption | intro _ | apply execWith_wf | apply State.doneAt_wf | dsimp only | split | refine foldl_wf _ (fun s x hm => ?_) _ _ ?_ | refine foldl_snd_wf _ (fun s x hm => ?_) _ _ ?_ | (simp; done) | (simp; assumption) | (simp))
@[simp] theorem State.copyStands_mem (s x1) : ((@State.copyStands s x1).2).mem = s.mem := by
  unfold State.copyStands; (try dsimp only); (repeat' split) <;> first | rfl | simp
@[simp] theorem State.lineFor_mem (s x1 x2 x3 x4 x5) : (((@State.lineFor s x1 x2 x3 x4 x5).2).2).mem = s.mem := by
  unfold State.lineFor; (try dsimp only); (repeat' split) <;> first | rfl | simp
@[simp] theorem State.seesWrite_mem (s x1 x2) : ((@State.seesWrite s x1 x2).2).mem = s.mem := by
  unfold State.seesWrite; (try dsimp only); (repeat' split) <;> first | rfl | simp
@[simp] theorem shareByte_mem (x0 x1 x2 x3 x4 s) : ((@shareByte x0 x1 x2 x3 x4 s).2).mem = s.mem := by
  fun_induction shareByte x0 x1 x2 x3 x4 s <;> first | rfl | simp +zetaDelta [*]
@[simp] theorem shareBytes_mem (x0 x1 x2 x3 x4 x5 s) : ((@shareBytes x0 x1 x2 x3 x4 x5 s).2).mem = s.mem := by
  fun_induction shareBytes x0 x1 x2 x3 x4 x5 s <;> first | rfl | simp +zetaDelta [*]
@[simp] theorem State.loadBytes_mem (s x1 x2 x3 x4 x5 x6 x7) : (((@State.loadBytes s x1 x2 x3 x4 x5 x6 x7).2).2).mem = s.mem := by
  simp [State.loadBytes]
theorem State.typedHere_mem (s b acc pa) : (State.typedHere s b acc pa).memory s.mem = s.mem := by
  unfold State.typedHere
  dsimp only
  (repeat' split) <;> simp [Prep.memory]
theorem State.typed_mem (s b acc pa) : (State.typed s b acc pa).memory s.mem = s.mem := by
  unfold State.typed
  (repeat' split) <;> first | exact State.typedHere_mem _ _ _ _ | simp [Prep.memory]
theorem State.prepare_mem (s b acc) : (State.prepare s b acc).memory s.mem = s.mem := by
  unfold State.prepare
  dsimp only
  split
  · split <;> simp [Prep.memory]
  · have h (t : State) (e : t.mem = s.mem) (pa : Nat) : (t.typed b acc pa).memory s.mem = s.mem := by
      have := State.typed_mem t b acc pa
      rwa [e] at this
    exact h _ (by simp) _
@[simp] theorem State.keepShare_mem (s x1 x2 x3) : ((@State.keepShare s x1 x2 x3).2).mem = s.mem := by
  simp [State.keepShare]
@[simp] theorem State.sendLoad_mem (s x1 x2 x3 x4 x5) : (@State.sendLoad s x1 x2 x3 x4 x5).mem = s.mem := by
  unfold State.sendLoad; (try dsimp only); (repeat' split) <;> first | rfl | simp
@[simp] theorem State.pick_mem (s x1) : ((@State.pick s x1).2).mem = s.mem := by
  rfl
theorem State.bindAct_wf (s x1 x2 x3 x4 x5) (hm : Memory.wf s.mem = true) : Memory.wf ((@State.bindAct s x1 x2 x3 x4 x5).mem) = true := by
  unfold State.bindAct
  dsimp only
  split
  · exact State.writeMem_wf _ _ _ (by simpa using hm)
  · exact foldl_wf _ (fun s x h => State.writeMem_wf _ _ _ h) _ _ hm
theorem State.bindView_wf (s x1) (hm : Memory.wf s.mem = true) : Memory.wf (((@State.bindView s x1).2).mem) = true := by
  unfold State.bindView; repeat' (first | assumption | intro _ | apply State.bindAct_wf | dsimp only | split | refine foldl_wf _ (fun s x hm => ?_) _ _ ?_ | refine foldl_snd_wf _ (fun s x hm => ?_) _ _ ?_ | (simp; done) | (simp; assumption) | (simp))
@[simp] theorem State.dropBound_mem (s x1 x2 x3) : (@State.dropBound s x1 x2 x3).mem = s.mem := by
  unfold State.dropBound; (try dsimp only); (repeat' split) <;> first | rfl | simp
theorem State.acquireObject_wf (s x1 x2) (hm : Memory.wf s.mem = true) : Memory.wf ((@State.acquireObject s x1 x2).mem) = true := by
  unfold State.acquireObject; repeat' (first | assumption | intro _ | apply State.bindView_wf | dsimp only | split | refine foldl_wf _ (fun s x hm => ?_) _ _ ?_ | refine foldl_snd_wf _ (fun s x hm => ?_) _ _ ?_ | (simp; done) | (simp; assumption) | (simp))
theorem State.loaded_wf (s x1 x2 x3 x4 x5 x6) (hm : Memory.wf s.mem = true) : Memory.wf ((@State.loaded s x1 x2 x3 x4 x5 x6).mem) = true := by
  unfold State.loaded; repeat' (first | assumption | intro _ | apply State.acquireObject_wf | dsimp only | split | refine foldl_wf _ (fun s x hm => ?_) _ _ ?_ | refine foldl_snd_wf _ (fun s x hm => ?_) _ _ ?_ | (simp; done) | (simp; assumption) | (simp))
theorem State.entriesDone_wf (s x1 x2) (hm : Memory.wf s.mem = true) : Memory.wf ((@State.entriesDone s x1 x2).mem) = true := by
  unfold State.entriesDone; repeat' (first | assumption | intro _ | apply State.advance_wf | dsimp only | split | refine foldl_wf _ (fun s x hm => ?_) _ _ ?_ | refine foldl_snd_wf _ (fun s x hm => ?_) _ _ ?_ | (simp; done) | (simp; assumption) | (simp))
theorem State.lostStore_wf (s x1 x2) (hm : Memory.wf s.mem = true) : Memory.wf ((@State.lostStore s x1 x2).mem) = true := by
  unfold State.lostStore; repeat' (first | assumption | intro _ | apply State.logBlock_wf | dsimp only | split | refine foldl_wf _ (fun s x hm => ?_) _ _ ?_ | refine foldl_snd_wf _ (fun s x hm => ?_) _ _ ?_ | (simp; done) | (simp; assumption) | (simp))
@[simp] theorem State.refreshL1_mem (s x1 x2) : (@State.refreshL1 s x1 x2).mem = s.mem := by
  rfl
@[simp] theorem State.setTag_mem (s x1 x2) : (@State.setTag s x1 x2).mem = s.mem := by
  rfl
theorem State.performEntry_wf (s x1 x2) (hm : Memory.wf s.mem = true) : Memory.wf ((@State.performEntry s x1 x2).mem) = true := by
  unfold State.performEntry; repeat' (first | assumption | intro _ | apply State.lostStore_wf | apply State.writeHome_wf | apply State.rmwHome_wf | dsimp only | split | refine foldl_wf _ (fun s x hm => ?_) _ _ ?_ | refine foldl_snd_wf _ (fun s x hm => ?_) _ _ ?_ | (simp; done) | (simp; assumption) | (simp))
theorem State.performEntries_wf (s x1 x2) (hm : Memory.wf s.mem = true) : Memory.wf ((@State.performEntries s x1 x2).mem) = true := by
  unfold State.performEntries; repeat' (first | assumption | intro _ | apply State.performEntry_wf | dsimp only | split | refine foldl_wf _ (fun s x hm => ?_) _ _ ?_ | refine foldl_snd_wf _ (fun s x hm => ?_) _ _ ?_ | (simp; done) | (simp; assumption) | (simp))
theorem State.performOne_wf (s x1 x2 x3) (hm : Memory.wf s.mem = true) : Memory.wf ((@State.performOne s x1 x2 x3).mem) = true := by
  unfold State.performOne; repeat' (first | assumption | intro _ | apply State.entriesDone_wf | apply State.performEntries_wf | apply State.settleRecords_wf | dsimp only | split | refine foldl_wf _ (fun s x hm => ?_) _ _ ?_ | refine foldl_snd_wf _ (fun s x hm => ?_) _ _ ?_ | (simp; done) | (simp; assumption) | (simp))
theorem State.forceFirst_wf (s x1 x2) (hm : Memory.wf s.mem = true) : Memory.wf ((@State.forceFirst s x1 x2).mem) = true := by
  unfold State.forceFirst; repeat' (first | assumption | intro _ | apply State.commit_wf | dsimp only | split | refine foldl_wf _ (fun s x hm => ?_) _ _ ?_ | refine foldl_snd_wf _ (fun s x hm => ?_) _ _ ?_ | (simp; done) | (simp; assumption) | (simp))
theorem State.store_wf (s x1 x2) (hm : Memory.wf s.mem = true) : Memory.wf ((@State.store s x1 x2).mem) = true := by
  unfold State.store; repeat' (first | assumption | intro _ | apply State.forceFirst_wf | apply State.advance_wf | dsimp only | split | refine foldl_wf _ (fun s x hm => ?_) _ _ ?_ | refine foldl_snd_wf _ (fun s x hm => ?_) _ _ ?_ | (simp; done) | (simp; assumption) | (simp))
theorem State.carry_wf (s x1 x2 x3) (hm : Memory.wf s.mem = true) : Memory.wf ((@State.carry s x1 x2 x3).mem) = true := by
  unfold State.carry; repeat' (first | assumption | intro _ | apply State.loaded_wf | apply State.performOne_wf | apply State.store_wf | apply State.commit_wf | dsimp only | split | refine foldl_wf _ (fun s x hm => ?_) _ _ ?_ | refine foldl_snd_wf _ (fun s x hm => ?_) _ _ ?_ | (simp; done) | (simp; assumption) | (simp))
theorem State.reserve_wf (s x1) (hm : Memory.wf s.mem = true) : Memory.wf ((@State.reserve s x1).mem) = true := by
  unfold State.reserve; repeat' (first | assumption | intro _ | apply State.forceFirst_wf | dsimp only | split | refine foldl_wf _ (fun s x hm => ?_) _ _ ?_ | refine foldl_snd_wf _ (fun s x hm => ?_) _ _ ?_ | (simp; done) | (simp; assumption) | (simp))
theorem State.askTag_wf (s x1 x2 x3 x4) (hm : Memory.wf s.mem = true) : Memory.wf ((@State.askTag s x1 x2 x3 x4).mem) = true := by
  unfold State.askTag; repeat' (first | assumption | intro _ | apply State.reserve_wf | dsimp only | split | refine foldl_wf _ (fun s x hm => ?_) _ _ ?_ | refine foldl_snd_wf _ (fun s x hm => ?_) _ _ ?_ | (simp; done) | (simp; assumption) | (simp))
@[simp] theorem State.waitPlace_mem (s x1 x2) : (@State.waitPlace s x1 x2).mem = s.mem := by
  rfl
theorem State.sendOff_wf (s b acc) (take start : State → State) (hm : Memory.wf s.mem = true) (ht : ∀ s : State, (take s).mem = s.mem)
    (hs : ∀ s, Memory.wf s.mem = true → Memory.wf (start s).mem = true) : Memory.wf (State.sendOff s b acc take start).mem = true := by
  unfold State.sendOff
  have h := State.prepare_mem s b acc
  split <;> rename_i e <;> rw [e] at h <;> simp only [Prep.memory] at h
  · exact State.carry_wf _ _ _ _ (hs _ (by rw [ht, h]; exact hm))
  · exact State.askTag_wf _ _ _ _ _ (hs _ (by rw [ht, h]; exact hm))
  · exact State.reserve_wf _ _ (hs _ (by rw [State.pageFault_mem, ht, h]; exact hm))
  · exact State.reserve_wf _ _ (by rw [State.waitPlace_mem]; exact hs _ (by rw [ht, h]; exact hm))
  · exact hm
@[simp] theorem State.closeLoads_mem (s x1) : (@State.closeLoads s x1).mem = s.mem := by
  rfl
@[simp] theorem State.issued_mem (s) : (@State.issued s).mem = s.mem := by
  rfl
theorem State.tlsAccess_wf (s u acc loc) (start : State → State) (hm : Memory.wf s.mem = true)
    (hs : ∀ s, Memory.wf s.mem = true → Memory.wf (start s).mem = true) :
    Memory.wf (State.tlsAccess s u acc loc start).mem = true := by
  unfold State.tlsAccess
  dsimp only
  split
  · exact State.sendOff_wf _ _ _ _ _ hm (fun s => by simp) (fun s h => by rw [State.modThread_mem]; exact hs _ h)
  · exact hm
theorem State.callTo_wf (s x1 x2 x3) (hm : Memory.wf s.mem = true) : Memory.wf ((@State.callTo s x1 x2 x3).mem) = true := by
  unfold State.callTo; repeat' (first | assumption | intro _ | apply State.doneAt_wf | apply State.tlsAccess_wf | dsimp only | split | refine foldl_wf _ (fun s x hm => ?_) _ _ ?_ | refine foldl_snd_wf _ (fun s x hm => ?_) _ _ ?_ | (simp; done) | (simp; assumption) | (simp))
theorem execCall_wf (x0 x1 s) (hm : Memory.wf s.mem = true) : Memory.wf (Out.memory (@execCall x0 x1 s) s.mem) = true := by
  unfold execCall; repeat' (first | assumption | intro _ | apply execWith_wf | apply State.callTo_wf | dsimp only | split | refine foldl_wf _ (fun s x hm => ?_) _ _ ?_ | refine foldl_snd_wf _ (fun s x hm => ?_) _ _ ?_ | (simp; done) | (simp; assumption) | (simp))
theorem execCallr_wf (x0 x1 s) (hm : Memory.wf s.mem = true) : Memory.wf (Out.memory (@execCallr x0 x1 s) s.mem) = true := by
  unfold execCallr; repeat' (first | assumption | intro _ | apply execWith_wf | apply State.callTo_wf | dsimp only | split | refine foldl_wf _ (fun s x hm => ?_) _ _ ?_ | refine foldl_snd_wf _ (fun s x hm => ?_) _ _ ?_ | (simp; done) | (simp; assumption) | (simp))
theorem execRet_wf (x0 s) (hm : Memory.wf s.mem = true) : Memory.wf (Out.memory (execRet x0 s) s.mem) = true := by
  unfold execRet
  refine execWith_wf _ _ _ _ hm (fun u => ?_)
  split
  · exact State.doneAt_wf _ _ _ _ hm
  · exact State.tlsAccess_wf _ _ _ _ _ hm (fun s h => State.done_wf _ _ _ _ _ h)
theorem execExit_wf (x0 s) (hm : Memory.wf s.mem = true) : Memory.wf (Out.memory (@execExit x0 s) s.mem) = true := by
  unfold execExit; repeat' (first | assumption | intro _ | apply execWith_wf | apply State.done_wf | apply State.commit_wf | dsimp only | split | refine foldl_wf _ (fun s x hm => ?_) _ _ ?_ | refine foldl_snd_wf _ (fun s x hm => ?_) _ _ ?_ | (simp; done) | (simp; assumption) | (simp))
theorem State.rjpWith_wf (s x1 x2 x3 x4) (hm : Memory.wf s.mem = true) : Memory.wf ((@State.rjpWith s x1 x2 x3 x4).mem) = true := by
  unfold State.rjpWith; repeat' (first | assumption | intro _ | apply State.done_wf | apply State.tlsAccess_wf | dsimp only | split | refine foldl_wf _ (fun s x hm => ?_) _ _ ?_ | refine foldl_snd_wf _ (fun s x hm => ?_) _ _ ?_ | (simp; done) | (simp; assumption) | (simp))
theorem execRjp_wf (x0 x1 x2 s) (hm : Memory.wf s.mem = true) : Memory.wf (Out.memory (@execRjp x0 x1 x2 s) s.mem) = true := by
  unfold execRjp; repeat' (first | assumption | intro _ | apply execWith_wf | apply State.rjpWith_wf | dsimp only | split | refine foldl_wf _ (fun s x hm => ?_) _ _ ?_ | refine foldl_snd_wf _ (fun s x hm => ?_) _ _ ?_ | (simp; done) | (simp; assumption) | (simp))
theorem execRjpReg_wf (x0 x1 x2 s) (hm : Memory.wf s.mem = true) : Memory.wf (Out.memory (@execRjpReg x0 x1 x2 s) s.mem) = true := by
  unfold execRjpReg; repeat' (first | assumption | intro _ | apply execWith_wf | apply State.rjpWith_wf | dsimp only | split | refine foldl_wf _ (fun s x hm => ?_) _ _ ?_ | refine foldl_snd_wf _ (fun s x hm => ?_) _ _ ?_ | (simp; done) | (simp; assumption) | (simp))
theorem execRjw_wf (x0 x1 s) (hm : Memory.wf s.mem = true) : Memory.wf (Out.memory (@execRjw x0 x1 s) s.mem) = true := by
  unfold execRjw; repeat' (first | assumption | intro _ | apply execWith_wf | apply State.done_wf | apply State.tlsAccess_wf | dsimp only | split | refine foldl_wf _ (fun s x hm => ?_) _ _ ?_ | refine foldl_snd_wf _ (fun s x hm => ?_) _ _ ?_ | (simp; done) | (simp; assumption) | (simp))
theorem execBrk_wf (x0 x1 s) (hm : Memory.wf s.mem = true) : Memory.wf (Out.memory (@execBrk x0 x1 s) s.mem) = true := by
  unfold execBrk; repeat' (first | assumption | intro _ | apply execWith_wf | apply State.done_wf | apply State.tlsAccess_wf | dsimp only | split | refine foldl_wf _ (fun s x hm => ?_) _ _ ?_ | refine foldl_snd_wf _ (fun s x hm => ?_) _ _ ?_ | (simp; done) | (simp; assumption) | (simp))
@[simp] theorem State.endTenure_mem (s x1 x2) : (@State.endTenure s x1 x2).mem = s.mem := by
  rfl
theorem execYld_wf (x0 s) (hm : Memory.wf s.mem = true) : Memory.wf (Out.memory (@execYld x0 s) s.mem) = true := by
  unfold execYld; repeat' (first | assumption | intro _ | apply execWith_wf | apply State.done_wf | dsimp only | split | refine foldl_wf _ (fun s x hm => ?_) _ _ ?_ | refine foldl_snd_wf _ (fun s x hm => ?_) _ _ ?_ | (simp; done) | (simp; assumption) | (simp))
theorem execSleep_wf (x0 x1 s) (hm : Memory.wf s.mem = true) : Memory.wf (Out.memory (@execSleep x0 x1 s) s.mem) = true := by
  unfold execSleep; repeat' (first | assumption | intro _ | apply execWith_wf | apply State.done_wf | dsimp only | split | refine foldl_wf _ (fun s x hm => ?_) _ _ ?_ | refine foldl_snd_wf _ (fun s x hm => ?_) _ _ ?_ | (simp; done) | (simp; assumption) | (simp))
@[simp] theorem State.badArrival_mem (s x1 x2) : (@State.badArrival s x1 x2).mem = s.mem := by
  rfl
@[simp] theorem State.arrive_mem (s x1 x2 x3) : (@State.arrive s x1 x2 x3).mem = s.mem := by
  unfold State.arrive; repeat' (first | rfl | (refine (foldl_mem _ (fun s x => ?_) _ _).trans ?_) | split | (simp; done) | dsimp only)
theorem execCollective_wf (x0 s x2 x3 x4) (hm : Memory.wf s.mem = true) : Memory.wf (Out.memory (@execCollective x0 s x2 x3 x4) s.mem) = true := by
  unfold execCollective; repeat' (first | assumption | intro _ | apply State.syncFault_wf | apply State.done_wf | dsimp only | split | refine foldl_wf _ (fun s x hm => ?_) _ _ ?_ | refine foldl_snd_wf _ (fun s x hm => ?_) _ _ ?_ | (simp; done) | (simp; assumption) | (simp))
theorem execRdv_wf (x0 x1 s) (hm : Memory.wf s.mem = true) : Memory.wf (Out.memory (@execRdv x0 x1 s) s.mem) = true := by
  unfold execRdv; repeat' (first | assumption | intro _ | apply execCollective_wf | dsimp only | split | refine foldl_wf _ (fun s x hm => ?_) _ _ ?_ | refine foldl_snd_wf _ (fun s x hm => ?_) _ _ ?_ | (simp; done) | (simp; assumption) | (simp))
theorem execRdvI_wf (x0 x1 s) (hm : Memory.wf s.mem = true) : Memory.wf (Out.memory (@execRdvI x0 x1 s) s.mem) = true := by
  unfold execRdvI; repeat' (first | assumption | intro _ | apply execCollective_wf | dsimp only | split | refine foldl_wf _ (fun s x hm => ?_) _ _ ?_ | refine foldl_snd_wf _ (fun s x hm => ?_) _ _ ?_ | (simp; done) | (simp; assumption) | (simp))
theorem execShuffle_wf (x0 x1 x2 x3 x4 x5 x6 x7 s) (hm : Memory.wf s.mem = true) : Memory.wf (Out.memory (@execShuffle x0 x1 x2 x3 x4 x5 x6 x7 s) s.mem) = true := by
  unfold execShuffle; repeat' (first | assumption | intro _ | apply execCollective_wf | dsimp only | split | refine foldl_wf _ (fun s x hm => ?_) _ _ ?_ | refine foldl_snd_wf _ (fun s x hm => ?_) _ _ ?_ | (simp; done) | (simp; assumption) | (simp))
theorem execGshf_wf (x0 x1 x2 x3 x4 x5 x6 s) (hm : Memory.wf s.mem = true) : Memory.wf (Out.memory (@execGshf x0 x1 x2 x3 x4 x5 x6 s) s.mem) = true := by
  unfold execGshf; repeat' (first | assumption | intro _ | apply execShuffle_wf | dsimp only | split | refine foldl_wf _ (fun s x hm => ?_) _ _ ?_ | refine foldl_snd_wf _ (fun s x hm => ?_) _ _ ?_ | (simp; done) | (simp; assumption) | (simp))
theorem execGshx_wf (x0 x1 x2 x3 x4 x5 x6 s) (hm : Memory.wf s.mem = true) : Memory.wf (Out.memory (@execGshx x0 x1 x2 x3 x4 x5 x6 s) s.mem) = true := by
  unfold execGshx; repeat' (first | assumption | intro _ | apply execShuffle_wf | dsimp only | split | refine foldl_wf _ (fun s x hm => ?_) _ _ ?_ | refine foldl_snd_wf _ (fun s x hm => ?_) _ _ ?_ | (simp; done) | (simp; assumption) | (simp))
theorem execGshu_wf (x0 x1 x2 x3 x4 x5 x6 s) (hm : Memory.wf s.mem = true) : Memory.wf (Out.memory (@execGshu x0 x1 x2 x3 x4 x5 x6 s) s.mem) = true := by
  unfold execGshu; repeat' (first | assumption | intro _ | apply execShuffle_wf | dsimp only | split | refine foldl_wf _ (fun s x hm => ?_) _ _ ?_ | refine foldl_snd_wf _ (fun s x hm => ?_) _ _ ?_ | (simp; done) | (simp; assumption) | (simp))
theorem execGshd_wf (x0 x1 x2 x3 x4 x5 x6 s) (hm : Memory.wf s.mem = true) : Memory.wf (Out.memory (@execGshd x0 x1 x2 x3 x4 x5 x6 s) s.mem) = true := by
  unfold execGshd; repeat' (first | assumption | intro _ | apply execShuffle_wf | dsimp only | split | refine foldl_wf _ (fun s x hm => ?_) _ _ ?_ | refine foldl_snd_wf _ (fun s x hm => ?_) _ _ ?_ | (simp; done) | (simp; assumption) | (simp))
theorem execGbal_wf (x0 x1 x2 x3 s) (hm : Memory.wf s.mem = true) : Memory.wf (Out.memory (@execGbal x0 x1 x2 x3 s) s.mem) = true := by
  unfold execGbal; repeat' (first | assumption | intro _ | apply execCollective_wf | dsimp only | split | refine foldl_wf _ (fun s x hm => ?_) _ _ ?_ | refine foldl_snd_wf _ (fun s x hm => ?_) _ _ ?_ | (simp; done) | (simp; assumption) | (simp))
theorem execGbalI_wf (x0 x1 x2 x3 s) (hm : Memory.wf s.mem = true) : Memory.wf (Out.memory (@execGbalI x0 x1 x2 x3 s) s.mem) = true := by
  unfold execGbalI; repeat' (first | assumption | intro _ | apply execCollective_wf | dsimp only | split | refine foldl_wf _ (fun s x hm => ?_) _ _ ?_ | refine foldl_snd_wf _ (fun s x hm => ?_) _ _ ?_ | (simp; done) | (simp; assumption) | (simp))
theorem execGany_wf (x0 x1 x2 x3 s) (hm : Memory.wf s.mem = true) : Memory.wf (Out.memory (@execGany x0 x1 x2 x3 s) s.mem) = true := by
  unfold execGany; repeat' (first | assumption | intro _ | apply execCollective_wf | dsimp only | split | refine foldl_wf _ (fun s x hm => ?_) _ _ ?_ | refine foldl_snd_wf _ (fun s x hm => ?_) _ _ ?_ | (simp; done) | (simp; assumption) | (simp))
theorem execGanyI_wf (x0 x1 x2 x3 s) (hm : Memory.wf s.mem = true) : Memory.wf (Out.memory (@execGanyI x0 x1 x2 x3 s) s.mem) = true := by
  unfold execGanyI; repeat' (first | assumption | intro _ | apply execCollective_wf | dsimp only | split | refine foldl_wf _ (fun s x hm => ?_) _ _ ?_ | refine foldl_snd_wf _ (fun s x hm => ?_) _ _ ?_ | (simp; done) | (simp; assumption) | (simp))
theorem execGall_wf (x0 x1 x2 x3 s) (hm : Memory.wf s.mem = true) : Memory.wf (Out.memory (@execGall x0 x1 x2 x3 s) s.mem) = true := by
  unfold execGall; repeat' (first | assumption | intro _ | apply execCollective_wf | dsimp only | split | refine foldl_wf _ (fun s x hm => ?_) _ _ ?_ | refine foldl_snd_wf _ (fun s x hm => ?_) _ _ ?_ | (simp; done) | (simp; assumption) | (simp))
theorem execGallI_wf (x0 x1 x2 x3 s) (hm : Memory.wf s.mem = true) : Memory.wf (Out.memory (@execGallI x0 x1 x2 x3 s) s.mem) = true := by
  unfold execGallI; repeat' (first | assumption | intro _ | apply execCollective_wf | dsimp only | split | refine foldl_wf _ (fun s x hm => ?_) _ _ ?_ | refine foldl_snd_wf _ (fun s x hm => ?_) _ _ ?_ | (simp; done) | (simp; assumption) | (simp))
theorem execGred_wf (x0 x1 x2 x3 x4 x5 x6 s) (hm : Memory.wf s.mem = true) : Memory.wf (Out.memory (@execGred x0 x1 x2 x3 x4 x5 x6 s) s.mem) = true := by
  unfold execGred; repeat' (first | assumption | intro _ | apply execCollective_wf | dsimp only | split | refine foldl_wf _ (fun s x hm => ?_) _ _ ?_ | refine foldl_snd_wf _ (fun s x hm => ?_) _ _ ?_ | (simp; done) | (simp; assumption) | (simp))
theorem execGscn_wf (x0 x1 x2 x3 x4 x5 x6 x7 s) (hm : Memory.wf s.mem = true) : Memory.wf (Out.memory (@execGscn x0 x1 x2 x3 x4 x5 x6 x7 s) s.mem) = true := by
  unfold execGscn; repeat' (first | assumption | intro _ | apply execCollective_wf | dsimp only | split | refine foldl_wf _ (fun s x hm => ?_) _ _ ?_ | refine foldl_snd_wf _ (fun s x hm => ?_) _ _ ?_ | (simp; done) | (simp; assumption) | (simp))
theorem execGmat_wf (x0 x1 x2 x3 x4 s) (hm : Memory.wf s.mem = true) : Memory.wf (Out.memory (@execGmat x0 x1 x2 x3 x4 s) s.mem) = true := by
  unfold execGmat; repeat' (first | assumption | intro _ | apply execCollective_wf | dsimp only | split | refine foldl_wf _ (fun s x hm => ?_) _ _ ?_ | refine foldl_snd_wf _ (fun s x hm => ?_) _ _ ?_ | (simp; done) | (simp; assumption) | (simp))
theorem State.clampedAccess_wf (s x1) (hm : Memory.wf s.mem = true) : Memory.wf ((@State.clampedAccess s x1).mem) = true := by
  unfold State.clampedAccess; repeat' (first | assumption | intro _ | apply State.commit_wf | dsimp only | split | refine foldl_wf _ (fun s x hm => ?_) _ _ ?_ | refine foldl_snd_wf _ (fun s x hm => ?_) _ _ ?_ | (simp; done) | (simp; assumption) | (simp))
@[simp] theorem pickOld_mem (x0 x1 x2 x3 x4 s) : ((@pickOld x0 x1 x2 x3 x4 s).2).mem = s.mem := by
  fun_induction pickOld x0 x1 x2 x3 x4 s <;> first | rfl | simp +zetaDelta [*]
@[simp] theorem State.scrByte_mem (s x1 x2 x3 x4 x5) : ((@State.scrByte s x1 x2 x3 x4 x5).2).mem = s.mem := by
  unfold State.scrByte; (try dsimp only); (repeat' split) <;> first | rfl | simp
@[simp] theorem State.scrBytes_mem (x0 x1 x2 x3 x4 x5 s) : ((@State.scrBytes x0 x1 x2 x3 x4 x5 s).2).mem = s.mem := by
  fun_induction State.scrBytes x0 x1 x2 x3 x4 x5 s <;> first | rfl | simp +zetaDelta [*]
theorem State.carryScr_wf (s x1) (hm : Memory.wf s.mem = true) : Memory.wf ((@State.carryScr s x1).mem) = true := by
  unfold State.carryScr; repeat' (first | assumption | intro _ | apply State.commit_wf | dsimp only | split | refine foldl_wf _ (fun s x hm => ?_) _ _ ?_ | refine foldl_snd_wf _ (fun s x hm => ?_) _ _ ?_ | (simp; done) | (simp; assumption) | (simp))
theorem State.access_wf (s x1 x2 x3 x4) (hm : Memory.wf s.mem = true) : Memory.wf ((@State.access s x1 x2 x3 x4).mem) = true := by
  unfold State.access; repeat' (first | assumption | intro _ | apply State.retire_wf | apply State.clampedAccess_wf | apply State.carryScr_wf | apply State.sendOff_wf | dsimp only | split | refine foldl_wf _ (fun s x hm => ?_) _ _ ?_ | refine foldl_snd_wf _ (fun s x hm => ?_) _ _ ?_ | (simp; done) | (simp; assumption) | (simp))
theorem execAccess_wf (x0 s x2 x3 x4) (hm : Memory.wf s.mem = true) : Memory.wf (Out.memory (@execAccess x0 s x2 x3 x4) s.mem) = true := by
  unfold execAccess; repeat' (first | assumption | intro _ | apply execWith_wf | apply State.access_wf | dsimp only | split | refine foldl_wf _ (fun s x hm => ?_) _ _ ?_ | refine foldl_snd_wf _ (fun s x hm => ?_) _ _ ?_ | (simp; done) | (simp; assumption) | (simp))
theorem execLd_wf (x0 x1 x2 x3 x4 x5 x6 x7 s) (hm : Memory.wf s.mem = true) : Memory.wf (Out.memory (@execLd x0 x1 x2 x3 x4 x5 x6 x7 s) s.mem) = true := by
  unfold execLd; repeat' (first | assumption | intro _ | apply execAccess_wf | dsimp only | split | refine foldl_wf _ (fun s x hm => ?_) _ _ ?_ | refine foldl_snd_wf _ (fun s x hm => ?_) _ _ ?_ | (simp; done) | (simp; assumption) | (simp))
theorem execSt_wf (x0 x1 x2 x3 x4 x5 x6 x7 x8 s) (hm : Memory.wf s.mem = true) : Memory.wf (Out.memory (@execSt x0 x1 x2 x3 x4 x5 x6 x7 x8 s) s.mem) = true := by
  unfold execSt; repeat' (first | assumption | intro _ | apply execAccess_wf | dsimp only | split | refine foldl_wf _ (fun s x hm => ?_) _ _ ?_ | refine foldl_snd_wf _ (fun s x hm => ?_) _ _ ?_ | (simp; done) | (simp; assumption) | (simp))
theorem execBset_wf (x0 x1 x2 s) (hm : Memory.wf s.mem = true) : Memory.wf (Out.memory (@execBset x0 x1 x2 s) s.mem) = true := by
  unfold execBset; repeat' (first | assumption | intro _ | apply execLocal_wf | dsimp only | split | refine foldl_wf _ (fun s x hm => ?_) _ _ ?_ | refine foldl_snd_wf _ (fun s x hm => ?_) _ _ ?_ | (simp; done) | (simp; assumption) | (simp))
theorem execBget_wf (x0 x1 x2 x3 x4 s) (hm : Memory.wf s.mem = true) : Memory.wf (Out.memory (@execBget x0 x1 x2 x3 x4 s) s.mem) = true := by
  unfold execBget; repeat' (first | assumption | intro _ | apply execAccess_wf | dsimp only | split | refine foldl_wf _ (fun s x hm => ?_) _ _ ?_ | refine foldl_snd_wf _ (fun s x hm => ?_) _ _ ?_ | (simp; done) | (simp; assumption) | (simp))
theorem execBchk_wf (x0 x1 x2 x3 x4 x5 x6 s) (hm : Memory.wf s.mem = true) : Memory.wf (Out.memory (@execBchk x0 x1 x2 x3 x4 x5 x6 s) s.mem) = true := by
  unfold execBchk; repeat' (first | assumption | intro _ | apply execLocal_wf | dsimp only | split | refine foldl_wf _ (fun s x hm => ?_) _ _ ?_ | refine foldl_snd_wf _ (fun s x hm => ?_) _ _ ?_ | (simp; done) | (simp; assumption) | (simp))
theorem execLtag_wf (x0 x1 x2 x3 x4 s) (hm : Memory.wf s.mem = true) : Memory.wf (Out.memory (@execLtag x0 x1 x2 x3 x4 s) s.mem) = true := by
  unfold execLtag; repeat' (first | assumption | intro _ | apply execAccess_wf | dsimp only | split | refine foldl_wf _ (fun s x hm => ?_) _ _ ?_ | refine foldl_snd_wf _ (fun s x hm => ?_) _ _ ?_ | (simp; done) | (simp; assumption) | (simp))
@[simp] theorem State.prefetch_mem (s x1 x2 x3 x4) : (@State.prefetch s x1 x2 x3 x4).mem = s.mem := by
  unfold State.prefetch; (try dsimp only); (repeat' split) <;> first | rfl | simp
theorem execPref_wf (x0 x1 x2 x3 x4 s) (hm : Memory.wf s.mem = true) : Memory.wf (Out.memory (@execPref x0 x1 x2 x3 x4 s) s.mem) = true := by
  unfold execPref; repeat' (first | assumption | intro _ | apply execWith_wf | apply State.done_wf | dsimp only | split | refine foldl_wf _ (fun s x hm => ?_) _ _ ?_ | refine foldl_snd_wf _ (fun s x hm => ?_) _ _ ?_ | (simp; done) | (simp; assumption) | (simp))
theorem State.command_wf (s u c e full) (add : Nat → Nat → State → State) (hm : Memory.wf s.mem = true)
    (ha : ∀ i n s, Memory.wf s.mem = true → Memory.wf (add i n s).mem = true) :
    Memory.wf (State.command s u c e full add).mem = true := by
  unfold State.command
  split
  · exact State.popIssue_wf _ (by simpa using hm)
  · dsimp only
    refine ha _ _ _ ?_
    simp only [State.modBlock_mem]
    exact State.done_wf _ _ _ _ _ hm
@[simp] theorem State.compare_mem (s x1 x2 x3) : ((@State.compare s x1 x2 x3).2).mem = s.mem := by
  simp [State.compare]
theorem State.once_wf (s u key) (act : Option Nat → State → State) (trail : State → State) (hm : Memory.wf s.mem = true)
    (ha : ∀ o s, Memory.wf s.mem = true → Memory.wf (act o s).mem = true)
    (ht : ∀ s, Memory.wf s.mem = true → Memory.wf (trail s).mem = true) :
    Memory.wf (State.once s u key act trail).mem = true := by
  unfold State.once
  split
  · exact ha _ _ hm
  · split
    · exact ht _ hm
    · split
      · exact State.popIssue_wf _ (by simpa using hm)
      · dsimp only
        split
        · exact ha _ _ (by simpa using hm)
        · rw [State.consumes_mem]; exact State.popIssue_wf _ (by simpa using hm)
@[simp] theorem State.present_mem (s x1 x2 x3 x4) : (@State.present s x1 x2 x3 x4).mem = s.mem := by
  rfl
theorem State.transfer_wf (s x1 x2 x3 x4 x5 x6 x7) (hm : Memory.wf s.mem = true) : Memory.wf ((@State.transfer s x1 x2 x3 x4 x5 x6 x7).mem) = true := by
  unfold State.transfer; repeat' (first | assumption | intro _ | apply State.command_wf | apply State.once_wf | dsimp only | split | refine foldl_wf _ (fun s x hm => ?_) _ _ ?_ | refine foldl_snd_wf _ (fun s x hm => ?_) _ _ ?_ | (simp; done) | (simp; assumption) | (simp))
theorem execXcp_wf (x0 x1 x2 x3 x4 x5 x6 x7 x8 s) (hm : Memory.wf s.mem = true) : Memory.wf (Out.memory (@execXcp x0 x1 x2 x3 x4 x5 x6 x7 x8 s) s.mem) = true := by
  unfold execXcp; repeat' (first | assumption | intro _ | apply execWith_wf | apply State.transfer_wf | dsimp only | split | refine foldl_wf _ (fun s x hm => ?_) _ _ ?_ | refine foldl_snd_wf _ (fun s x hm => ?_) _ _ ?_ | (simp; done) | (simp; assumption) | (simp))
theorem execXcpDesc_wf (x0 x1 x2 x3 x4 x5 x6 s) (hm : Memory.wf s.mem = true) : Memory.wf (Out.memory (@execXcpDesc x0 x1 x2 x3 x4 x5 x6 s) s.mem) = true := by
  unfold execXcpDesc; repeat' (first | assumption | intro _ | apply execWith_wf | apply State.transfer_wf | dsimp only | split | refine foldl_wf _ (fun s x hm => ?_) _ _ ?_ | refine foldl_snd_wf _ (fun s x hm => ?_) _ _ ?_ | (simp; done) | (simp; assumption) | (simp))
theorem execXln_wf (x0 x1 x2 x3 x4 x5 x6 x7 s) (hm : Memory.wf s.mem = true) : Memory.wf (Out.memory (@execXln x0 x1 x2 x3 x4 x5 x6 x7 s) s.mem) = true := by
  unfold execXln; repeat' (first | assumption | intro _ | apply execWith_wf | apply State.transfer_wf | dsimp only | split | refine foldl_wf _ (fun s x hm => ?_) _ _ ?_ | refine foldl_snd_wf _ (fun s x hm => ?_) _ _ ?_ | (simp; done) | (simp; assumption) | (simp))
theorem execXrot_wf (x0 x1 x2 x3 x4 x5 x6 x7 s) (hm : Memory.wf s.mem = true) : Memory.wf (Out.memory (@execXrot x0 x1 x2 x3 x4 x5 x6 x7 s) s.mem) = true := by
  unfold execXrot; repeat' (first | assumption | intro _ | apply execWith_wf | apply State.transfer_wf | dsimp only | split | refine foldl_wf _ (fun s x hm => ?_) _ _ ?_ | refine foldl_snd_wf _ (fun s x hm => ?_) _ _ ?_ | (simp; done) | (simp; assumption) | (simp))
@[simp] theorem State.eccWord_mem (s x1 x2) : (@State.eccWord s x1 x2).mem = s.mem := by
  unfold State.eccWord; (try dsimp only); (repeat' split) <;> first | rfl | simp
theorem State.absentWord_wf (s x1 x2) (hm : Memory.wf s.mem = true) : Memory.wf ((@State.absentWord s x1 x2).mem) = true := by
  unfold State.absentWord; repeat' (first | assumption | intro _ | apply State.done_wf | dsimp only | split | refine foldl_wf _ (fun s x hm => ?_) _ _ ?_ | refine foldl_snd_wf _ (fun s x hm => ?_) _ _ ?_ | (simp; done) | (simp; assumption) | (simp))
theorem execAinit_wf (x0 x1 x2 x3 x4 x5 s) (hm : Memory.wf s.mem = true) : Memory.wf (Out.memory (@execAinit x0 x1 x2 x3 x4 x5 s) s.mem) = true := by
  unfold execAinit; repeat' (first | assumption | intro _ | apply execWith_wf | apply State.done_wf | apply State.absentWord_wf | dsimp only | split | refine foldl_wf _ (fun s x hm => ?_) _ _ ?_ | refine foldl_snd_wf _ (fun s x hm => ?_) _ _ ?_ | (simp; done) | (simp; assumption) | (simp))
@[simp] theorem State.countWord_mem (s x1 x2 x3 x4 x5) : ((@State.countWord s x1 x2 x3 x4 x5).2).mem = s.mem := by
  unfold State.countWord; (try dsimp only); (repeat' split) <;> first | rfl | simp
theorem execAarv_wf (x0 x1 x2 x3 x4 s) (hm : Memory.wf s.mem = true) : Memory.wf (Out.memory (@execAarv x0 x1 x2 x3 x4 s) s.mem) = true := by
  unfold execAarv; repeat' (first | assumption | intro _ | apply execWith_wf | apply State.done_wf | apply State.absentWord_wf | dsimp only | split | refine foldl_wf _ (fun s x hm => ?_) _ _ ?_ | refine foldl_snd_wf _ (fun s x hm => ?_) _ _ ?_ | (simp; done) | (simp; assumption) | (simp))
theorem execAwt_wf (x0 x1 x2 x3 x4 x5 s) (hm : Memory.wf s.mem = true) : Memory.wf (Out.memory (@execAwt x0 x1 x2 x3 x4 x5 s) s.mem) = true := by
  unfold execAwt; repeat' (first | assumption | intro _ | apply execWith_wf | apply State.done_wf | apply State.absentWord_wf | dsimp only | split | refine foldl_wf _ (fun s x hm => ?_) _ _ ?_ | refine foldl_snd_wf _ (fun s x hm => ?_) _ _ ?_ | (simp; done) | (simp; assumption) | (simp))
theorem State.presented_wf (s x1 x2 x3) (hm : Memory.wf s.mem = true) : Memory.wf ((@State.presented s x1 x2 x3).mem) = true := by
  unfold State.presented; repeat' (first | assumption | intro _ | apply State.done_wf | apply State.commit_wf | dsimp only | split | refine foldl_wf _ (fun s x hm => ?_) _ _ ?_ | refine foldl_snd_wf _ (fun s x hm => ?_) _ _ ?_ | (simp; done) | (simp; assumption) | (simp))
theorem execOnce_wf (x0 s x2 x3 x4) (hm : Memory.wf s.mem = true) : Memory.wf (Out.memory (@execOnce x0 s x2 x3 x4) s.mem) = true := by
  unfold execOnce; repeat' (first | assumption | intro _ | apply execWith_wf | apply State.once_wf | apply State.access_wf | apply State.presented_wf | dsimp only | split | refine foldl_wf _ (fun s x hm => ?_) _ _ ?_ | refine foldl_snd_wf _ (fun s x hm => ?_) _ _ ?_ | (simp; done) | (simp; assumption) | (simp))
theorem execAtom_wf (x0 x1 x2 x3 x4 x5 x6 x7 x8 s) (hm : Memory.wf s.mem = true) : Memory.wf (Out.memory (@execAtom x0 x1 x2 x3 x4 x5 x6 x7 x8 s) s.mem) = true := by
  unfold execAtom; repeat' (first | assumption | intro _ | apply execOnce_wf | dsimp only | split | refine foldl_wf _ (fun s x hm => ?_) _ _ ?_ | refine foldl_snd_wf _ (fun s x hm => ?_) _ _ ?_ | (simp; done) | (simp; assumption) | (simp))
theorem execRed_wf (x0 x1 x2 x3 x4 x5 s) (hm : Memory.wf s.mem = true) : Memory.wf (Out.memory (@execRed x0 x1 x2 x3 x4 x5 s) s.mem) = true := by
  unfold execRed; repeat' (first | assumption | intro _ | apply execAccess_wf | dsimp only | split | refine foldl_wf _ (fun s x hm => ?_) _ _ ?_ | refine foldl_snd_wf _ (fun s x hm => ?_) _ _ ?_ | (simp; done) | (simp; assumption) | (simp))
theorem execAcq_wf (x0 x1 x2 x3 x4 x5 s) (hm : Memory.wf s.mem = true) : Memory.wf (Out.memory (@execAcq x0 x1 x2 x3 x4 x5 s) s.mem) = true := by
  unfold execAcq; repeat' (first | assumption | intro _ | apply execOnce_wf | dsimp only | split | refine foldl_wf _ (fun s x hm => ?_) _ _ ?_ | refine foldl_snd_wf _ (fun s x hm => ?_) _ _ ?_ | (simp; done) | (simp; assumption) | (simp))
theorem execRel_wf (x0 x1 x2 x3 x4 x5 x6 s) (hm : Memory.wf s.mem = true) : Memory.wf (Out.memory (@execRel x0 x1 x2 x3 x4 x5 x6 s) s.mem) = true := by
  unfold execRel; repeat' (first | assumption | intro _ | apply execOnce_wf | dsimp only | split | refine foldl_wf _ (fun s x hm => ?_) _ _ ?_ | refine foldl_snd_wf _ (fun s x hm => ?_) _ _ ?_ | (simp; done) | (simp; assumption) | (simp))
@[simp] theorem State.later_mem (s x1 x2) : (@State.later s x1 x2).mem = s.mem := by
  rfl
theorem State.bindLater_wf (s x1 x2 x3 x4 x5 x6 x7) (hm : Memory.wf s.mem = true) : Memory.wf ((@State.bindLater s x1 x2 x3 x4 x5 x6 x7).mem) = true := by
  unfold State.bindLater; repeat' (first | assumption | intro _ | apply State.done_wf | dsimp only | split | refine foldl_wf _ (fun s x hm => ?_) _ _ ?_ | refine foldl_snd_wf _ (fun s x hm => ?_) _ _ ?_ | (simp; done) | (simp; assumption) | (simp))
theorem execBind_wf (x0 x1 x2 x3 x4 s) (hm : Memory.wf s.mem = true) : Memory.wf (Out.memory (@execBind x0 x1 x2 x3 x4 s) s.mem) = true := by
  unfold execBind; repeat' (first | assumption | intro _ | apply execWith_wf | apply State.once_wf | apply State.bindLater_wf | apply State.done_wf | dsimp only | split | refine foldl_wf _ (fun s x hm => ?_) _ _ ?_ | refine foldl_snd_wf _ (fun s x hm => ?_) _ _ ?_ | (simp; done) | (simp; assumption) | (simp))
theorem execFence_wf (x0 x1 x2 s) (hm : Memory.wf s.mem = true) : Memory.wf (Out.memory (@execFence x0 x1 x2 s) s.mem) = true := by
  unfold execFence; repeat' (first | assumption | intro _ | apply execWith_wf | apply State.done_wf | dsimp only | split | refine foldl_wf _ (fun s x hm => ?_) _ _ ?_ | refine foldl_snd_wf _ (fun s x hm => ?_) _ _ ?_ | (simp; done) | (simp; assumption) | (simp))
theorem execPark_wf (x0 s x2) (hm : Memory.wf s.mem = true) : Memory.wf (Out.memory (@execPark x0 s x2) s.mem) = true := by
  unfold execPark; repeat' (first | assumption | intro _ | apply State.syncFault_wf | apply State.done_wf | dsimp only | split | refine foldl_wf _ (fun s x hm => ?_) _ _ ?_ | refine foldl_snd_wf _ (fun s x hm => ?_) _ _ ?_ | (simp; done) | (simp; assumption) | (simp))
theorem execBar_wf (x0 s) (hm : Memory.wf s.mem = true) : Memory.wf (Out.memory (@execBar x0 s) s.mem) = true := by
  unfold execBar; repeat' (first | assumption | intro _ | apply execPark_wf | dsimp only | split | refine foldl_wf _ (fun s x hm => ?_) _ _ ?_ | refine foldl_snd_wf _ (fun s x hm => ?_) _ _ ?_ | (simp; done) | (simp; assumption) | (simp))
theorem execCmt_wf (x0 x1 s) (hm : Memory.wf s.mem = true) : Memory.wf (Out.memory (@execCmt x0 x1 s) s.mem) = true := by
  unfold execCmt; repeat' (first | assumption | intro _ | apply execWith_wf | apply State.commit_wf | apply State.done_wf | dsimp only | split | refine foldl_wf _ (fun s x hm => ?_) _ _ ?_ | refine foldl_snd_wf _ (fun s x hm => ?_) _ _ ?_ | (simp; done) | (simp; assumption) | (simp))
theorem State.matrix_wf (s x1 x2 x3 x4 x5 x6 x7) (hm : Memory.wf s.mem = true) : Memory.wf ((@State.matrix s x1 x2 x3 x4 x5 x6 x7).mem) = true := by
  unfold State.matrix
  exact State.command_wf _ _ _ _ _ _ hm (fun i n s h => by simpa using h)
theorem execMop_wf (x0 x1 x2 s) (hm : Memory.wf s.mem = true) : Memory.wf (Out.memory (@execMop x0 x1 x2 s) s.mem) = true := by
  unfold execMop; repeat' (first | assumption | intro _ | apply execWith_wf | apply State.matrix_wf | dsimp only | split | refine foldl_wf _ (fun s x hm => ?_) _ _ ?_ | refine foldl_snd_wf _ (fun s x hm => ?_) _ _ ?_ | (simp; done) | (simp; assumption) | (simp))
theorem execAld_wf (x0 x1 x2 x3 x4 s) (hm : Memory.wf s.mem = true) : Memory.wf (Out.memory (@execAld x0 x1 x2 x3 x4 s) s.mem) = true := by
  unfold execAld; repeat' (first | assumption | intro _ | apply execWith_wf | apply State.matrix_wf | dsimp only | split | refine foldl_wf _ (fun s x hm => ?_) _ _ ?_ | refine foldl_snd_wf _ (fun s x hm => ?_) _ _ ?_ | (simp; done) | (simp; assumption) | (simp))
theorem execAst_wf (x0 x1 x2 x3 x4 x5 x6 s) (hm : Memory.wf s.mem = true) : Memory.wf (Out.memory (@execAst x0 x1 x2 x3 x4 x5 x6 s) s.mem) = true := by
  unfold execAst; repeat' (first | assumption | intro _ | apply execWith_wf | apply State.matrix_wf | dsimp only | split | refine foldl_wf _ (fun s x hm => ?_) _ _ ?_ | refine foldl_snd_wf _ (fun s x hm => ?_) _ _ ?_ | (simp; done) | (simp; assumption) | (simp))
theorem execAzr_wf (x0 x1 x2 s) (hm : Memory.wf s.mem = true) : Memory.wf (Out.memory (@execAzr x0 x1 x2 s) s.mem) = true := by
  unfold execAzr; repeat' (first | assumption | intro _ | apply execWith_wf | apply State.matrix_wf | dsimp only | split | refine foldl_wf _ (fun s x hm => ?_) _ _ ?_ | refine foldl_snd_wf _ (fun s x hm => ?_) _ _ ?_ | (simp; done) | (simp; assumption) | (simp))
theorem execCkpt_wf (x0 s) (hm : Memory.wf s.mem = true) : Memory.wf (Out.memory (@execCkpt x0 s) s.mem) = true := by
  unfold execCkpt; repeat' (first | assumption | intro _ | apply execPark_wf | dsimp only | split | refine foldl_wf _ (fun s x hm => ?_) _ _ ?_ | refine foldl_snd_wf _ (fun s x hm => ?_) _ _ ?_ | (simp; done) | (simp; assumption) | (simp))
@[simp] theorem State.acceptFlag_mem (s x1 x2 x3 x4) : (@State.acceptFlag s x1 x2 x3 x4).mem = s.mem := by
  rfl
theorem execCcol_wf (x0 x1 x2 x3 x4 x5 s) (hm : Memory.wf s.mem = true) : Memory.wf (Out.memory (@execCcol x0 x1 x2 x3 x4 x5 s) s.mem) = true := by
  unfold execCcol; repeat' (first | assumption | intro _ | apply execWith_wf | apply State.command_wf | apply State.once_wf | dsimp only | split | refine foldl_wf _ (fun s x hm => ?_) _ _ ?_ | refine foldl_snd_wf _ (fun s x hm => ?_) _ _ ?_ | (simp; done) | (simp; assumption) | (simp))
theorem execFtst_wf (x0 x1 x2 x3 s) (hm : Memory.wf s.mem = true) : Memory.wf (Out.memory (@execFtst x0 x1 x2 x3 s) s.mem) = true := by
  unfold execFtst; repeat' (first | assumption | intro _ | apply execLocal_wf | dsimp only | split | refine foldl_wf _ (fun s x hm => ?_) _ _ ?_ | refine foldl_snd_wf _ (fun s x hm => ?_) _ _ ?_ | (simp; done) | (simp; assumption) | (simp))
theorem State.readNow_wf (s x1 x2 x3 x4) (hm : Memory.wf s.mem = true) : Memory.wf ((@State.readNow s x1 x2 x3 x4).mem) = true := by
  unfold State.readNow; repeat' (first | assumption | intro _ | apply State.done_wf | dsimp only | split | refine foldl_wf _ (fun s x hm => ?_) _ _ ?_ | refine foldl_snd_wf _ (fun s x hm => ?_) _ _ ?_ | (simp; done) | (simp; assumption) | (simp))
theorem State.await_wf (s x1 x2 x3 x4) (hm : Memory.wf s.mem = true) : Memory.wf ((@State.await s x1 x2 x3 x4).mem) = true := by
  unfold State.await; repeat' (first | assumption | intro _ | apply State.readNow_wf | apply State.done_wf | dsimp only | split | refine foldl_wf _ (fun s x hm => ?_) _ _ ?_ | refine foldl_snd_wf _ (fun s x hm => ?_) _ _ ?_ | (simp; done) | (simp; assumption) | (simp))
theorem execFwt_wf (x0 x1 x2 s) (hm : Memory.wf s.mem = true) : Memory.wf (Out.memory (@execFwt x0 x1 x2 s) s.mem) = true := by
  unfold execFwt; repeat' (first | assumption | intro _ | apply execWith_wf | apply State.await_wf | dsimp only | split | refine foldl_wf _ (fun s x hm => ?_) _ _ ?_ | refine foldl_snd_wf _ (fun s x hm => ?_) _ _ ?_ | (simp; done) | (simp; assumption) | (simp))
theorem execFwtToken_wf (x0 x1 x2 s) (hm : Memory.wf s.mem = true) : Memory.wf (Out.memory (execFwtToken x0 x1 x2 s) s.mem) = true := by
  have A : ∃ k a, execFwtToken x0 x1 x2 s = execWith x0 s k a ∧ ∀ u, ∃ y, a u = s.await u x0 x1 y :=
    ⟨_, _, rfl, fun u => ⟨_, rfl⟩⟩
  obtain ⟨k, a, e, h⟩ := A
  rw [e]
  refine execWith_wf _ _ _ _ hm (fun u => ?_)
  obtain ⟨y, hy⟩ := h u
  rw [hy]
  exact State.await_wf _ _ _ _ _ hm
@[simp] theorem State.accepted_mem (s x1 x2 x3 x4) : (@State.accepted s x1 x2 x3 x4).mem = s.mem := by
  rfl
@[simp] theorem State.cancelCmd_mem (s x1 x2) : (@State.cancelCmd s x1 x2).mem = s.mem := by
  unfold State.cancelCmd; (try dsimp only); (repeat' split) <;> first | rfl | simp
theorem execFcan_wf (x0 x1 s) (hm : Memory.wf s.mem = true) : Memory.wf (Out.memory (@execFcan x0 x1 s) s.mem) = true := by
  unfold execFcan; repeat' (first | assumption | intro _ | apply execWith_wf | apply State.done_wf | dsimp only | split | refine foldl_wf _ (fun s x hm => ?_) _ _ ?_ | refine foldl_snd_wf _ (fun s x hm => ?_) _ _ ?_ | (simp; done) | (simp; assumption) | (simp))
theorem execFcanToken_wf (x0 x1 s) (hm : Memory.wf s.mem = true) : Memory.wf (Out.memory (execFcanToken x0 x1 s) s.mem) = true := by
  have A : ∃ k a, execFcanToken x0 x1 s = execWith x0 s k a ∧ ∀ u, a u = (match u.b.resolve (u.t.val x1) with
      | some x => if x.status.isNone then (s.done u x0 1 u.t).cancelCmd u.b.bid x.cmd else s.done u x0 1 u.t
      | none => s.done u x0 1 u.t) := ⟨_, _, rfl, fun u => rfl⟩
  obtain ⟨k, a, e, h⟩ := A
  rw [e]
  refine execWith_wf _ _ _ _ hm (fun u => ?_)
  rw [h]
  split
  · split
    · rw [State.cancelCmd_mem]; exact State.done_wf _ _ _ _ _ hm
    · exact State.done_wf _ _ _ _ _ hm
  · exact State.done_wf _ _ _ _ _ hm
theorem execTrap_wf (x0 x1 s) (hm : Memory.wf s.mem = true) : Memory.wf (Out.memory (@execTrap x0 x1 s) s.mem) = true := by
  unfold execTrap; repeat' (first | assumption | intro _ | apply execWith_wf | apply State.done_wf | apply State.endPacket_wf | apply State.takeFault_wf | dsimp only | split | refine foldl_wf _ (fun s x hm => ?_) _ _ ?_ | refine foldl_snd_wf _ (fun s x hm => ?_) _ _ ?_ | (simp; done) | (simp; assumption) | (simp))
theorem execTret_wf (x0 s) (hm : Memory.wf s.mem = true) : Memory.wf (Out.memory (@execTret x0 s) s.mem) = true := by
  unfold execTret; repeat' (first | assumption | intro _ | apply execWith_wf | apply State.doneAt_wf | dsimp only | split | refine foldl_wf _ (fun s x hm => ?_) _ _ ?_ | refine foldl_snd_wf _ (fun s x hm => ?_) _ _ ?_ | (simp; done) | (simp; assumption) | (simp))
theorem execBkpt_wf (x0 x1 s) (hm : Memory.wf s.mem = true) : Memory.wf (Out.memory (@execBkpt x0 x1 s) s.mem) = true := by
  unfold execBkpt; repeat' (first | assumption | intro _ | apply execWith_wf | apply State.done_wf | dsimp only | split | refine foldl_wf _ (fun s x hm => ?_) _ _ ?_ | refine foldl_snd_wf _ (fun s x hm => ?_) _ _ ?_ | (simp; done) | (simp; assumption) | (simp))
theorem execSysr_wf (x0 x1 x2 s) (hm : Memory.wf s.mem = true) : Memory.wf (Out.memory (@execSysr x0 x1 x2 s) s.mem) = true := by
  unfold execSysr; repeat' (first | assumption | intro _ | apply execWith_wf | apply State.done_wf | dsimp only | split | refine foldl_wf _ (fun s x hm => ?_) _ _ ?_ | refine foldl_snd_wf _ (fun s x hm => ?_) _ _ ?_ | (simp; done) | (simp; assumption) | (simp))
theorem execSysw_wf (x0 x1 x2 s) (hm : Memory.wf s.mem = true) : Memory.wf (Out.memory (@execSysw x0 x1 x2 s) s.mem) = true := by
  unfold execSysw; repeat' (first | assumption | intro _ | apply execWith_wf | apply State.done_wf | dsimp only | split | refine foldl_wf _ (fun s x hm => ?_) _ _ ?_ | refine foldl_snd_wf _ (fun s x hm => ?_) _ _ ?_ | (simp; done) | (simp; assumption) | (simp))
@[simp] theorem State.dropDue_mem (s x1) : (@State.dropDue s x1).mem = s.mem := by
  rfl
@[simp] theorem State.lnchWaits_mem (s x1 x2) : (@State.lnchWaits s x1 x2).mem = s.mem := by
  unfold State.lnchWaits; (try dsimp only); (repeat' split) <;> first | rfl | simp
theorem execLnch_wf (x0 x1 x2 s) (hm : Memory.wf s.mem = true) : Memory.wf (Out.memory (@execLnch x0 x1 x2 s) s.mem) = true := by
  unfold execLnch; repeat' (first | assumption | intro _ | apply execWith_wf | apply State.access_wf | apply State.popIssue_wf | dsimp only | split | refine foldl_wf _ (fun s x hm => ?_) _ _ ?_ | refine foldl_snd_wf _ (fun s x hm => ?_) _ _ ?_ | (simp; done) | (simp; assumption) | (simp))
@[simp] theorem State.setCancelled_mem (s x1 x2 x3) : (@State.setCancelled s x1 x2 x3).mem = s.mem := by
  rfl
theorem State.cancelOneLaunch_wf (s x1) (hm : Memory.wf s.mem = true) : Memory.wf ((@State.cancelOneLaunch s x1).mem) = true := by
  unfold State.cancelOneLaunch; repeat' (first | assumption | intro _ | apply State.climbLaunch_wf | dsimp only | split | refine foldl_wf _ (fun s x hm => ?_) _ _ ?_ | refine foldl_snd_wf _ (fun s x hm => ?_) _ _ ?_ | (simp; done) | (simp; assumption) | (simp))
@[simp] theorem State.dropRead_mem (s x1) : (@State.dropRead s x1).mem = s.mem := by
  rfl
theorem State.cancelGraph_wf (s x1) (hm : Memory.wf s.mem = true) : Memory.wf ((@State.cancelGraph s x1).mem) = true := by
  unfold State.cancelGraph; repeat' (first | assumption | intro _ | apply State.graphLeaves_wf | apply State.climbGraph_wf | apply State.cancelOneLaunch_wf | dsimp only | split | refine foldl_wf _ (fun s x hm => ?_) _ _ ?_ | refine foldl_snd_wf _ (fun s x hm => ?_) _ _ ?_ | (simp; done) | (simp; assumption) | (simp))
theorem State.cancelPhase_wf (s x1) (hm : Memory.wf s.mem = true) : Memory.wf ((@State.cancelPhase s x1).mem) = true := by
  unfold State.cancelPhase; repeat' (first | assumption | intro _ | apply State.phaseLeaves_wf | apply State.climbPhase_wf | apply State.cancelGraph_wf | dsimp only | split | refine foldl_wf _ (fun s x hm => ?_) _ _ ?_ | refine foldl_snd_wf _ (fun s x hm => ?_) _ _ ?_ | (simp; done) | (simp; assumption) | (simp))
theorem State.cancelJob_wf (s x1) (hm : Memory.wf s.mem = true) : Memory.wf ((@State.cancelJob s x1).mem) = true := by
  unfold State.cancelJob; repeat' (first | assumption | intro _ | apply State.climbJob_wf | apply State.cancelPhase_wf | dsimp only | split | refine foldl_wf _ (fun s x hm => ?_) _ _ ?_ | refine foldl_snd_wf _ (fun s x hm => ?_) _ _ ?_ | (simp; done) | (simp; assumption) | (simp))
theorem State.cancelLevel_wf (s x1 x2) (hm : Memory.wf s.mem = true) : Memory.wf ((@State.cancelLevel s x1 x2).mem) = true := by
  unfold State.cancelLevel; repeat' (first | assumption | intro _ | apply State.cancelOneLaunch_wf | apply State.cancelGraph_wf | apply State.cancelPhase_wf | apply State.cancelJob_wf | dsimp only | split | refine foldl_wf _ (fun s x hm => ?_) _ _ ?_ | refine foldl_snd_wf _ (fun s x hm => ?_) _ _ ?_ | (simp; done) | (simp; assumption) | (simp))
theorem execCncl_wf (x0 x1 s) (hm : Memory.wf s.mem = true) : Memory.wf (Out.memory (@execCncl x0 x1 s) s.mem) = true := by
  unfold execCncl; repeat' (first | assumption | intro _ | apply execWith_wf | apply State.endPacket_wf | apply State.cancelLevel_wf | apply State.done_wf | dsimp only | split | refine foldl_wf _ (fun s x hm => ?_) _ _ ?_ | refine foldl_snd_wf _ (fun s x hm => ?_) _ _ ?_ | (simp; done) | (simp; assumption) | (simp))
theorem execCsig_wf (x0 x1 x2 x3 x4 s) (hm : Memory.wf s.mem = true) : Memory.wf (Out.memory (@execCsig x0 x1 x2 x3 x4 s) s.mem) = true := by
  unfold execCsig; repeat' (first | assumption | intro _ | apply execWith_wf | apply State.commit_wf | apply State.done_wf | apply State.once_wf | dsimp only | split | refine foldl_wf _ (fun s x hm => ?_) _ _ ?_ | refine foldl_snd_wf _ (fun s x hm => ?_) _ _ ?_ | (simp; done) | (simp; assumption) | (simp))
theorem execCwtVal_wf (x0 x1 x2 x3 x4 x5 s) (hm : Memory.wf s.mem = true) : Memory.wf (Out.memory (@execCwtVal x0 x1 x2 x3 x4 x5 s) s.mem) = true := by
  unfold execCwtVal; repeat' (first | assumption | intro _ | apply execWith_wf | apply State.done_wf | dsimp only | split | refine foldl_wf _ (fun s x hm => ?_) _ _ ?_ | refine foldl_snd_wf _ (fun s x hm => ?_) _ _ ?_ | (simp; done) | (simp; assumption) | (simp))
theorem execCwtDone_wf (x0 x1 x2 x3 x4 s) (hm : Memory.wf s.mem = true) : Memory.wf (Out.memory (@execCwtDone x0 x1 x2 x3 x4 s) s.mem) = true := by
  unfold execCwtDone; repeat' (first | assumption | intro _ | apply execWith_wf | apply State.done_wf | dsimp only | split | refine foldl_wf _ (fun s x hm => ?_) _ _ ?_ | refine foldl_snd_wf _ (fun s x hm => ?_) _ _ ?_ | (simp; done) | (simp; assumption) | (simp))
@[simp] theorem State.endRequests_mem (s x1 x2) : (@State.endRequests s x1 x2).mem = s.mem := by
  unfold State.endRequests; repeat' (first | rfl | (refine (foldl_mem _ (fun s x => ?_) _ _).trans ?_) | split | (simp; done) | dsimp only)
@[simp] theorem State.avset_mem (s x1 x2 x3 x4 x5) : (@State.avset s x1 x2 x3 x4 x5).mem = s.mem := by
  unfold State.avset; (try dsimp only); (repeat' split) <;> first | rfl | simp
theorem State.avsetOf_wf (s x1 x2 x3) (hm : Memory.wf s.mem = true) : Memory.wf ((@State.avsetOf s x1 x2 x3).mem) = true := by
  unfold State.avsetOf; repeat' (first | assumption | intro _ | apply State.done_wf | dsimp only | split | refine foldl_wf _ (fun s x hm => ?_) _ _ ?_ | refine foldl_snd_wf _ (fun s x hm => ?_) _ _ ?_ | (simp; done) | (simp; assumption) | (simp))
theorem execAvset_wf (x0 x1 s) (hm : Memory.wf s.mem = true) : Memory.wf (Out.memory (@execAvset x0 x1 s) s.mem) = true := by
  unfold execAvset; repeat' (first | assumption | intro _ | apply execWith_wf | apply State.avsetOf_wf | dsimp only | split | refine foldl_wf _ (fun s x hm => ?_) _ _ ?_ | refine foldl_snd_wf _ (fun s x hm => ?_) _ _ ?_ | (simp; done) | (simp; assumption) | (simp))
theorem execAvsetI_wf (x0 x1 s) (hm : Memory.wf s.mem = true) : Memory.wf (Out.memory (@execAvsetI x0 x1 s) s.mem) = true := by
  unfold execAvsetI; repeat' (first | assumption | intro _ | apply execWith_wf | apply State.avsetOf_wf | dsimp only | split | refine foldl_wf _ (fun s x hm => ?_) _ _ ?_ | refine foldl_snd_wf _ (fun s x hm => ?_) _ _ ?_ | (simp; done) | (simp; assumption) | (simp))
theorem execEndr_wf (x0 x1 x2 x3 s) (hm : Memory.wf s.mem = true) : Memory.wf (Out.memory (@execEndr x0 x1 x2 x3 s) s.mem) = true := by
  unfold execEndr; repeat' (first | assumption | intro _ | apply execLocal_wf | dsimp only | split | refine foldl_wf _ (fun s x hm => ?_) _ _ ?_ | refine foldl_snd_wf _ (fun s x hm => ?_) _ _ ?_ | (simp; done) | (simp; assumption) | (simp))
theorem execEndrPred_wf (x0 x1 x2 s) (hm : Memory.wf s.mem = true) : Memory.wf (Out.memory (@execEndrPred x0 x1 x2 s) s.mem) = true := by
  unfold execEndrPred; repeat' (first | assumption | intro _ | apply execLocal_wf | dsimp only | split | refine foldl_wf _ (fun s x hm => ?_) _ _ ?_ | refine foldl_snd_wf _ (fun s x hm => ?_) _ _ ?_ | (simp; done) | (simp; assumption) | (simp))
theorem execEndrc_wf (x0 x1 x2 x3 x4 x5 s) (hm : Memory.wf s.mem = true) : Memory.wf (Out.memory (@execEndrc x0 x1 x2 x3 x4 x5 s) s.mem) = true := by
  unfold execEndrc; repeat' (first | assumption | intro _ | apply execLocal_wf | dsimp only | split | refine foldl_wf _ (fun s x hm => ?_) _ _ ?_ | refine foldl_snd_wf _ (fun s x hm => ?_) _ _ ?_ | (simp; done) | (simp; assumption) | (simp))
@[simp] theorem execSubmit_mem (x0 x1 s) : Out.memory (@execSubmit x0 x1 s) s.mem = s.mem := by
  unfold execSubmit; (try dsimp only); (repeat' split) <;> first | rfl | simp
@[simp] theorem State.dispRead_mem (s x1 x2 x3 x4) : ((@State.dispRead s x1 x2 x3 x4).2).mem = s.mem := by
  unfold State.dispRead; repeat' (first | rfl | (refine (foldl_mem _ (fun s x => ?_) _ _).trans ?_) | split | (simp; done) | dsimp only)
theorem State.dispHold_wf (s x1 x2 x3 x4 x5) (hm : Memory.wf s.mem = true) : Memory.wf ((@State.dispHold s x1 x2 x3 x4 x5).mem) = true := by
  unfold State.dispHold; repeat' (first | assumption | intro _ | apply State.dispFault_wf | dsimp only | split | refine foldl_wf _ (fun s x hm => ?_) _ _ ?_ | refine foldl_snd_wf _ (fun s x hm => ?_) _ _ ?_ | (simp; done) | (simp; assumption) | (simp))
theorem State.logRead_wf (s x1 x2 x3 x4 x5) (hm : Memory.wf s.mem = true) : Memory.wf ((@State.logRead s x1 x2 x3 x4 x5).mem) = true := by
  unfold State.logRead; repeat' (first | assumption | intro _ | apply State.logFault_wf | dsimp only | split | refine foldl_wf _ (fun s x hm => ?_) _ _ ?_ | refine foldl_snd_wf _ (fun s x hm => ?_) _ _ ?_ | (simp; done) | (simp; assumption) | (simp))
theorem State.jobInvalid_wf (s x1 x2) (hm : Memory.wf s.mem = true) : Memory.wf ((@State.jobInvalid s x1 x2).mem) = true := by
  unfold State.jobInvalid; repeat' (first | assumption | intro _ | apply State.jobWord_wf | apply State.logRead_wf | dsimp only | split | refine foldl_wf _ (fun s x hm => ?_) _ _ ?_ | refine foldl_snd_wf _ (fun s x hm => ?_) _ _ ?_ | (simp; done) | (simp; assumption) | (simp))
@[simp] theorem State.freeNum_mem (s x1) : ((@State.freeNum s x1).2).mem = s.mem := by
  unfold State.freeNum; (try dsimp only); (repeat' split) <;> first | rfl | simp
@[simp] theorem State.takeCounter_mem (s x1 x2 x3 x4 x5) : (@State.takeCounter s x1 x2 x3 x4 x5).mem = s.mem := by
  rfl
theorem execJobStart_wf (x0 s) (hm : Memory.wf s.mem = true) : Memory.wf (Out.memory (execJobStart x0 s) s.mem) = true := by
  unfold execJobStart
  rw [Out.memory_next]
  split
  · exact hm
  · split
    · exact hm
    · dsimp only
      split
      · exact State.dispHold_wf _ _ _ _ _ _ (by simpa using hm)
      · split
        · exact State.jobInvalid_wf _ _ _ (by simpa using hm)
        · split
          · simpa using hm
          · simpa using hm
theorem State.spoilJob_wf (s x1) (hm : Memory.wf s.mem = true) : Memory.wf ((@State.spoilJob s x1).mem) = true := by
  unfold State.spoilJob; repeat' (first | assumption | intro _ | apply State.cancelJob_wf | dsimp only | split | refine foldl_wf _ (fun s x hm => ?_) _ _ ?_ | refine foldl_snd_wf _ (fun s x hm => ?_) _ _ ?_ | (simp; done) | (simp; assumption) | (simp))
theorem State.badRecord_wf (s x1 x2 x3 x4) (hm : Memory.wf s.mem = true) : Memory.wf ((@State.badRecord s x1 x2 x3 x4).mem) = true := by
  unfold State.badRecord; repeat' (first | assumption | intro _ | apply State.logRead_wf | apply State.spoilJob_wf | dsimp only | split | refine foldl_wf _ (fun s x hm => ?_) _ _ ?_ | refine foldl_snd_wf _ (fun s x hm => ?_) _ _ ?_ | (simp; done) | (simp; assumption) | (simp))
theorem State.startPhase_wf (s x1 x2) (hm : Memory.wf s.mem = true) : Memory.wf (State.startPhase s x1 x2).mem = true := by
  unfold State.startPhase
  dsimp only
  split
  · exact State.dispHold_wf _ _ _ _ _ _ (by simpa using hm)
  · split
    · exact State.badRecord_wf _ _ _ _ _ (by simpa using hm)
    · split
      · simpa using hm
      · refine foldl_wf _ (fun s x h => by simpa using h) _ _ (by simpa using hm)
theorem State.startGraph_wf (s x1 x2) (hm : Memory.wf s.mem = true) : Memory.wf (State.startGraph s x1 x2).mem = true := by
  unfold State.startGraph
  dsimp only
  split
  · exact State.dispHold_wf _ _ _ _ _ _ (by simpa using hm)
  · split
    · exact State.badRecord_wf _ _ _ _ _ (by simpa using hm)
    · split
      · exact State.dispHold_wf _ _ _ _ _ _ (by simpa using hm)
      · split
        · exact State.badRecord_wf _ _ _ _ _ (by simpa using hm)
        · split
          · exact State.dispHold_wf _ _ _ _ _ _ (by simpa using hm)
          · split
            · exact State.badRecord_wf _ _ _ _ _ (by simpa using hm)
            · split
              · simpa using hm
              · simpa using hm
@[simp] theorem State.newLaunch_mem (s x1 x2 x3 x4 x5 x6) : (@State.newLaunch s x1 x2 x3 x4 x5 x6).mem = s.mem := by
  unfold State.newLaunch; (try dsimp only); (repeat' split) <;> first | rfl | simp
theorem State.startNode_wf (s x1 x2) (hm : Memory.wf s.mem = true) : Memory.wf (State.startNode s x1 x2).mem = true := by
  unfold State.startNode
  split
  · dsimp only
    split
    · exact State.dispHold_wf _ _ _ _ _ _ (by simpa using hm)
    · split
      · simpa using hm
      · split
        · exact State.badRecord_wf _ _ _ _ _ (by simpa using hm)
        · simpa using hm
  · exact hm
theorem execLevelStart_wf (x0 s) (hm : Memory.wf s.mem = true) : Memory.wf (Out.memory (@execLevelStart x0 s) s.mem) = true := by
  unfold execLevelStart; repeat' (first | assumption | intro _ | apply State.startPhase_wf | apply State.startGraph_wf | apply State.startNode_wf | dsimp only | split | refine foldl_wf _ (fun s x hm => ?_) _ _ ?_ | refine foldl_snd_wf _ (fun s x hm => ?_) _ _ ?_ | (simp; done) | (simp; assumption) | (simp))
@[simp] theorem State.takeSlots_mem (x0 x1 x2 x3 s) : ((@State.takeSlots x0 x1 x2 x3 s).2).mem = s.mem := by
  induction x1 generalizing x2 x3 s with
  | zero => rfl
  | succ n ih => simp [State.takeSlots, ih]
@[simp] theorem State.takeIndex_mem (s x1) : ((@State.takeIndex s x1).2).mem = s.mem := by
  rfl
@[simp] theorem State.restoreOne_mem (s x1 x2) : (@State.restoreOne s x1 x2).mem = s.mem := by
  unfold State.restoreOne; (try dsimp only); (repeat' split) <;> first | rfl | simp
@[simp] theorem State.placeAgain_mem (s x1 x2) : (@State.placeAgain s x1 x2).mem = s.mem := by
  unfold State.placeAgain; (try dsimp only); (repeat' split) <;> first | rfl | simp
@[simp] theorem State.freshBlock_mem (s x1 x2) : ((@State.freshBlock s x1 x2).2).mem = s.mem := by
  simp [State.freshBlock]
@[simp] theorem State.placeFresh_mem (s x1 x2) : (@State.placeFresh s x1 x2).mem = s.mem := by
  unfold State.placeFresh; (try dsimp only); (repeat' split) <;> first | rfl | simp
@[simp] theorem State.lend_mem (s x1 x2) : (@State.lend s x1 x2).mem = s.mem := by
  rfl
@[simp] theorem State.askHalt_mem (s) : (@State.askHalt s).mem = s.mem := by
  rfl
@[simp] theorem State.placeCand_mem (s x1 x2 x3) : (@State.placeCand s x1 x2 x3).mem = s.mem := by
  unfold State.placeCand; repeat' (first | rfl | (refine (foldl_mem _ (fun s x => ?_) _ _).trans ?_) | split | (simp; done) | dsimp only)
@[simp] theorem execBlockDispatch_mem (x0 x1 s) : Out.memory (@execBlockDispatch x0 x1 s) s.mem = s.mem := by
  unfold execBlockDispatch; (try dsimp only); (repeat' split) <;> first | rfl | simp
theorem State.countBlock_wf (s x1 x2) (hm : Memory.wf s.mem = true) : Memory.wf ((@State.countBlock s x1 x2).mem) = true := by
  unfold State.countBlock; repeat' (first | assumption | intro _ | apply State.climbLaunch_wf | dsimp only | split | refine foldl_wf _ (fun s x hm => ?_) _ _ ?_ | refine foldl_snd_wf _ (fun s x hm => ?_) _ _ ?_ | (simp; done) | (simp; assumption) | (simp))
theorem execBlockComplete_wf (x0 s) (hm : Memory.wf s.mem = true) : Memory.wf (Out.memory (@execBlockComplete x0 s) s.mem) = true := by
  unfold execBlockComplete; repeat' (first | assumption | intro _ | apply State.countBlock_wf | dsimp only | split | refine foldl_wf _ (fun s x hm => ?_) _ _ ?_ | refine foldl_snd_wf _ (fun s x hm => ?_) _ _ ?_ | (simp; done) | (simp; assumption) | (simp))
@[simp] theorem State.stalled_mem (s x1 x2) : (@State.stalled s x1 x2).mem = s.mem := by
  unfold State.stalled; (try dsimp only); (repeat' split) <;> first | rfl | simp
@[simp] theorem State.waited_mem (s x1 x2) : (@State.waited s x1 x2).mem = s.mem := by
  unfold State.waited; repeat' (first | rfl | (refine (foldl_mem _ (fun s x => ?_) _ _).trans ?_) | split | (simp; done) | dsimp only)
@[simp] theorem State.regChecks_mem (s x1) : (@State.regChecks s x1).mem = s.mem := by
  unfold State.regChecks; repeat' (first | rfl | (refine (foldl_mem _ (fun s x => ?_) _ _).trans ?_) | split | (simp; done) | dsimp only)
@[simp] theorem State.cloneChecks_mem (x0 x1 s) : (@State.cloneChecks x0 x1 s).mem = s.mem := by
  induction x1 generalizing s with
  | nil => rfl
  | cons x xs ih => rw [State.cloneChecks, ih]; split <;> simp
@[simp] theorem execPacketIssue_mem (x0 x1 s) : Out.memory (@execPacketIssue x0 x1 s) s.mem = s.mem := by
  unfold execPacketIssue; (try dsimp only); (repeat' split) <;> first | rfl | simp
@[simp] theorem execDemotionTimeout_mem (x0 x1 s) : Out.memory (@execDemotionTimeout x0 x1 s) s.mem = s.mem := by
  unfold execDemotionTimeout; (try dsimp only); (repeat' split) <;> first | rfl | simp
@[simp] theorem execRejoinTimeout_mem (x0 x1 s) : Out.memory (@execRejoinTimeout x0 x1 s) s.mem = s.mem := by
  rfl
@[simp] theorem execSleepExpire_mem (x0 x1 s) : Out.memory (@execSleepExpire x0 x1 s) s.mem = s.mem := by
  rfl
@[simp] theorem State.reread_mem (s x1 x2) : ((@State.reread s x1 x2).2).mem = s.mem := by
  unfold State.reread; (try dsimp only); (repeat' split) <;> first | rfl | simp
@[simp] theorem rereadEach_mem (x0 x1 x2 s) : ((rereadEach x0 x1 x2 s).2).mem = s.mem := by
  induction x2 generalizing s with
  | nil => rfl
  | cons p ps ih => rw [rereadEach]; dsimp only; rw [ih]; split <;> simp
@[simp] theorem State.settleLoad_mem (s x1) : (@State.settleLoad s x1).mem = s.mem := by
  unfold State.settleLoad; (try dsimp only); (repeat' split) <;> first | rfl | simp
@[simp] theorem State.pendFault_mem (s x1 x2) : (@State.pendFault s x1 x2).mem = s.mem := by
  rfl
theorem State.lnchStart_wf (s x1 x2 x3) (hm : Memory.wf s.mem = true) : Memory.wf ((@State.lnchStart s x1 x2 x3).mem) = true := by
  unfold State.lnchStart
  split
  · (repeat' (first | exact hm | split)) <;> dsimp only <;> split <;>
      first
        | exact hm
        | (split <;> first
            | exact State.cancelOneLaunch_wf _ _ (by
                simp only [State.modBoth_mem, State.newLaunch_mem, State.modCounter_mem, State.freeNum_mem]; exact hm)
            | (simp only [State.modBoth_mem, State.newLaunch_mem, State.modCounter_mem, State.freeNum_mem]; exact hm))
  · exact hm
@[simp] theorem State.retRefilled_mem (s x1 x2 x3 x4) : (@State.retRefilled s x1 x2 x3 x4).mem = s.mem := by
  rfl
@[simp] theorem State.failAccess_mem (s x1 x2) : (@State.failAccess s x1 x2).mem = s.mem := by
  unfold State.failAccess; (try dsimp only); (repeat' split) <;> first | rfl | simp
@[simp] theorem State.releasePlace_mem (s x1 x2) : (@State.releasePlace s x1 x2).mem = s.mem := by
  unfold State.releasePlace; (try dsimp only); (repeat' split) <;> first | rfl | simp
theorem State.failLate_wf (s x1 x2) (hm : Memory.wf s.mem = true) : Memory.wf ((@State.failLate s x1 x2).mem) = true := by
  unfold State.failLate; repeat' (first | assumption | intro _ | apply State.advance_wf | dsimp only | split | refine foldl_wf _ (fun s x hm => ?_) _ _ ?_ | refine foldl_snd_wf _ (fun s x hm => ?_) _ _ ?_ | (simp; done) | (simp; assumption) | (simp))
theorem State.again_wf (s x1) (hm : Memory.wf s.mem = true) : Memory.wf ((@State.again s x1).mem) = true := by
  unfold State.again; repeat' (first | assumption | intro _ | apply State.settleRecords_wf | apply State.performHome_wf | apply State.failLate_wf | apply State.sendOff_wf | dsimp only | split | refine foldl_wf _ (fun s x hm => ?_) _ _ ?_ | refine foldl_snd_wf _ (fun s x hm => ?_) _ _ ?_ | (simp; done) | (simp; assumption) | (simp))
theorem State.rejRefilled_wf (s x1 x2 x3 x4 x5) (hm : Memory.wf s.mem = true) : Memory.wf ((@State.rejRefilled s x1 x2 x3 x4 x5).mem) = true := by
  unfold State.rejRefilled; repeat' (first | assumption | intro _ | apply State.again_wf | dsimp only | split | refine foldl_wf _ (fun s x hm => ?_) _ _ ?_ | refine foldl_snd_wf _ (fun s x hm => ?_) _ _ ?_ | (simp; done) | (simp; assumption) | (simp))
theorem execLoadComplete_wf (x0 s) (hm : Memory.wf s.mem = true) : Memory.wf (Out.memory (@execLoadComplete x0 s) s.mem) = true := by
  unfold execLoadComplete; repeat' (first | assumption | intro _ | apply State.bindAct_wf | apply State.lnchStart_wf | apply State.rejRefilled_wf | dsimp only | split | refine foldl_wf _ (fun s x hm => ?_) _ _ ?_ | refine foldl_snd_wf _ (fun s x hm => ?_) _ _ ?_ | (simp; done) | (simp; assumption) | (simp))
@[simp] theorem execRendezvousComplete_mem (x0 x1 x2 s) : Out.memory (@execRendezvousComplete x0 x1 x2 s) s.mem = s.mem := by
  unfold execRendezvousComplete; repeat' (first | rfl | (refine (foldl_mem _ (fun s x => ?_) _ _).trans ?_) | split | (simp; done) | dsimp only)
@[simp] theorem execReplayReexecute_mem (x0 x1 x2 s) : Out.memory (@execReplayReexecute x0 x1 x2 s) s.mem = s.mem := by
  unfold execReplayReexecute; (try dsimp only); (repeat' split) <;> first | rfl | simp
@[simp] theorem State.modLine_mem (s x1 x2 x3) : (@State.modLine s x1 x2 x3).mem = s.mem := by
  rfl
@[simp] theorem State.dropWaiter_mem (s x1) : (@State.dropWaiter s x1).mem = s.mem := by
  rfl
theorem State.dispRetry_wf (s x1) (hm : Memory.wf s.mem = true) : Memory.wf ((@State.dispRetry s x1).mem) = true := by
  unfold State.dispRetry; repeat' (first | assumption | intro _ | apply State.jobWord_wf | dsimp only | split | refine foldl_wf _ (fun s x hm => ?_) _ _ ?_ | refine foldl_snd_wf _ (fun s x hm => ?_) _ _ ?_ | (simp; done) | (simp; assumption) | (simp))
theorem State.retryEntry_wf (s x1) (hm : Memory.wf s.mem = true) : Memory.wf ((@State.retryEntry s x1).mem) = true := by
  unfold State.retryEntry; repeat' (first | assumption | intro _ | apply State.dispRetry_wf | dsimp only | split | refine foldl_wf _ (fun s x hm => ?_) _ _ ?_ | refine foldl_snd_wf _ (fun s x hm => ?_) _ _ ?_ | (simp; done) | (simp; assumption) | (simp))
@[simp] theorem State.answered_mem (s x1 x2) : (@State.answered s x1 x2).mem = s.mem := by
  rfl
theorem execFqrspRetry_wf (x0 x1 s) (hm : Memory.wf s.mem = true) : Memory.wf (Out.memory (@execFqrspRetry x0 x1 s) s.mem) = true := by
  unfold execFqrspRetry; repeat' (first | assumption | intro _ | apply State.retryEntry_wf | dsimp only | split | refine foldl_wf _ (fun s x hm => ?_) _ _ ?_ | refine foldl_snd_wf _ (fun s x hm => ?_) _ _ ?_ | (simp; done) | (simp; assumption) | (simp))
theorem State.dispFail_wf (s x1 x2 x3) (hm : Memory.wf s.mem = true) : Memory.wf ((@State.dispFail s x1 x2 x3).mem) = true := by
  unfold State.dispFail; repeat' (first | assumption | intro _ | apply State.logRead_wf | apply State.spoilJob_wf | dsimp only | split | refine foldl_wf _ (fun s x hm => ?_) _ _ ?_ | refine foldl_snd_wf _ (fun s x hm => ?_) _ _ ?_ | (simp; done) | (simp; assumption) | (simp))
theorem State.failEntry_wf (s x1) (hm : Memory.wf s.mem = true) : Memory.wf ((@State.failEntry s x1).mem) = true := by
  unfold State.failEntry; repeat' (first | assumption | intro _ | apply State.entriesDone_wf | apply State.failLate_wf | apply State.dispFail_wf | dsimp only | split | refine foldl_wf _ (fun s x hm => ?_) _ _ ?_ | refine foldl_snd_wf _ (fun s x hm => ?_) _ _ ?_ | (simp; done) | (simp; assumption) | (simp))
theorem execFqrspFail_wf (x0 x1 s) (hm : Memory.wf s.mem = true) : Memory.wf (Out.memory (@execFqrspFail x0 x1 s) s.mem) = true := by
  unfold execFqrspFail; repeat' (first | assumption | intro _ | apply State.failEntry_wf | dsimp only | split | refine foldl_wf _ (fun s x hm => ?_) _ _ ?_ | refine foldl_snd_wf _ (fun s x hm => ?_) _ _ ?_ | (simp; done) | (simp; assumption) | (simp))
theorem execOperandReplay_wf (x0 s) (hm : Memory.wf s.mem = true) : Memory.wf (Out.memory (@execOperandReplay x0 s) s.mem) = true := by
  unfold execOperandReplay; repeat' (first | assumption | intro _ | apply State.dispRetry_wf | apply State.again_wf | dsimp only | split | refine foldl_wf _ (fun s x hm => ?_) _ _ ?_ | refine foldl_snd_wf _ (fun s x hm => ?_) _ _ ?_ | (simp; done) | (simp; assumption) | (simp))
@[simp] theorem execTlbinvVa_mem (x0 x1 s) : Out.memory (@execTlbinvVa x0 x1 s) s.mem = s.mem := by
  rfl
@[simp] theorem execTlbinvAll_mem (x0 s) : Out.memory (@execTlbinvAll x0 s) s.mem = s.mem := by
  rfl
@[simp] theorem execTlbinvDone_mem (x0 s) : Out.memory (@execTlbinvDone x0 s) s.mem = s.mem := by
  unfold execTlbinvDone; (try dsimp only); (repeat' split) <;> first | rfl | simp
theorem execCommitPerformed_wf (x0 x1 s) (hm : Memory.wf s.mem = true) : Memory.wf (Out.memory (@execCommitPerformed x0 x1 s) s.mem) = true := by
  unfold execCommitPerformed; repeat' (first | assumption | intro _ | apply State.performOne_wf | dsimp only | split | refine foldl_wf _ (fun s x hm => ?_) _ _ ?_ | refine foldl_snd_wf _ (fun s x hm => ?_) _ _ ?_ | (simp; done) | (simp; assumption) | (simp))
theorem State.performTurn_wf (x0 x1 s) (hm : Memory.wf s.mem = true) : Memory.wf (State.performTurn x0 x1 s).mem = true := by
  induction x1 generalizing s with
  | nil => exact hm
  | cons e es ih =>
    rw [State.performTurn]
    split
    · exact hm
    · split
      · exact hm
      · dsimp only
        split
        · exact State.performOne_wf _ _ _ _ hm
        · exact ih _ (State.performOne_wf _ _ _ _ hm)
theorem execTicketTurn_wf (x0 s) (hm : Memory.wf s.mem = true) : Memory.wf (Out.memory (@execTicketTurn x0 s) s.mem) = true := by
  unfold execTicketTurn; repeat' (first | assumption | intro _ | apply State.performTurn_wf | dsimp only | split | refine foldl_wf _ (fun s x hm => ?_) _ _ ?_ | refine foldl_snd_wf _ (fun s x hm => ?_) _ _ ?_ | (simp; done) | (simp; assumption) | (simp))
@[simp] theorem State.plan_mem (s x1 x2) : ((@State.plan s x1 x2).2).mem = s.mem := by
  unfold State.plan; (try dsimp only); (repeat' split) <;> first | rfl | simp
@[simp] theorem State.finishXfer_mem (s x1 x2) : (@State.finishXfer s x1 x2).mem = s.mem := by
  unfold State.finishXfer; (try dsimp only); (repeat' split) <;> first | rfl | simp
@[simp] theorem execXferAccept_mem (x0 s) : Out.memory (@execXferAccept x0 s) s.mem = s.mem := by
  unfold execXferAccept; (try dsimp only); (repeat' split) <;> first | rfl | simp
@[simp] theorem State.sourceLine_mem (s x1 x2 x3) : ((@State.sourceLine s x1 x2 x3).2).mem = s.mem := by
  unfold State.sourceLine; (try dsimp only); (repeat' split) <;> first | rfl | simp
@[simp] theorem State.readSource_mem (b c a x) : (State.readSource b c a x).2.mem = a.2.mem := by
  unfold State.readSource
  split
  · dsimp only
    split <;> (split <;> simp)
  · (repeat' split) <;> first | rfl | (dsimp only; split <;> simp) | simp
@[simp] theorem State.readUpTo_mem (s x1 x2 x3) : (State.readUpTo s x1 x2 x3).mem = s.mem := by
  unfold State.readUpTo
  split
  · rfl
  · dsimp only
    exact foldl_snd_mem _ (fun s x => by simp) _ _
theorem State.holdLine_wf (s x1 x2 x3 x4 x5 x6) (hm : Memory.wf s.mem = true) : Memory.wf ((@State.holdLine s x1 x2 x3 x4 x5 x6).mem) = true := by
  unfold State.holdLine; repeat' (first | assumption | intro _ | apply State.settleRecords_wf | dsimp only | split | refine foldl_wf _ (fun s x hm => ?_) _ _ ?_ | refine foldl_snd_wf _ (fun s x hm => ?_) _ _ ?_ | (simp; done) | (simp; assumption) | (simp))
theorem State.needSource_wf (s x1 x2 x3 x4) (hm : Memory.wf s.mem = true) : Memory.wf ((@State.needSource s x1 x2 x3 x4).mem) = true := by
  unfold State.needSource; repeat' (first | assumption | intro _ | apply State.holdLine_wf | dsimp only | split | refine foldl_wf _ (fun s x hm => ?_) _ _ ?_ | refine foldl_snd_wf _ (fun s x hm => ?_) _ _ ?_ | (simp; done) | (simp; assumption) | (simp))
theorem State.takeToken_mem (s s' : State) (vf die : Nat) (h : s.takeToken vf die = some s') : s'.mem = s.mem := by
  unfold State.takeToken at h
  dsimp only at h
  (repeat' split at h) <;> simp_all <;> simp [← h]
@[simp] theorem State.coverLanes_mem (s x1 x2) : (@State.coverLanes s x1 x2).mem = s.mem := by
  rfl
@[simp] theorem State.sendLine_mem (s x1 x2 x3 x4 x5) : (@State.sendLine s x1 x2 x3 x4 x5).mem = s.mem := by
  unfold State.sendLine; repeat' (first | rfl | (refine (foldl_mem _ (fun s x => ?_) _ _).trans ?_) | split | (simp; done) | dsimp only)
theorem State.putByte_wf (s x1 x2 x3 x4) (hm : Memory.wf s.mem = true) : Memory.wf ((@State.putByte s x1 x2 x3 x4).mem) = true := by
  unfold State.putByte; repeat' (first | assumption | apply State.putGlobal_wf | dsimp only | split | refine foldl_wf _ (fun s x hm => ?_) _ _ ?_ | refine foldl_snd_wf _ (fun s x hm => ?_) _ _ ?_ | (simp; done) | (simp; assumption) | (simp))
@[simp] theorem State.watchLine_mem (s x1 x2 x3 x4) : (@State.watchLine s x1 x2 x3 x4).mem = s.mem := by
  unfold State.watchLine; (try dsimp only); (repeat' split) <;> first | rfl | simp
@[simp] theorem State.countLine_mem (s x1 x2) : (@State.countLine s x1 x2).mem = s.mem := by
  unfold State.countLine; (try dsimp only); (repeat' split) <;> first | rfl | simp
@[simp] theorem State.lineLanded_mem (s x1 x2) : (@State.lineLanded s x1 x2).mem = s.mem := by
  unfold State.lineLanded; (try dsimp only); (repeat' split) <;> first | rfl | simp
@[simp] theorem State.poisonLine_mem (s x1 x2 x3) : (@State.poisonLine s x1 x2 x3).mem = s.mem := by
  unfold State.poisonLine; (try dsimp only); (repeat' split) <;> first | rfl | simp
theorem State.landWith_wf (s x1 x2 x3 x4) (hm : Memory.wf s.mem = true) : Memory.wf ((@State.landWith s x1 x2 x3 x4).mem) = true := by
  unfold State.landWith; repeat' (first | assumption | apply State.putByte_wf | dsimp only | split | refine foldl_wf _ (fun s x hm => ?_) _ _ ?_ | refine foldl_snd_wf _ (fun s x hm => ?_) _ _ ?_ | (simp; done) | (simp; assumption) | (simp))
theorem State.moveLine_wf (s x1 x2 x3 x4) (hm : Memory.wf s.mem = true) : Memory.wf ((State.moveLine s x1 x2 x3 x4).2).mem = true := by
  have pay (t t' : State) (f : Bool) (vf die) (ht : Memory.wf t.mem = true) (h : (if f = true then some t else t.takeToken vf die) = some t') :
      Memory.wf t'.mem = true := by
    split at h
    · simp only [Option.some.injEq] at h; rw [← h]; exact ht
    · rw [State.takeToken_mem _ _ _ _ h]; exact ht
  unfold State.moveLine
  dsimp only
  split
  · dsimp only; split
    · simpa using hm
    · exact State.holdLine_wf _ _ _ _ _ _ _ (by simpa using hm)
  · split
    · simpa using hm
    · split
      · simpa using hm
      · rename_i h
        have hp := pay _ _ _ _ _ (by simpa using hm) h
        split
        · simpa using hp
        · exact State.landWith_wf _ _ _ _ _ (by simpa using hp)
theorem State.landLine_wf (s x1 x2 x3 x4) (hm : Memory.wf s.mem = true) : Memory.wf (((@State.landLine s x1 x2 x3 x4).2).mem) = true := by
  unfold State.landLine; repeat' (first | assumption | intro _ | apply State.needSource_wf | apply State.moveLine_wf | dsimp only | split | refine foldl_wf _ (fun s x hm => ?_) _ _ ?_ | refine foldl_snd_wf _ (fun s x hm => ?_) _ _ ?_ | (simp; done) | (simp; assumption) | (simp))
theorem execCopyLineLand_wf (x0 x1 s) (hm : Memory.wf s.mem = true) : Memory.wf (Out.memory (@execCopyLineLand x0 x1 s) s.mem) = true := by
  unfold execCopyLineLand; repeat' (first | assumption | intro _ | apply State.landLine_wf | dsimp only | split | refine foldl_wf _ (fun s x hm => ?_) _ _ ?_ | refine foldl_snd_wf _ (fun s x hm => ?_) _ _ ?_ | (simp; done) | (simp; assumption) | (simp))
@[simp] theorem execXferComplete_mem (x0 s) : Out.memory (@execXferComplete x0 s) s.mem = s.mem := by
  unfold execXferComplete; (try dsimp only); (repeat' split) <;> first | rfl | simp
@[simp] theorem State.takeTokens_mem (x0 x1 x2 s) : ((State.takeTokens x0 x1 x2 s).2).mem = s.mem := by
  induction x2 generalizing s with
  | zero => rfl
  | succ n ih =>
    rw [State.takeTokens]
    split
    · rfl
    · rename_i h; dsimp only; rw [ih, State.takeToken_mem _ _ _ _ h]
@[simp] theorem State.payRound_mem (x0 x1 s) : ((State.payRound x0 x1 s).2).mem = s.mem := by
  induction x1 generalizing s with
  | nil => rfl
  | cons c cs ih =>
    rw [State.payRound]
    split
    · rfl
    · dsimp only
      split
      · rw [ih]; simp
      · simp
@[simp] theorem State.eccRange_mem (s x1 x2 x3) : (@State.eccRange s x1 x2 x3).mem = s.mem := by
  unfold State.eccRange; repeat' (first | rfl | (refine (foldl_mem _ (fun s x => ?_) _ _).trans ?_) | split | (simp; done) | dsimp only)
@[simp] theorem State.readTiles_mem (x0 s) : ((@State.readTiles x0 s).2).mem = s.mem := by
  induction x0 generalizing s with
  | nil => rfl
  | cons c cs ih => rw [State.readTiles]; dsimp only; rw [ih]; split <;> simp
@[simp] theorem State.writeTile_mem (s x1 x2) : (@State.writeTile s x1 x2).mem = s.mem := by
  unfold State.writeTile; (try dsimp only); (repeat' split) <;> first | rfl | simp
@[simp] theorem execXrotRound_mem (x0 x1 x2 s) : Out.memory (@execXrotRound x0 x1 x2 s) s.mem = s.mem := by
  unfold execXrotRound; repeat' (first | rfl | (refine (foldl_mem _ (fun s x => ?_) _ _).trans ?_) | split | (simp; done) | dsimp only)
@[simp] theorem State.engineBytes_mem (s x1 x2 x3 x4) : ((@State.engineBytes s x1 x2 x3 x4).2).mem = s.mem := by
  simp [State.engineBytes]
@[simp] theorem State.verdict_mem (s x1 x2 x3 x4) : ((@State.verdict s x1 x2 x3 x4).2).mem = s.mem := by
  unfold State.verdict; (try dsimp only); (repeat' split) <;> first | rfl | simp
@[simp] theorem execMatrixAccept_mem (x0 s) : Out.memory (@execMatrixAccept x0 s) s.mem = s.mem := by
  unfold execMatrixAccept; (try dsimp only); (repeat' split) <;> first | rfl | simp
@[simp] theorem State.endMatrix_mem (s x1 x2 x3) : (@State.endMatrix s x1 x2 x3).mem = s.mem := by
  unfold State.endMatrix; (try dsimp only); (repeat' split) <;> first | rfl | simp
@[simp] theorem State.mopParams_mem (s x1 x2 x3) : ((@State.mopParams s x1 x2 x3).2).mem = s.mem := by
  unfold State.mopParams; (try dsimp only); (repeat' split) <;> first | rfl | simp
@[simp] theorem State.candidateMany_mem (x0 x1 x2 s) : ((@State.candidateMany x0 x1 x2 s).2).mem = s.mem := by
  fun_induction State.candidateMany x0 x1 x2 s <;> first | rfl | simp +zetaDelta [*]
@[simp] theorem State.rowError_mem (s x1 x2 x3) : ((@State.rowError s x1 x2 x3).2).mem = s.mem := by
  unfold State.rowError; (try dsimp only); (repeat' split) <;> first | rfl | simp
@[simp] theorem State.matrixError_mem (s x1 x2 x3) : (@State.matrixError s x1 x2 x3).mem = s.mem := by
  rfl
@[simp] theorem State.runMop_mem (s x1 x2 x3) : (@State.runMop s x1 x2 x3).mem = s.mem := by
  unfold State.runMop; (try dsimp only); (repeat' split) <;> first | rfl | simp
@[simp] theorem State.rowsDone_mem (s x1 x2) : ((@State.rowsDone s x1 x2).2).mem = s.mem := by
  unfold State.rowsDone; (try dsimp only); (repeat' split) <;> first | rfl | simp
@[simp] theorem State.runAld_mem (s x1 x2 x3 x4) : (@State.runAld s x1 x2 x3 x4).mem = s.mem := by
  unfold State.runAld; (try dsimp only); (repeat' split) <;> first | rfl | simp
@[simp] theorem State.runAst_mem (s x1 x2 x3 x4 x5 x6) : (@State.runAst s x1 x2 x3 x4 x5 x6).mem = s.mem := by
  unfold State.runAst; (try dsimp only); (repeat' split) <;> first | rfl | simp
@[simp] theorem State.runAzr_mem (s x1 x2 x3) : (@State.runAzr s x1 x2 x3).mem = s.mem := by
  unfold State.runAzr; (try dsimp only); (repeat' split) <;> first | rfl | simp
@[simp] theorem State.runMatrix_mem (s x1 x2 x3) : (@State.runMatrix s x1 x2 x3).mem = s.mem := by
  unfold State.runMatrix; (try dsimp only); (repeat' split) <;> first | rfl | simp
@[simp] theorem execMatrixComplete_mem (x0 s) : Out.memory (@execMatrixComplete x0 s) s.mem = s.mem := by
  unfold execMatrixComplete; (try dsimp only); (repeat' split) <;> first | rfl | simp
@[simp] theorem State.finishCcol_mem (s x1 x2 x3) : (@State.finishCcol s x1 x2 x3).mem = s.mem := by
  unfold State.finishCcol; (try dsimp only); (repeat' split) <;> first | rfl | simp
theorem State.holdCcol_wf (s x1 x2 x3 x4 x5) (hm : Memory.wf s.mem = true) : Memory.wf ((@State.holdCcol s x1 x2 x3 x4 x5).mem) = true := by
  unfold State.holdCcol; repeat' (first | assumption | intro _ | apply State.settleRecords_wf | dsimp only | split | refine foldl_wf _ (fun s x hm => ?_) _ _ ?_ | refine foldl_snd_wf _ (fun s x hm => ?_) _ _ ?_ | (simp; done) | (simp; assumption) | (simp))
theorem State.scatter_wf (s x1 x2 x3 x4 x5) (hm : Memory.wf s.mem = true) : Memory.wf ((@State.scatter s x1 x2 x3 x4 x5).mem) = true := by
  unfold State.scatter; repeat' (first | assumption | apply State.putGlobal_wf | dsimp only | split | refine foldl_wf _ (fun s x hm => ?_) _ _ ?_ | refine foldl_snd_wf _ (fun s x hm => ?_) _ _ ?_ | (simp; done) | (simp; assumption) | (simp))
theorem State.ccolWrite_wf (s x1 x2 x3 x4) (hm : Memory.wf s.mem = true) : Memory.wf ((@State.ccolWrite s x1 x2 x3 x4).mem) = true := by
  unfold State.ccolWrite; repeat' (first | assumption | intro _ | apply State.holdCcol_wf | apply State.scatter_wf | dsimp only | split | refine foldl_wf _ (fun s x hm => ?_) _ _ ?_ | refine foldl_snd_wf _ (fun s x hm => ?_) _ _ ?_ | (simp; done) | (simp; assumption) | (simp))
theorem State.ccolRun_wf (s x1 x2 x3 x4 x5) (hm : Memory.wf s.mem = true) : Memory.wf ((@State.ccolRun s x1 x2 x3 x4 x5).mem) = true := by
  unfold State.ccolRun; repeat' (first | assumption | intro _ | apply State.holdCcol_wf | apply State.ccolWrite_wf | dsimp only | split | refine foldl_wf _ (fun s x hm => ?_) _ _ ?_ | refine foldl_snd_wf _ (fun s x hm => ?_) _ _ ?_ | (simp; done) | (simp; assumption) | (simp))
theorem execCcolComplete_wf (x0 x1 x2 s) (hm : Memory.wf s.mem = true) : Memory.wf (Out.memory (@execCcolComplete x0 x1 x2 s) s.mem) = true := by
  unfold execCcolComplete; repeat' (first | assumption | intro _ | apply State.ccolRun_wf | apply State.ccolWrite_wf | dsimp only | split | refine foldl_wf _ (fun s x hm => ?_) _ _ ?_ | refine foldl_snd_wf _ (fun s x hm => ?_) _ _ ?_ | (simp; done) | (simp; assumption) | (simp))
@[simp] theorem State.refillOne_mem (x0 x1 s x3) : (@State.refillOne x0 x1 s x3).mem = s.mem := by
  rfl
@[simp] theorem execTokenRefill_mem (x0 s) : Out.memory (@execTokenRefill x0 s) s.mem = s.mem := by
  unfold execTokenRefill; repeat' (first | rfl | (refine (foldl_mem _ (fun s x => ?_) _ _).trans ?_) | split | (simp; done) | dsimp only)
@[simp] theorem execArbiterAgeTick_mem (s) : Out.memory (@execArbiterAgeTick s) s.mem = s.mem := by
  rfl
@[simp] theorem execDispatchAgeTick_mem (x0 s) : Out.memory (@execDispatchAgeTick x0 s) s.mem = s.mem := by
  unfold execDispatchAgeTick
  rw [Out.memory_next]
  refine foldl_mem _ (fun s x => ?_) _ _
  dsimp only
  (repeat' split) <;> simp
@[simp] theorem State.raised_mem (x0 s x2) : (@State.raised x0 s x2).mem = s.mem := by
  unfold State.raised; (try dsimp only); (repeat' split) <;> first | rfl | simp
@[simp] theorem execRailReached_mem (x0 x1 s) : Out.memory (@execRailReached x0 x1 s) s.mem = s.mem := by
  unfold execRailReached; repeat' (first | rfl | (refine (foldl_mem _ (fun s x => ?_) _ _).trans ?_) | split | (simp; done) | dsimp only)
theorem execUeConsumed_wf (x0 x1 x2 s) (hm : Memory.wf s.mem = true) : Memory.wf (Out.memory (@execUeConsumed x0 x1 x2 s) s.mem) = true := by
  unfold execUeConsumed; repeat' (first | assumption | intro _ | apply State.settleErrors_wf | dsimp only | split | refine foldl_wf _ (fun s x hm => ?_) _ _ ?_ | refine foldl_snd_wf _ (fun s x hm => ?_) _ _ ?_ | (simp; done) | (simp; assumption) | (simp))
@[simp] theorem State.rerun_mem (s x1) : ((@State.rerun s x1).2).mem = s.mem := by
  simp [State.rerun]
theorem execScratchUe_wf (x0 x1 s) (hm : Memory.wf s.mem = true) : Memory.wf (Out.memory (execScratchUe x0 x1 s) s.mem) = true := by
  unfold execScratchUe
  rw [Out.memory_next]
  split
  · exact hm
  · split
    · exact hm
    · refine State.islandError_wf _ _ ?_
      split
      · rw [State.killBlock_mem]; exact State.logBlock_wf _ _ _ _ _ _ _ _ hm
      · dsimp only
        split
        · rw [State.rerun_mem, State.stopOne_mem]; exact State.logBlock_wf _ _ _ _ _ _ _ _ hm
        · rw [State.modBlock_mem, State.modBlock_mem, State.rerun_mem, State.rerun_mem, State.stopOne_mem, State.stopOne_mem]
          exact State.logBlock_wf _ _ _ _ _ _ _ _ hm
@[simp] theorem State.without_mem (s x1) : (@State.without s x1).mem = s.mem := by
  rfl
@[simp] theorem State.store__mem (s x1) : (@State.store_ s x1).mem = s.mem := by
  simp [State.store_]
@[simp] theorem State.flushNow_mem (s x1) : (@State.flushNow s x1).mem = s.mem := by
  simp [State.flushNow]
@[simp] theorem State.beginFlush_mem (s x1) : (@State.beginFlush s x1).mem = s.mem := by
  unfold State.beginFlush
  dsimp only
  split <;> simp
theorem State.stopBlock_wf (s x1 x2) (hm : Memory.wf s.mem = true) : Memory.wf ((@State.stopBlock s x1 x2).mem) = true := by
  unfold State.stopBlock; repeat' (first | assumption | intro _ | apply State.beginSave_wf | dsimp only | split | refine foldl_wf _ (fun s x hm => ?_) _ _ ?_ | refine foldl_snd_wf _ (fun s x hm => ?_) _ _ ?_ | (simp; done) | (simp; assumption) | (simp))
theorem State.yield_wf (s x1 x2) (hm : Memory.wf s.mem = true) : Memory.wf ((@State.yield s x1 x2).mem) = true := by
  unfold State.yield; repeat' (first | assumption | intro _ | apply State.stopBlock_wf | dsimp only | split | refine foldl_wf _ (fun s x hm => ?_) _ _ ?_ | refine foldl_snd_wf _ (fun s x hm => ?_) _ _ ?_ | (simp; done) | (simp; assumption) | (simp))
theorem State.sliceStop_wf (s x1) (hm : Memory.wf s.mem = true) : Memory.wf ((@State.sliceStop s x1).mem) = true := by
  unfold State.sliceStop; repeat' (first | assumption | intro _ | apply State.stopBlock_wf | dsimp only | split | refine foldl_wf _ (fun s x hm => ?_) _ _ ?_ | refine foldl_snd_wf _ (fun s x hm => ?_) _ _ ?_ | (simp; done) | (simp; assumption) | (simp))
theorem State.sliceEnd_wf (s x1) (hm : Memory.wf s.mem = true) : Memory.wf ((@State.sliceEnd s x1).mem) = true := by
  unfold State.sliceEnd; repeat' (first | assumption | intro _ | apply State.yield_wf | apply State.sliceStop_wf | dsimp only | split | refine foldl_wf _ (fun s x hm => ?_) _ _ ?_ | refine foldl_snd_wf _ (fun s x hm => ?_) _ _ ?_ | (simp; done) | (simp; assumption) | (simp))
theorem execPreempt_wf (x0 x1 s) (hm : Memory.wf s.mem = true) : Memory.wf (Out.memory (@execPreempt x0 x1 s) s.mem) = true := by
  unfold execPreempt; repeat' (first | assumption | intro _ | apply State.yield_wf | apply State.sliceEnd_wf | apply State.sliceStop_wf | apply State.beginSave_wf | dsimp only | split | refine foldl_wf _ (fun s x hm => ?_) _ _ ?_ | refine foldl_snd_wf _ (fun s x hm => ?_) _ _ ?_ | (simp; done) | (simp; assumption) | (simp))
@[simp] theorem execBlockSave_mem (x0 s) : Out.memory (@execBlockSave x0 s) s.mem = s.mem := by
  have h (l : List XCmd) (s : State) : (List.foldl (fun s c => s.cancelRound c) s l).mem = s.mem :=
    foldl_mem _ (fun s x => by simp) _ _
  unfold execBlockSave
  rw [Out.memory_next]
  dsimp only
  (repeat' split) <;> simp [h]
@[simp] theorem execBlockRestore_mem (x0 x1 s) : Out.memory (@execBlockRestore x0 x1 s) s.mem = s.mem := by
  unfold execBlockRestore; (try dsimp only); (repeat' split) <;> first | rfl | simp
theorem execSliceEnd_wf (x0 x1 s) (hm : Memory.wf s.mem = true) : Memory.wf (Out.memory (@execSliceEnd x0 x1 s) s.mem) = true := by
  unfold execSliceEnd; repeat' (first | assumption | intro _ | apply State.sliceEnd_wf | dsimp only | split | refine foldl_wf _ (fun s x hm => ?_) _ _ ?_ | refine foldl_snd_wf _ (fun s x hm => ?_) _ _ ?_ | (simp; done) | (simp; assumption) | (simp))
theorem execClusterReclaim_wf (x0 s) (hm : Memory.wf s.mem = true) : Memory.wf (Out.memory (@execClusterReclaim x0 s) s.mem) = true := by
  unfold execClusterReclaim; repeat' (first | assumption | intro _ | apply State.sliceStop_wf | dsimp only | split | refine foldl_wf _ (fun s x hm => ?_) _ _ ?_ | refine foldl_snd_wf _ (fun s x hm => ?_) _ _ ?_ | (simp; done) | (simp; assumption) | (simp))
theorem execWatchdogExpire_wf (x0 s) (hm : Memory.wf s.mem = true) : Memory.wf (Out.memory (execWatchdogExpire x0 s) s.mem) = true := by
  unfold execWatchdogExpire
  rw [Out.memory_next]
  split
  · exact hm
  · dsimp only
    split
    · exact hm
    · refine State.killWhole_wf _ _ ?_
      rw [State.modLaunch_mem, State.event_mem]
      exact State.logFault_wf _ _ _ _ _ _ _ _ _ _ hm
@[simp] theorem State.modClusterThreads_mem (s x1 x2) : (@State.modClusterThreads s x1 x2).mem = s.mem := by
  rfl
@[simp] theorem State.stopWith_mem (s x1 x2 x3) : (@State.stopWith s x1 x2 x3).mem = s.mem := by
  rfl
@[simp] theorem execWatchpointMatch_mem (x0 s) : Out.memory (@execWatchpointMatch x0 s) s.mem = s.mem := by
  unfold execWatchpointMatch; (try dsimp only); (repeat' split) <;> first | rfl | simp
@[simp] theorem execStopRecordDone_mem (x0 s) : Out.memory (@execStopRecordDone x0 s) s.mem = s.mem := by
  unfold execStopRecordDone; (try dsimp only); (repeat' split) <;> first | rfl | simp
@[simp] theorem execHaltWaitTimeout_mem (x0 x1 s) : Out.memory (@execHaltWaitTimeout x0 x1 s) s.mem = s.mem := by
  unfold execHaltWaitTimeout; (try dsimp only); (repeat' split) <;> first | rfl | simp
@[simp] theorem State.stepThread_mem (x0 x1 s x3) : (@State.stepThread x0 x1 s x3).mem = s.mem := by
  simp [State.stepThread]
@[simp] theorem execDebugStep_mem (x0 x1 s) : Out.memory (@execDebugStep x0 x1 s) s.mem = s.mem := by
  have h (b : Block) (g : Nat) (s : State) : (List.foldl (State.stepThread b g) s (List.range 32)).mem = s.mem :=
    foldl_mem _ (fun s x => by simp) _ _
  unfold execDebugStep
  rw [Out.memory_next]
  dsimp only
  (repeat' split) <;> simp [h]
@[simp] theorem execDebugResume_mem (x0 s) : Out.memory (@execDebugResume x0 s) s.mem = s.mem := by
  unfold execDebugResume; (try dsimp only); (repeat' split) <;> first | rfl | simp
@[simp] theorem execStopRequest_mem (x0 s) : Out.memory (@execStopRequest x0 s) s.mem = s.mem := by
  unfold execStopRequest; (try dsimp only); (repeat' split) <;> first | rfl | simp
@[simp] theorem execDebugKill_mem (x0 x1 s) : Out.memory (@execDebugKill x0 x1 s) s.mem = s.mem := by
  unfold execDebugKill; (try dsimp only); (repeat' split) <;> first | rfl | simp
@[simp] theorem execShadowRead_mem (x0 s) : Out.memory (@execShadowRead x0 s) s.mem = s.mem := by
  unfold execShadowRead; (try dsimp only); (repeat' split) <;> first | rfl | simp
@[simp] theorem execShadowWrite_mem (x0 x1 s) : Out.memory (@execShadowWrite x0 x1 s) s.mem = s.mem := by
  unfold execShadowWrite; (try dsimp only); (repeat' split) <;> first | rfl | simp
theorem execTsLatch_wf (x0 s) (hm : Memory.wf s.mem = true) : Memory.wf (Out.memory (@execTsLatch x0 s) s.mem) = true := by
  unfold execTsLatch
  rw [Out.memory_next]
  dsimp only
  split
  · exact hm
  · simp only [State.setDie_mem]
    split
    · exact hm
    · exact State.writeMem_wf _ _ _ hm
theorem State.trip_wf (s x1) (hm : Memory.wf s.mem = true) : Memory.wf (State.trip s x1).mem = true := by
  unfold State.trip
  split
  · rw [State.event_mem]; exact hm
  · exact State.killPartition_wf _ _ (by simpa using hm)
theorem execSensorReport_wf (x0 x1 x2 s) (hm : Memory.wf s.mem = true) : Memory.wf (Out.memory (@execSensorReport x0 x1 x2 s) s.mem) = true := by
  unfold execSensorReport; repeat' (first | assumption | intro _ | apply State.trip_wf | dsimp only | split | refine foldl_wf _ (fun s x hm => ?_) _ _ ?_ | refine foldl_snd_wf _ (fun s x hm => ?_) _ _ ?_ | (simp; done) | (simp; assumption) | (simp))
theorem execMigrateSend_wf (x0 x1 x2 s) (hm : Memory.wf s.mem = true) : Memory.wf (Out.memory (@execMigrateSend x0 x1 x2 s) s.mem) = true := by
  unfold execMigrateSend; repeat' (first | assumption | intro _ | apply State.saveAll_wf | dsimp only | split | refine foldl_wf _ (fun s x hm => ?_) _ _ ?_ | refine foldl_snd_wf _ (fun s x hm => ?_) _ _ ?_ | (simp; done) | (simp; assumption) | (simp))
@[simp] theorem execMigrateReceive_mem (x0 x1 x2 s) : Out.memory (@execMigrateReceive x0 x1 x2 s) s.mem = s.mem := by
  unfold execMigrateReceive; (try dsimp only); (repeat' split) <;> first | rfl | simp
@[simp] theorem execEndForwarding_mem (x0 s) : Out.memory (@execEndForwarding x0 s) s.mem = s.mem := by
  unfold execEndForwarding; (try dsimp only); (repeat' split) <;> first | rfl | simp
@[simp] theorem execPagePull_mem (x0 x1 s) : Out.memory (@execPagePull x0 x1 s) s.mem = s.mem := by
  unfold execPagePull; (try dsimp only); (repeat' split) <;> first | rfl | simp
@[simp] theorem State.respond_mem (s x1 x2 x3 x4 x5 x6) : (@State.respond s x1 x2 x3 x4 x5 x6).mem = s.mem := by
  rfl
theorem State.setOwn_wf (s x1 x2 x3 x4) (hm : Memory.wf s.mem = true) : Memory.wf ((@State.setOwn s x1 x2 x3 x4).mem) = true := by
  unfold State.setOwn; repeat' (first | assumption | apply State.writeMem_wf | dsimp only | split | refine foldl_wf _ (fun s x hm => ?_) _ _ ?_ | refine foldl_snd_wf _ (fun s x hm => ?_) _ _ ?_ | (simp; done) | (simp; assumption) | (simp))
theorem State.finishPull_wf (s x1) (hm : Memory.wf s.mem = true) : Memory.wf ((@State.finishPull s x1).mem) = true := by
  unfold State.finishPull; repeat' (first | assumption | intro _ | apply State.setOwn_wf | dsimp only | split | refine foldl_wf _ (fun s x hm => ?_) _ _ ?_ | refine foldl_snd_wf _ (fun s x hm => ?_) _ _ ?_ | (simp; done) | (simp; assumption) | (simp))
theorem execPullRequest_wf (x0 x1 x2 x3 x4 s) (hm : Memory.wf s.mem = true) : Memory.wf (Out.memory (execPullRequest x0 x1 x2 x3 x4 s) s.mem) = true := by
  unfold execPullRequest
  rw [Out.memory_next]
  dsimp only
  split
  · exact hm
  · split
    · exact State.finishPull_wf _ _ hm
    · split
      · simpa using hm
      · split
        · simpa using hm
        · split
          · exact State.setOwn_wf _ _ _ _ _ hm
          · split
            · exact hm
            · simpa using hm
theorem State.putPage_wf (s x1 x2 x3 x4 x5) (hm : Memory.wf s.mem = true) : Memory.wf ((@State.putPage s x1 x2 x3 x4 x5).mem) = true := by
  unfold State.putPage; repeat' (first | assumption | apply State.writeMem_wf | dsimp only | split | refine foldl_wf _ (fun s x hm => ?_) _ _ ?_ | refine foldl_snd_wf _ (fun s x hm => ?_) _ _ ?_ | (simp; done) | (simp; assumption) | (simp))
theorem execPullReply_wf (x0 x1 x2 x3 x4 x5 s) (hm : Memory.wf s.mem = true) : Memory.wf (Out.memory (@execPullReply x0 x1 x2 x3 x4 x5 s) s.mem) = true := by
  unfold execPullReply; repeat' (first | assumption | intro _ | apply State.failEntry_wf | apply State.setOwn_wf | apply State.putPage_wf | apply State.retryEntry_wf | dsimp only | split | refine foldl_wf _ (fun s x hm => ?_) _ _ ?_ | refine foldl_snd_wf _ (fun s x hm => ?_) _ _ ?_ | (simp; done) | (simp; assumption) | (simp))
@[simp] theorem State.serveLoad_mem (s x1 x2) : (@State.serveLoad s x1 x2).mem = s.mem := by
  rfl
theorem State.writeIo_wf (s x1 x2 x3) (hm : Memory.wf s.mem = true) : Memory.wf ((@State.writeIo s x1 x2 x3).mem) = true := by
  unfold State.writeIo; repeat' (first | assumption | apply State.writeMem_wf | dsimp only | split | refine foldl_wf _ (fun s x hm => ?_) _ _ ?_ | refine foldl_snd_wf _ (fun s x hm => ?_) _ _ ?_ | (simp; done) | (simp; assumption) | (simp))
theorem State.serveStore_wf (s x1 x2) (hm : Memory.wf s.mem = true) : Memory.wf ((@State.serveStore s x1 x2).mem) = true := by
  unfold State.serveStore; repeat' (first | assumption | intro _ | apply State.writeIo_wf | dsimp only | split | refine foldl_wf _ (fun s x hm => ?_) _ _ ?_ | refine foldl_snd_wf _ (fun s x hm => ?_) _ _ ?_ | (simp; done) | (simp; assumption) | (simp))
theorem State.serveLtag_wf (s x1 x2) (hm : Memory.wf s.mem = true) : Memory.wf ((@State.serveLtag s x1 x2).mem) = true := by
  unfold State.serveLtag; repeat' (first | assumption | intro _ | apply State.writeIo_wf | dsimp only | split | refine foldl_wf _ (fun s x hm => ?_) _ _ ?_ | refine foldl_snd_wf _ (fun s x hm => ?_) _ _ ?_ | (simp; done) | (simp; assumption) | (simp))
theorem State.serveAtom_wf (s x1 x2) (hm : Memory.wf s.mem = true) : Memory.wf ((@State.serveAtom s x1 x2).mem) = true := by
  unfold State.serveAtom; repeat' (first | assumption | intro _ | apply State.writeIo_wf | dsimp only | split | refine foldl_wf _ (fun s x hm => ?_) _ _ ?_ | refine foldl_snd_wf _ (fun s x hm => ?_) _ _ ?_ | (simp; done) | (simp; assumption) | (simp))
theorem State.serve_wf (s x1 x2) (hm : Memory.wf s.mem = true) : Memory.wf ((@State.serve s x1 x2).mem) = true := by
  unfold State.serve; repeat' (first | assumption | intro _ | apply State.serveStore_wf | apply State.serveLtag_wf | apply State.serveAtom_wf | dsimp only | split | refine foldl_wf _ (fun s x hm => ?_) _ _ ?_ | refine foldl_snd_wf _ (fun s x hm => ?_) _ _ ?_ | (simp; done) | (simp; assumption) | (simp))
theorem execDamaskAccess_wf (x0 s) (hm : Memory.wf s.mem = true) : Memory.wf (Out.memory (@execDamaskAccess x0 s) s.mem) = true := by
  unfold execDamaskAccess; repeat' (first | assumption | intro _ | apply State.settleRecords_wf | apply State.serve_wf | dsimp only | split | refine foldl_wf _ (fun s x hm => ?_) _ _ ?_ | refine foldl_snd_wf _ (fun s x hm => ?_) _ _ ?_ | (simp; done) | (simp; assumption) | (simp))
theorem State.refuseCcol_wf (s x1 x2 x3) (hm : Memory.wf s.mem = true) : Memory.wf ((@State.refuseCcol s x1 x2 x3).mem) = true := by
  unfold State.refuseCcol; repeat' (first | assumption | intro _ | apply State.holdCcol_wf | dsimp only | split | refine foldl_wf _ (fun s x hm => ?_) _ _ ?_ | refine foldl_snd_wf _ (fun s x hm => ?_) _ _ ?_ | (simp; done) | (simp; assumption) | (simp))
theorem State.remoteLine_wf (s x1 x2 x3 x4) (hm : Memory.wf s.mem = true) : Memory.wf ((@State.remoteLine s x1 x2 x3 x4).mem) = true := by
  unfold State.remoteLine; repeat' (first | assumption | intro _ | apply State.refuseCcol_wf | apply State.holdLine_wf | apply State.landLine_wf | dsimp only | split | refine foldl_wf _ (fun s x hm => ?_) _ _ ?_ | refine foldl_snd_wf _ (fun s x hm => ?_) _ _ ?_ | (simp; done) | (simp; assumption) | (simp))
theorem State.remoteRefused_wf (s x1 x2 x3) (hm : Memory.wf s.mem = true) : Memory.wf ((@State.remoteRefused s x1 x2 x3).mem) = true := by
  unfold State.remoteRefused; repeat' (first | assumption | intro _ | apply State.settleRecords_wf | apply State.lostStore_wf | apply State.entriesDone_wf | dsimp only | split | refine foldl_wf _ (fun s x hm => ?_) _ _ ?_ | refine foldl_snd_wf _ (fun s x hm => ?_) _ _ ?_ | (simp; done) | (simp; assumption) | (simp))
theorem State.remoteEntry_wf (s x1 x2 x3 x4 x5) (hm : Memory.wf s.mem = true) : Memory.wf ((@State.remoteEntry s x1 x2 x3 x4 x5).mem) = true := by
  unfold State.remoteEntry; repeat' (first | assumption | intro _ | apply State.entriesDone_wf | dsimp only | split | refine foldl_wf _ (fun s x hm => ?_) _ _ ?_ | refine foldl_snd_wf _ (fun s x hm => ?_) _ _ ?_ | (simp; done) | (simp; assumption) | (simp))
theorem State.remoteAct_wf (s x1 x2 x3) (hm : Memory.wf s.mem = true) : Memory.wf ((@State.remoteAct s x1 x2 x3).mem) = true := by
  unfold State.remoteAct; repeat' (first | assumption | intro _ | apply State.remoteEntry_wf | dsimp only | split | refine foldl_wf _ (fun s x hm => ?_) _ _ ?_ | refine foldl_snd_wf _ (fun s x hm => ?_) _ _ ?_ | (simp; done) | (simp; assumption) | (simp))
theorem State.remoteDone_wf (s x1 x2 x3) (hm : Memory.wf s.mem = true) : Memory.wf ((@State.remoteDone s x1 x2 x3).mem) = true := by
  unfold State.remoteDone; repeat' (first | assumption | intro _ | apply State.remoteAct_wf | apply State.failLate_wf | apply State.loaded_wf | apply State.carry_wf | dsimp only | split | refine foldl_wf _ (fun s x hm => ?_) _ _ ?_ | refine foldl_snd_wf _ (fun s x hm => ?_) _ _ ?_ | (simp; done) | (simp; assumption) | (simp))
theorem State.fetchFault_wf (s x1 x2 x3 x4) (hm : Memory.wf s.mem = true) : Memory.wf ((@State.fetchFault s x1 x2 x3 x4).mem) = true := by
  unfold State.fetchFault; repeat' (first | assumption | intro _ | apply State.settleRecords_wf | dsimp only | split | refine foldl_wf _ (fun s x hm => ?_) _ _ ?_ | refine foldl_snd_wf _ (fun s x hm => ?_) _ _ ?_ | (simp; done) | (simp; assumption) | (simp))
@[simp] theorem State.putCode_mem (s x1 x2 x3 x4) : (@State.putCode s x1 x2 x3 x4).mem = s.mem := by
  rfl
theorem State.remoteFetch_wf (s x1 x2 x3) (hm : Memory.wf s.mem = true) : Memory.wf ((@State.remoteFetch s x1 x2 x3).mem) = true := by
  unfold State.remoteFetch; repeat' (first | assumption | intro _ | apply State.fetchFault_wf | dsimp only | split | refine foldl_wf _ (fun s x hm => ?_) _ _ ?_ | refine foldl_snd_wf _ (fun s x hm => ?_) _ _ ?_ | (simp; done) | (simp; assumption) | (simp))
theorem State.dispAnswer_wf (s x1 x2 x3 x4 x5) (hm : Memory.wf s.mem = true) : Memory.wf ((@State.dispAnswer s x1 x2 x3 x4 x5).mem) = true := by
  unfold State.dispAnswer; repeat' (first | assumption | intro _ | apply State.dispFault_wf | apply State.dispRetry_wf | dsimp only | split | refine foldl_wf _ (fun s x hm => ?_) _ _ ?_ | refine foldl_snd_wf _ (fun s x hm => ?_) _ _ ?_ | (simp; done) | (simp; assumption) | (simp))
theorem execDamaskResponse_wf (x0 s) (hm : Memory.wf s.mem = true) : Memory.wf (Out.memory (@execDamaskResponse x0 s) s.mem) = true := by
  unfold execDamaskResponse; repeat' (first | assumption | intro _ | apply State.remoteLine_wf | apply State.remoteRefused_wf | apply State.remoteDone_wf | apply State.remoteFetch_wf | apply State.dispAnswer_wf | dsimp only | split | refine foldl_wf _ (fun s x hm => ?_) _ _ ?_ | refine foldl_snd_wf _ (fun s x hm => ?_) _ _ ?_ | (simp; done) | (simp; assumption) | (simp))
theorem execHostMemAccess_wf (x0 x1 x2 s) (hm : Memory.wf s.mem = true) : Memory.wf (Out.memory (@execHostMemAccess x0 x1 x2 s) s.mem) = true := by
  unfold execHostMemAccess; repeat' (first | assumption | apply State.writeIo_wf | dsimp only | split | refine foldl_wf _ (fun s x hm => ?_) _ _ ?_ | refine foldl_snd_wf _ (fun s x hm => ?_) _ _ ?_ | (simp; done) | (simp; assumption) | (simp))
theorem State.loseRead_wf (s x1 x2) (hm : Memory.wf s.mem = true) : Memory.wf ((@State.loseRead s x1 x2).mem) = true := by
  unfold State.loseRead; repeat' (first | assumption | intro _ | apply State.settleRecords_wf | dsimp only | split | refine foldl_wf _ (fun s x hm => ?_) _ _ ?_ | refine foldl_snd_wf _ (fun s x hm => ?_) _ _ ?_ | (simp; done) | (simp; assumption) | (simp))
theorem execCxlLinkDown_wf (x0 s) (hm : Memory.wf s.mem = true) : Memory.wf (Out.memory (@execCxlLinkDown x0 s) s.mem) = true := by
  unfold execCxlLinkDown; repeat' (first | assumption | intro _ | apply State.loseRead_wf | dsimp only | split | refine foldl_wf _ (fun s x hm => ?_) _ _ ?_ | refine foldl_snd_wf _ (fun s x hm => ?_) _ _ ?_ | (simp; done) | (simp; assumption) | (simp))
@[simp] theorem State.setMon_mem (s x1 x2) : (@State.setMon s x1 x2).mem = s.mem := by
  unfold State.setMon; (try dsimp only); (repeat' split) <;> first | rfl | simp
theorem monCall_mem (x0 x1 x2 s x4) (hf : ∀ t a, (x4 t a).s.mem = s.mem) : Out.memory (monCall x0 x1 x2 s x4) s.mem = s.mem := by
  unfold monCall Mailbox.perform
  rw [Out.memory_next]
  split
  · rename_i h
    split at h
    · simp at h
    · split at h
      · simp only [Option.some.injEq, Prod.mk.injEq] at h
        simp [← h.2]
      · simp only [Option.some.injEq, Prod.mk.injEq] at h
        simp [← h.2, hf]
  · rfl
@[simp] theorem State.setTest_mem (s x1 x2) : (@State.setTest s x1 x2).mem = s.mem := by
  unfold State.setTest
  exact foldl_mem _ (fun s x => by split <;> simp) _ _
@[simp] theorem State.setUp_mem (s x1 x2) : (@State.setUp s x1 x2).mem = s.mem := by
  rfl
@[simp] theorem State.setdie_mem (s x1 x2) : (@State.setdie s x1 x2).mem = s.mem := by
  unfold State.setdie
  dsimp only
  split <;> split <;> simp
@[simp] theorem execSetdie_mem (x0 s) : Out.memory (@execSetdie x0 s) s.mem = s.mem := by
  unfold execSetdie
  exact monCall_mem _ _ _ _ _ (fun t a => by (repeat' split) <;> simp)
@[simp] theorem execSetvf_mem (x0 s) : Out.memory (@execSetvf x0 s) s.mem = s.mem := by
  unfold execSetvf
  exact monCall_mem _ _ _ _ _ (fun t a => by (repeat' split) <;> simp)
@[simp] theorem execSetfw_mem (x0 s) : Out.memory (@execSetfw x0 s) s.mem = s.mem := by
  unfold execSetfw
  exact monCall_mem _ _ _ _ _ (fun t a => by dsimp only; (repeat' split) <;> simp)
@[simp] theorem execInj_mem (x0 s) : Out.memory (@execInj x0 s) s.mem = s.mem := by
  unfold execInj
  exact monCall_mem _ _ _ _ _ (fun t a => by dsimp only; (repeat' split) <;> simp)
@[simp] theorem execMeasure_mem (x0 s) : Out.memory (@execMeasure x0 s) s.mem = s.mem := by
  unfold execMeasure
  exact monCall_mem _ _ _ _ _ (fun t a => rfl)
@[simp] theorem execBank_mem (x0 s) : Out.memory (@execBank x0 s) s.mem = s.mem := by
  unfold execBank
  exact monCall_mem _ _ _ _ _ (fun t a => by dsimp only; (repeat' split) <;> simp)
@[simp] theorem State.jobDonew_mem (s x1) : ((@State.jobDonew s x1).2).mem = s.mem := by
  unfold State.jobDonew; (try dsimp only); (repeat' split) <;> first | rfl | simp
theorem State.resetJob_wf (x0 s x2) (hm : Memory.wf s.mem = true) : Memory.wf (State.resetJob x0 s x2).mem = true := by
  unfold State.resetJob
  dsimp only
  split
  · simpa using hm
  · split
    · simpa using hm
    · split
      · simpa using hm
      · rw [State.irq_mem]
        split
        · simpa using hm
        · exact foldl_wf _ (fun s x h => State.putGlobal_wf _ _ _ _ _ h) _ _ (by simpa using hm)
@[simp] theorem State.resetVf_mem (s x1) : (@State.resetVf s x1).mem = s.mem := by
  unfold State.resetVf; (try dsimp only); (repeat' split) <;> first | rfl | simp
theorem State.resetDies_wf (s x1) (hm : Memory.wf s.mem = true) : Memory.wf ((@State.resetDies s x1).mem) = true := by
  unfold State.resetDies; repeat' (first | assumption | apply dropCells_wf | dsimp only | split | refine foldl_wf _ (fun s x hm => ?_) _ _ ?_ | refine foldl_snd_wf _ (fun s x hm => ?_) _ _ ?_ | (simp; done) | (simp; assumption) | (simp))
theorem State.preset_wf (s x1) (hm : Memory.wf s.mem = true) : Memory.wf (State.preset s x1).mem = true := by
  have fm (l : List Nat) (s : State) : (List.foldl State.resetVf s l).mem = s.mem := foldl_mem _ (fun s x => by simp) _ _
  unfold State.preset
  dsimp only
  rw [State.setUp_mem]
  refine State.resetDies_wf _ _ ?_
  rw [fm, State.dropWork_mem, State.event_mem]
  exact foldl_wf _ (fun s x h => State.resetJob_wf _ _ _ h) _ _ (by simpa using hm)
theorem execPreset_wf (x0 s) (hm : Memory.wf s.mem = true) : Memory.wf (Out.memory (execPreset x0 s) s.mem) = true := by
  have call (m1 code range) (f : Nat → DWord → Called) (hf : ∀ t a, Memory.wf (f t a).s.mem = true) :
      Memory.wf (Out.memory (monCall m1 code range s f) s.mem) = true := by
    unfold monCall Mailbox.perform
    rw [Out.memory_next]
    split
    · rename_i h
      split at h
      · simp at h
      · split at h
        · simp only [Option.some.injEq, Prod.mk.injEq] at h
          rw [State.setMon_mem, ← h.2]; exact hm
        · simp only [Option.some.injEq, Prod.mk.injEq] at h
          rw [State.setMon_mem, ← h.2]; exact hf _ _
    · exact hm
  unfold execPreset
  refine call _ _ _ _ (fun t a => ?_)
  split
  · exact hm
  · exact State.preset_wf _ _ hm
theorem fwCall_mem (x0 x1 s x3) (hf : ∀ t a, (x3 t a).s.mem = s.mem) : Out.memory (fwCall x0 x1 s x3) s.mem = s.mem := by
  unfold fwCall Mailbox.perform
  rw [Out.memory_next]
  split
  · rename_i h
    split at h
    · simp at h
    · split at h
      · simp only [Option.some.injEq, Prod.mk.injEq] at h
        simp [← h.2]
      · simp only [Option.some.injEq, Prod.mk.injEq] at h
        simp [← h.2, hf]
  · rfl
@[simp] theorem execSetqos_mem (s) : Out.memory (@execSetqos s) s.mem = s.mem := by
  unfold execSetqos
  exact fwCall_mem _ _ _ _ (fun t a => by (repeat' split) <;> simp)
@[simp] theorem execSetown_mem (s) : Out.memory (@execSetown s) s.mem = s.mem := by
  unfold execSetown
  exact fwCall_mem _ _ _ _ (fun t a => by dsimp only; (repeat' split) <;> simp)
@[simp] theorem execEvread_mem (s) : Out.memory (@execEvread s) s.mem = s.mem := by
  unfold execEvread
  exact fwCall_mem _ _ _ _ (fun t a => by (repeat' split) <;> simp)
@[simp] theorem execEvcount_mem (s) : Out.memory (@execEvcount s) s.mem = s.mem := by
  unfold execEvcount
  exact fwCall_mem _ _ _ _ (fun t a => rfl)
@[simp] theorem State.bootBank_mem (s) : (((@State.bootBank s).2).2).mem = s.mem := by
  unfold State.bootBank; (try dsimp only); (repeat' split) <;> first | rfl | simp
theorem State.powered_wf (s) (hm : Memory.wf s.mem = true) : Memory.wf ((@State.powered s).mem) = true := by
  unfold State.powered; repeat' (first | assumption | apply dropCells_wf | dsimp only | split | refine foldl_wf _ (fun s x hm => ?_) _ _ ?_ | refine foldl_snd_wf _ (fun s x hm => ?_) _ _ ?_ | (simp; done) | (simp; assumption) | (simp))
@[simp] theorem State.enumerate_mem (s x1) : (@State.enumerate s x1).mem = s.mem := by
  unfold State.enumerate; repeat' (first | rfl | (refine (foldl_mem _ (fun s x => ?_) _ _).trans ?_) | split | (simp; done) | dsimp only)
theorem execModuleReset_wf (s) (hm : Memory.wf s.mem = true) : Memory.wf (Out.memory (@execModuleReset s) s.mem) = true := by
  unfold execModuleReset; repeat' (first | assumption | apply State.powered_wf | dsimp only | split | refine foldl_wf _ (fun s x hm => ?_) _ _ ?_ | refine foldl_snd_wf _ (fun s x hm => ?_) _ _ ?_ | (simp; done) | (simp; assumption) | (simp))
theorem writeMigctl_wf (x0 x1 s) (hm : Memory.wf s.mem = true) : Memory.wf (Out.memory (@writeMigctl x0 x1 s) s.mem) = true := by
  unfold writeMigctl
  dsimp only
  split
  · exact execMigrateSend_wf _ _ _ _ hm
  · rw [execMigrateReceive_mem]; exact hm
  · unfold execEndForwarding
    dsimp only
    rw [Out.memory_next]
    (repeat' split) <;> simpa using hm
  · exact hm

@[simp] theorem State.writeExport_mem (s x1 x2) : (@State.writeExport s x1 x2).mem = s.mem := by
  unfold State.writeExport; (try dsimp only); (repeat' split) <;> first | rfl | simp
theorem writeVf_wf (x0 x1 x2 s) (hm : Memory.wf s.mem = true) : Memory.wf (Out.memory (@writeVf x0 x1 x2 s) s.mem) = true := by
  unfold writeVf; repeat' (first | assumption | intro _ | apply flushRing_wf | apply execFqrspRetry_wf | apply execFqrspFail_wf | apply writeMigctl_wf | dsimp only | split | refine foldl_wf _ (fun s x hm => ?_) _ _ ?_ | refine foldl_snd_wf _ (fun s x hm => ?_) _ _ ?_ | (simp; done) | (simp; assumption) | (simp))
@[simp] theorem State.writePage_mem (s x1 x2 x3) : (@State.writePage s x1 x2 x3).mem = s.mem := by
  unfold State.writePage; (try dsimp only); (repeat' split) <;> first | rfl | simp
@[simp] theorem writeCluster_mem (x0 x1 x2 s) : Out.memory (writeCluster x0 x1 x2 s) s.mem = s.mem := by
  have a (t : State) (h : t.mem = s.mem) : Out.memory (execDebugResume x0 t) s.mem = s.mem := by
    have := execDebugResume_mem x0 t
    rwa [h] at this
  have b (f) : (s.modCluster x0 f).mem = s.mem := State.modCluster_mem _ _ _
  unfold writeCluster
  split
  · dsimp only
    split
    · exact a _ (b _)
    · exact b _
  · split
    · exact execStopRequest_mem _ _
    · rfl
  · exact execDebugKill_mem _ _ _
  · exact execDebugStep_mem _ _ _
  · exact b _
  · exact execShadowWrite_mem _ _ _
  · dsimp only
    split
    · exact b _
    · split
      · rw [Out.memory_next]
        split
        · exact b _
        · rfl
      · rfl
@[simp] theorem State.allDies_mem (s x1) : (@State.allDies s x1).mem = s.mem := by
  unfold State.allDies
  exact foldl_mem _ (fun s x => by simp) _ _
@[simp] theorem State.writeSeries_mem (s x1) : (@State.writeSeries s x1).mem = s.mem := by
  unfold State.writeSeries
  dsimp only
  split
  · rfl
  · split
    · rw [State.allDies_mem]
    · split
      · rw [State.allDies_mem]
      · rfl
@[simp] theorem State.writePackage_mem (s x1 x2) : (@State.writePackage s x1 x2).mem = s.mem := by
  unfold State.writePackage; (try dsimp only); (repeat' split) <;> first | rfl | simp
theorem execRegisterWrite_wf (x0 x1 x2 s) (hm : Memory.wf s.mem = true) : Memory.wf (Out.memory (@execRegisterWrite x0 x1 x2 s) s.mem) = true := by
  unfold execRegisterWrite; repeat' (first | assumption | intro _ | apply writeVf_wf | dsimp only | split | refine foldl_wf _ (fun s x hm => ?_) _ _ ?_ | refine foldl_snd_wf _ (fun s x hm => ?_) _ _ ?_ | (simp; done) | (simp; assumption) | (simp))
@[simp] theorem mixWords_mem (x0 x1 s) : ((@mixWords x0 x1 s).2).mem = s.mem := by
  fun_induction mixWords x0 x1 s <;> first | rfl | simp +zetaDelta [*]
theorem State.fetchLine_wf (s x1 x2 x3) (hm : Memory.wf s.mem = true) : Memory.wf (State.fetchLine s x1 x2 x3).mem = true := by
  unfold State.fetchLine
  dsimp only
  split
  · split
    · simpa using hm
    · exact State.fetchFault_wf _ _ _ _ _ (by simpa using hm)
  · exact hm
  · split <;> simpa using hm
  · split
    · exact hm
    · simpa using hm
@[simp] theorem State.prefetchCode_mem (s x1 x2) : (@State.prefetchCode s x1 x2).mem = s.mem := by
  unfold State.prefetchCode; (try dsimp only); (repeat' split) <;> first | rfl | simp
theorem execClauseFetch_wf (x0 x1 s) (hm : Memory.wf s.mem = true) : Memory.wf (Out.memory (@execClauseFetch x0 x1 s) s.mem) = true := by
  unfold execClauseFetch; repeat' (first | assumption | intro _ | apply State.fetchLine_wf | dsimp only | split | refine foldl_wf _ (fun s x hm => ?_) _ _ ?_ | refine foldl_snd_wf _ (fun s x hm => ?_) _ _ ?_ | (simp; done) | (simp; assumption) | (simp))
theorem State.putBinds_wf (s x1 x2) (hm : Memory.wf s.mem = true) : Memory.wf ((@State.putBinds s x1 x2).mem) = true := by
  unfold State.putBinds
  split
  · exact hm
  · exact foldl_wf _ (fun s x h => State.writeMem_wf _ _ _ h) _ _ hm
theorem execExecutionStateArrival_wf (x0 x1 s) (hm : Memory.wf s.mem = true) : Memory.wf (Out.memory (@execExecutionStateArrival x0 x1 s) s.mem) = true := by
  unfold execExecutionStateArrival; repeat' (first | assumption | intro _ | apply State.putBinds_wf | apply State.dispRetry_wf | dsimp only | split | refine foldl_wf _ (fun s x hm => ?_) _ _ ?_ | refine foldl_snd_wf _ (fun s x hm => ?_) _ _ ?_ | (simp; done) | (simp; assumption) | (simp))
@[simp] theorem execDamaskPartition_mem (x0 x1 s) : Out.memory (@execDamaskPartition x0 x1 s) s.mem = s.mem := by
  rfl
@[simp] theorem State.choose_mem (s) : ((@State.choose s).2).mem = s.mem := by
  simp [State.choose]
@[simp] theorem State.placeWord_mem (s x1) : (@State.placeWord s x1).mem = s.mem := by
  rfl
@[simp] theorem State.withFetchWord_mem (s x1 x2) : (@State.withFetchWord s x1 x2).mem = s.mem := by
  rfl

theorem wf_of_mem {a b : List Host.Cell} (e : a = b) (h : Memory.wf b = true) : Memory.wf a = true := e ▸ h

theorem exec_wf (i : Instr) (s : State) (hm : Memory.wf s.mem = true) : Memory.wf (Out.memory (exec i s) s.mem) = true := by
  cases i with
  | rpt n sd sa sb sc => exact execRpt_wf n sd sa sb sc s hm
  | mov c d a wide => exact execMov_wf c d a wide s hm
  | movi c d imm => exact execMovi_wf c d imm s hm
  | sel c d k a b wide => exact execSel_wf c d k a b wide s hm
  | selI c d k imm => exact execSelI_wf c d k imm s hm
  | srd c d idx wide => exact execSrd_wf c d idx wide s hm
  | swr c a => exact execSwr_wf c a s hm
  | plop c d a b cc lut => exact execPlop_wf c d a b cc lut s hm
  | lea c d a b form sh => exact execLea_wf c d a b form sh s hm
  | leaI c d a imm t => exact execLeaI_wf c d a imm t s hm
  | add c d a b t sat => exact execAdd_wf c d a b t sat s hm
  | addI c d a imm t => exact execAddI_wf c d a imm t s hm
  | addc c d j a b k => exact execAddc_wf c d j a b k s hm
  | sub c d a b t sat => exact execSub_wf c d a b t sat s hm
  | subI c d a imm t => exact execSubI_wf c d a imm t s hm
  | subb c d j a b k => exact execSubb_wf c d j a b k s hm
  | mul c d a b t => exact execMul_wf c d a b t s hm
  | mulI c d a imm t => exact execMulI_wf c d a imm t s hm
  | mulh c d a b t => exact execMulh_wf c d a b t s hm
  | mad c d a b cc t => exact execMad_wf c d a b cc t s hm
  | madI c d a imm t => exact execMadI_wf c d a imm t s hm
  | min c d a b t => exact execMin_wf c d a b t s hm
  | minI c d a imm t => exact execMinI_wf c d a imm t s hm
  | max c d a b t => exact execMax_wf c d a b t s hm
  | maxI c d a imm t => exact execMaxI_wf c d a imm t s hm
  | abs c d a t sat => exact execAbs_wf c d a t sat s hm
  | cmp c p cond a b t => exact execCmp_wf c p cond a b t s hm
  | cmpI c p cond a imm t => exact execCmpI_wf c p cond a imm t s hm
  | and c d a b t => exact execAnd_wf c d a b t s hm
  | andI c d a imm t => exact execAndI_wf c d a imm t s hm
  | or c d a b t => exact execOr_wf c d a b t s hm
  | orI c d a imm t => exact execOrI_wf c d a imm t s hm
  | xor c d a b t => exact execXor_wf c d a b t s hm
  | xorI c d a imm t => exact execXorI_wf c d a imm t s hm
  | not c d a t => exact execNot_wf c d a t s hm
  | shl c d a b t => exact execShl_wf c d a b t s hm
  | shlI c d a n t => exact execShlI_wf c d a n t s hm
  | shr c d a b t => exact execShr_wf c d a b t s hm
  | shrI c d a n t => exact execShrI_wf c d a n t s hm
  | rol c d a b wide => exact execRol_wf c d a b wide s hm
  | rolI c d a n wide => exact execRolI_wf c d a n wide s hm
  | ror c d a b wide => exact execRor_wf c d a b wide s hm
  | rorI c d a n wide => exact execRorI_wf c d a n wide s hm
  | bfx c d a b cc sgn => exact execBfx_wf c d a b cc sgn s hm
  | bfxI c d a pos width sgn => exact execBfxI_wf c d a pos width sgn s hm
  | bfi c d a b cc => exact execBfi_wf c d a b cc s hm
  | bfiI c d a pos width => exact execBfiI_wf c d a pos width s hm
  | popc c d a wide => exact execPopc_wf c d a wide s hm
  | clz c d a wide => exact execClz_wf c d a wide s hm
  | brev c d a wide => exact execBrev_wf c d a wide s hm
  | rngs c a => exact execRngs_wf c a s hm
  | rng c d => exact execRng_wf c d s hm
  | rngj c a => exact execRngj_wf c a s hm
  | kmax c d a b t => exact execKmax_wf c d a b t s hm
  | kmin c d a b t => exact execKmin_wf c d a b t s hm
  | kcmp c p lt a b t => exact execKcmp_wf c p lt a b t s hm
  | fadd c ap d a b t rm => exact execFadd_wf c ap d a b t rm s hm
  | faddI c ap d a imm t => exact execFaddI_wf c ap d a imm t s hm
  | fsub c ap d a b t rm => exact execFsub_wf c ap d a b t rm s hm
  | fmul c ap d a b t rm => exact execFmul_wf c ap d a b t rm s hm
  | fmulI c ap d a imm t => exact execFmulI_wf c ap d a imm t s hm
  | ffma c ap d a b cc t rm neg => exact execFfma_wf c ap d a b cc t rm neg s hm
  | ffmaI c ap d a imm t => exact execFfmaI_wf c ap d a imm t s hm
  | fmin c ap d a b t => exact execFmin_wf c ap d a b t s hm
  | fmax c ap d a b t => exact execFmax_wf c ap d a b t s hm
  | fcmp c ap p cond u a b t => exact execFcmp_wf c ap p cond u a b t s hm
  | fcmpI c ap p cond u a imm t => exact execFcmpI_wf c ap p cond u a imm t s hm
  | fcls c d a t => exact execFcls_wf c d a t s hm
  | frnd c d a t rm => exact execFrnd_wf c d a t rm s hm
  | fscl c d a b t rm => exact execFscl_wf c d a b t rm s hm
  | frcp c d a t rm => exact execFrcp_wf c d a t rm s hm
  | fsqrt c d a t rm => exact execFsqrt_wf c d a t rm s hm
  | frsq c d a t => exact execFrsq_wf c d a t s hm
  | fex2 c d a t => exact execFex2_wf c d a t s hm
  | flg2 c d a t => exact execFlg2_wf c d a t s hm
  | fsin c d a t => exact execFsin_wf c d a t s hm
  | fcos c d a t => exact execFcos_wf c d a t s hm
  | ftnh c d a t => exact execFtnh_wf c d a t s hm
  | hadd2 c ap d a b t rm => exact execHadd2_wf c ap d a b t rm s hm
  | hsub2 c ap d a b t rm => exact execHsub2_wf c ap d a b t rm s hm
  | hmul2 c ap d a b t rm => exact execHmul2_wf c ap d a b t rm s hm
  | hfma2 c ap d a b cc t rm neg => exact execHfma2_wf c ap d a b cc t rm neg s hm
  | hfma2I c ap d a imm t => exact execHfma2I_wf c ap d a imm t s hm
  | hmin2 c ap d a b t => exact execHmin2_wf c ap d a b t s hm
  | hmax2 c ap d a b t => exact execHmax2_wf c ap d a b t s hm
  | hcmp2 c ap d a b t cond u => exact execHcmp2_wf c ap d a b t cond u s hm
  | hdot2 c ap d a b cc dt st rm => exact execHdot2_wf c ap d a b cc dt st rm s hm
  | cvt c ap d a dt st rm sat => exact execCvt_wf c ap d a dt st rm sat s hm
  | cvtn c ap d a b dt rm sat k => exact execCvtn_wf c ap d a b dt rm sat k s hm
  | cvtw c ap d a dt st k => exact execCvtw_wf c ap d a dt st k s hm
  | sdot c d a b cc ta tb q => exact execSdot_wf c d a b cc ta tb q s hm
  | cbx c d a b dt => exact execCbx_wf c d a b dt s hm
  | bra c imm => exact execBra_wf c imm s hm
  | brx c a imm stride => exact execBrx_wf c a imm stride s hm
  | call c imm => exact execCall_wf c imm s hm
  | callr c a => exact execCallr_wf c a s hm
  | ret c => exact execRet_wf c s hm
  | exit c => exact execExit_wf c s hm
  | rjp c id mask => exact execRjp_wf c id mask s hm
  | rjpReg c id r => exact execRjpReg_wf c id r s hm
  | rjw c id => exact execRjw_wf c id s hm
  | brk c n => exact execBrk_wf c n s hm
  | yld c => exact execYld_wf c s hm
  | sleep c n => exact execSleep_wf c n s hm
  | rdv c m => exact execRdv_wf c m s hm
  | rdvI c mask => exact execRdvI_wf c mask s hm
  | gshf c d a b m wide ps => exact execGshf_wf c d a b m wide ps s hm
  | gshx c d a b m wide ps => exact execGshx_wf c d a b m wide ps s hm
  | gshu c d a b m wide ps => exact execGshu_wf c d a b m wide ps s hm
  | gshd c d a b m wide ps => exact execGshd_wf c d a b m wide ps s hm
  | gbal c d pa m => exact execGbal_wf c d pa m s hm
  | gbalI c d pa mask => exact execGbalI_wf c d pa mask s hm
  | gany c pd pa m => exact execGany_wf c pd pa m s hm
  | ganyI c pd pa mask => exact execGanyI_wf c pd pa mask s hm
  | gall c pd pa m => exact execGall_wf c pd pa m s hm
  | gallI c pd pa mask => exact execGallI_wf c pd pa mask s hm
  | gred c ap d a t op m => exact execGred_wf c ap d a t op m s hm
  | gscn c ap d a t op excl m => exact execGscn_wf c ap d a t op excl m s hm
  | gmat c d a wide m => exact execGmat_wf c d a wide m s hm
  | ld c d k b t n cache disp => exact execLd_wf c d k b t n cache disp s hm
  | st c ap d k b t n cache disp => exact execSt_wf c ap d k b t n cache disp s hm
  | bset c d k => exact execBset_wf c d k s hm
  | bget c kd k b disp => exact execBget_wf c kd k b disp s hm
  | bchk c p k b t n disp => exact execBchk_wf c p k b t n disp s hm
  | ltag c k b appr disp => exact execLtag_wf c k b appr disp s hm
  | pref c k b l2 disp => exact execPref_wf c k b l2 disp s hm
  | xcp c e drec srec ddisp sdisp ncode aw pw => exact execXcp_wf c e drec srec ddisp sdisp ncode aw pw s hm
  | xcpDesc c e drec srec desc aw pw => exact execXcpDesc_wf c e drec srec desc aw pw s hm
  | xln c e drec gx srec gy sz aw => exact execXln_wf c e drec gx srec gy sz aw s hm
  | xrot c e gx disp n mask aw tag => exact execXrot_wf c e gx disp n mask aw tag s hm
  | ainit c k disp off tgt force => exact execAinit_wf c k disp off tgt force s hm
  | aarv c k disp off bytes => exact execAarv_wf c k disp off bytes s hm
  | awt c pd k b e disp => exact execAwt_wf c pd k b e disp s hm
  | atom c d k b v op ord sc t => exact execAtom_wf c d k b v op ord sc t s hm
  | red c k b v op t => exact execRed_wf c k b v op t s hm
  | acq c d k b sc disp => exact execAcq_wf c d k b sc disp s hm
  | rel c v k b sc addv disp => exact execRel_wf c v k b sc addv disp s hm
  | bind c v k b disp => exact execBind_wf c v k b disp s hm
  | fence c ord sc => exact execFence_wf c ord sc s hm
  | bar c => exact execBar_wf c s hm
  | cmt c sc => exact execCmt_wf c sc s hm
  | mop c e m => exact execMop_wf c e m s hm
  | ald c e m r t => exact execAld_wf c e m r t s hm
  | ast c e m ai rm r t => exact execAst_wf c e m ai rm r t s hm
  | azr c e r => exact execAzr_wf c e r s hm
  | ckpt c => exact execCkpt_wf c s hm
  | ccol c e kind op t desc => exact execCcol_wf c e kind op t desc s hm
  | ftst c pd h e => exact execFtst_wf c pd h e s hm
  | fwt c d h => exact execFwt_wf c d h s hm
  | fwtToken c d t => exact execFwtToken_wf c d t s hm
  | fcan c h => exact execFcan_wf c h s hm
  | fcanToken c t => exact execFcanToken_wf c t s hm
  | trap c n => exact execTrap_wf c n s hm
  | tret c => exact execTret_wf c s hm
  | bkpt c n => exact execBkpt_wf c n s hm
  | sysr c d num => exact execSysr_wf c d num s hm
  | sysw c a num => exact execSysw_wf c a num s hm
  | lnch c d a => exact execLnch_wf c d a s hm
  | cncl c a => exact execCncl_wf c a s hm
  | csig c a b rel sc => exact execCsig_wf c a b rel sc s hm
  | cwtVal c pd a b acq sc => exact execCwtVal_wf c pd a b acq sc s hm
  | cwtDone c pd a acq sc => exact execCwtDone_wf c pd a acq sc s hm
  | avset c a => exact execAvset_wf c a s hm
  | avsetI c v => exact execAvsetI_wf c v s hm
  | endr c d a wide => exact execEndr_wf c d a wide s hm
  | endrPred c d a => exact execEndrPred_wf c d a s hm
  | endrc c d a b cc t => exact execEndrc_wf c d a b cc t s hm
  | submit vf v => exact wf_of_mem (execSubmit_mem vf v s) hm
  | jobStart vf => exact execJobStart_wf vf s hm
  | levelStart due => exact execLevelStart_wf due s hm
  | blockDispatch die core => exact wf_of_mem (execBlockDispatch_mem die core s) hm
  | blockComplete bid => exact execBlockComplete_wf bid s hm
  | packetIssue core quarter => exact wf_of_mem (execPacketIssue_mem core quarter s) hm
  | demotionTimeout bid tid => exact wf_of_mem (execDemotionTimeout_mem bid tid s) hm
  | rejoinTimeout bid tid => exact wf_of_mem (execRejoinTimeout_mem bid tid s) hm
  | sleepExpire bid tid => exact wf_of_mem (execSleepExpire_mem bid tid s) hm
  | loadComplete op => exact execLoadComplete_wf op s hm
  | rendezvousComplete bid gang seq => exact wf_of_mem (execRendezvousComplete_mem bid gang seq s) hm
  | replayReexecute core quarter bad => exact wf_of_mem (execReplayReexecute_mem core quarter bad s) hm
  | fqrspRetry vf seq => exact execFqrspRetry_wf vf seq s hm
  | fqrspFail vf seq => exact execFqrspFail_wf vf seq s hm
  | operandReplay op => exact execOperandReplay_wf op s hm
  | tlbinvVa vf va => exact wf_of_mem (execTlbinvVa_mem vf va s) hm
  | tlbinvAll vf => exact wf_of_mem (execTlbinvAll_mem vf s) hm
  | tlbinvDone vf => exact wf_of_mem (execTlbinvDone_mem vf s) hm
  | commitPerformed bid entry => exact execCommitPerformed_wf bid entry s hm
  | ticketTurn launch => exact execTicketTurn_wf launch s hm
  | xferAccept cmd => exact wf_of_mem (execXferAccept_mem cmd s) hm
  | copyLineLand cmd line => exact execCopyLineLand_wf cmd line s hm
  | xferComplete cmd => exact wf_of_mem (execXferComplete_mem cmd s) hm
  | xrotRound cluster mask tag => exact wf_of_mem (execXrotRound_mem cluster mask tag s) hm
  | matrixAccept cmd => exact wf_of_mem (execMatrixAccept_mem cmd s) hm
  | matrixComplete cmd => exact wf_of_mem (execMatrixComplete_mem cmd s) hm
  | ccolComplete cmd ranks agree => exact execCcolComplete_wf cmd ranks agree s hm
  | tokenRefill die => exact wf_of_mem (execTokenRefill_mem die s) hm
  | arbiterAgeTick => exact wf_of_mem (execArbiterAgeTick_mem s) hm
  | dispatchAgeTick die => exact wf_of_mem (execDispatchAgeTick_mem die s) hm
  | railReached core mv => exact wf_of_mem (execRailReached_mem core mv s) hm
  | ueConsumed bid code island => exact execUeConsumed_wf bid code island s hm
  | scratchUe bid island => exact execScratchUe_wf bid island s hm
  | preempt bid why => exact execPreempt_wf bid why s hm
  | blockSave bid => exact wf_of_mem (execBlockSave_mem bid s) hm
  | blockRestore bid core => exact wf_of_mem (execBlockRestore_mem bid core s) hm
  | sliceEnd vf core => exact execSliceEnd_wf vf core s hm
  | clusterReclaim cluster => exact execClusterReclaim_wf cluster s hm
  | watchdogExpire launch => exact execWatchdogExpire_wf launch s hm
  | watchpointMatch cluster => exact wf_of_mem (execWatchpointMatch_mem cluster s) hm
  | stopRecordDone cluster => exact wf_of_mem (execStopRecordDone_mem cluster s) hm
  | haltWaitTimeout bid tid => exact wf_of_mem (execHaltWaitTimeout_mem bid tid s) hm
  | debugStep cluster v => exact wf_of_mem (execDebugStep_mem cluster v s) hm
  | debugResume cluster => exact wf_of_mem (execDebugResume_mem cluster s) hm
  | stopRequest cluster => exact wf_of_mem (execStopRequest_mem cluster s) hm
  | debugKill cluster v => exact wf_of_mem (execDebugKill_mem cluster v s) hm
  | shadowRead cluster => exact wf_of_mem (execShadowRead_mem cluster s) hm
  | shadowWrite cluster v => exact wf_of_mem (execShadowWrite_mem cluster v s) hm
  | tsLatch die => exact execTsLatch_wf die s hm
  | sensorReport island throttle trip => exact execSensorReport_wf island throttle trip s hm
  | migrateSend vf peer sweep => exact execMigrateSend_wf vf peer sweep s hm
  | migrateReceive vf peer sweep => exact wf_of_mem (execMigrateReceive_mem vf peer sweep s) hm
  | endForwarding vf => exact wf_of_mem (execEndForwarding_mem vf s) hm
  | pagePull vf va => exact wf_of_mem (execPagePull_mem vf va s) hm
  | pullRequest vf va level from_ tag => exact execPullRequest_wf vf va level from_ tag s hm
  | pullReply vf va ok data aLines poison => exact execPullReply_wf vf va ok data aLines poison s hm
  | damaskAccess m => exact execDamaskAccess_wf m s hm
  | damaskResponse m => exact execDamaskResponse_wf m s hm
  | hostMemAccess pa write len => exact execHostMemAccess_wf pa write len s hm
  | cxlLinkDown port => exact execCxlLinkDown_wf port s hm
  | setdie m1 => exact wf_of_mem (execSetdie_mem m1 s) hm
  | setvf m1 => exact wf_of_mem (execSetvf_mem m1 s) hm
  | setfw m1 => exact wf_of_mem (execSetfw_mem m1 s) hm
  | inj m1 => exact wf_of_mem (execInj_mem m1 s) hm
  | measure m1 => exact wf_of_mem (execMeasure_mem m1 s) hm
  | bank m1 => exact wf_of_mem (execBank_mem m1 s) hm
  | preset m1 => exact execPreset_wf m1 s hm
  | setqos => exact wf_of_mem (execSetqos_mem s) hm
  | setown => exact wf_of_mem (execSetown_mem s) hm
  | evread => exact wf_of_mem (execEvread_mem s) hm
  | evcount => exact wf_of_mem (execEvcount_mem s) hm
  | moduleReset => exact execModuleReset_wf s hm
  | registerWrite page off v => exact execRegisterWrite_wf page off v s hm
  | clauseFetch bid tid => exact execClauseFetch_wf bid tid s hm
  | executionStateArrival vf which => exact execExecutionStateArrival_wf vf which s hm
  | damaskPartition peer up => exact wf_of_mem (execDamaskPartition_mem peer up s) hm
end Sys2Proof.Machine
end

