-- ==== Sys2Proof/Laws/PerInstr.lean ====
section
/-! SUPPORT. Per instruction: an instruction of the machine has a word, whatever its operands; an event has none. -/

namespace Sys2Proof.Laws.F

/-- The row has an instruction word exactly when it is no event. -/
def Statement (i : Instr) : Prop := (encode i).isSome = !i.isEvent

theorem rpt x0 x1 x2 x3 x4 : Statement (.rpt x0 x1 x2 x3 x4) := rfl
theorem mov x0 x1 x2 x3 : Statement (.mov x0 x1 x2 x3) := rfl
theorem movi x0 x1 x2 : Statement (.movi x0 x1 x2) := rfl
theorem sel x0 x1 x2 x3 x4 x5 : Statement (.sel x0 x1 x2 x3 x4 x5) := rfl
theorem selI x0 x1 x2 x3 : Statement (.selI x0 x1 x2 x3) := rfl
theorem srd x0 x1 x2 x3 : Statement (.srd x0 x1 x2 x3) := rfl
theorem swr x0 x1 : Statement (.swr x0 x1) := rfl
theorem plop x0 x1 x2 x3 x4 x5 : Statement (.plop x0 x1 x2 x3 x4 x5) := rfl
theorem lea x0 x1 x2 x3 x4 x5 : Statement (.lea x0 x1 x2 x3 x4 x5) := rfl
theorem leaI x0 x1 x2 x3 x4 : Statement (.leaI x0 x1 x2 x3 x4) := rfl
theorem add x0 x1 x2 x3 x4 x5 : Statement (.add x0 x1 x2 x3 x4 x5) := rfl
theorem addI x0 x1 x2 x3 x4 : Statement (.addI x0 x1 x2 x3 x4) := rfl
theorem addc x0 x1 x2 x3 x4 x5 : Statement (.addc x0 x1 x2 x3 x4 x5) := rfl
theorem sub x0 x1 x2 x3 x4 x5 : Statement (.sub x0 x1 x2 x3 x4 x5) := rfl
theorem subI x0 x1 x2 x3 x4 : Statement (.subI x0 x1 x2 x3 x4) := rfl
theorem subb x0 x1 x2 x3 x4 x5 : Statement (.subb x0 x1 x2 x3 x4 x5) := rfl
theorem mul x0 x1 x2 x3 x4 : Statement (.mul x0 x1 x2 x3 x4) := rfl
theorem mulI x0 x1 x2 x3 x4 : Statement (.mulI x0 x1 x2 x3 x4) := rfl
theorem mulh x0 x1 x2 x3 x4 : Statement (.mulh x0 x1 x2 x3 x4) := rfl
theorem mad x0 x1 x2 x3 x4 x5 : Statement (.mad x0 x1 x2 x3 x4 x5) := rfl
theorem madI x0 x1 x2 x3 x4 : Statement (.madI x0 x1 x2 x3 x4) := rfl
theorem min x0 x1 x2 x3 x4 : Statement (.min x0 x1 x2 x3 x4) := rfl
theorem minI x0 x1 x2 x3 x4 : Statement (.minI x0 x1 x2 x3 x4) := rfl
theorem max x0 x1 x2 x3 x4 : Statement (.max x0 x1 x2 x3 x4) := rfl
theorem maxI x0 x1 x2 x3 x4 : Statement (.maxI x0 x1 x2 x3 x4) := rfl
theorem abs x0 x1 x2 x3 x4 : Statement (.abs x0 x1 x2 x3 x4) := rfl
theorem cmp x0 x1 x2 x3 x4 x5 : Statement (.cmp x0 x1 x2 x3 x4 x5) := rfl
theorem cmpI x0 x1 x2 x3 x4 x5 : Statement (.cmpI x0 x1 x2 x3 x4 x5) := rfl
theorem and x0 x1 x2 x3 x4 : Statement (.and x0 x1 x2 x3 x4) := rfl
theorem andI x0 x1 x2 x3 x4 : Statement (.andI x0 x1 x2 x3 x4) := rfl
theorem or x0 x1 x2 x3 x4 : Statement (.or x0 x1 x2 x3 x4) := rfl
theorem orI x0 x1 x2 x3 x4 : Statement (.orI x0 x1 x2 x3 x4) := rfl
theorem xor x0 x1 x2 x3 x4 : Statement (.xor x0 x1 x2 x3 x4) := rfl
theorem xorI x0 x1 x2 x3 x4 : Statement (.xorI x0 x1 x2 x3 x4) := rfl
theorem not x0 x1 x2 x3 : Statement (.not x0 x1 x2 x3) := rfl
theorem shl x0 x1 x2 x3 x4 : Statement (.shl x0 x1 x2 x3 x4) := rfl
theorem shlI x0 x1 x2 x3 x4 : Statement (.shlI x0 x1 x2 x3 x4) := rfl
theorem shr x0 x1 x2 x3 x4 : Statement (.shr x0 x1 x2 x3 x4) := rfl
theorem shrI x0 x1 x2 x3 x4 : Statement (.shrI x0 x1 x2 x3 x4) := rfl
theorem rol x0 x1 x2 x3 x4 : Statement (.rol x0 x1 x2 x3 x4) := rfl
theorem rolI x0 x1 x2 x3 x4 : Statement (.rolI x0 x1 x2 x3 x4) := rfl
theorem ror x0 x1 x2 x3 x4 : Statement (.ror x0 x1 x2 x3 x4) := rfl
theorem rorI x0 x1 x2 x3 x4 : Statement (.rorI x0 x1 x2 x3 x4) := rfl
theorem bfx x0 x1 x2 x3 x4 x5 : Statement (.bfx x0 x1 x2 x3 x4 x5) := rfl
theorem bfxI x0 x1 x2 x3 x4 x5 : Statement (.bfxI x0 x1 x2 x3 x4 x5) := rfl
theorem bfi x0 x1 x2 x3 x4 : Statement (.bfi x0 x1 x2 x3 x4) := rfl
theorem bfiI x0 x1 x2 x3 x4 : Statement (.bfiI x0 x1 x2 x3 x4) := rfl
theorem popc x0 x1 x2 x3 : Statement (.popc x0 x1 x2 x3) := rfl
theorem clz x0 x1 x2 x3 : Statement (.clz x0 x1 x2 x3) := rfl
theorem brev x0 x1 x2 x3 : Statement (.brev x0 x1 x2 x3) := rfl
theorem rngs x0 x1 : Statement (.rngs x0 x1) := rfl
theorem rng x0 x1 : Statement (.rng x0 x1) := rfl
theorem rngj x0 x1 : Statement (.rngj x0 x1) := rfl
theorem kmax x0 x1 x2 x3 x4 : Statement (.kmax x0 x1 x2 x3 x4) := rfl
theorem kmin x0 x1 x2 x3 x4 : Statement (.kmin x0 x1 x2 x3 x4) := rfl
theorem kcmp x0 x1 x2 x3 x4 x5 : Statement (.kcmp x0 x1 x2 x3 x4 x5) := rfl
theorem fadd x0 x1 x2 x3 x4 x5 x6 : Statement (.fadd x0 x1 x2 x3 x4 x5 x6) := rfl
theorem faddI x0 x1 x2 x3 x4 x5 : Statement (.faddI x0 x1 x2 x3 x4 x5) := rfl
theorem fsub x0 x1 x2 x3 x4 x5 x6 : Statement (.fsub x0 x1 x2 x3 x4 x5 x6) := rfl
theorem fmul x0 x1 x2 x3 x4 x5 x6 : Statement (.fmul x0 x1 x2 x3 x4 x5 x6) := rfl
theorem fmulI x0 x1 x2 x3 x4 x5 : Statement (.fmulI x0 x1 x2 x3 x4 x5) := rfl
theorem ffma x0 x1 x2 x3 x4 x5 x6 x7 x8 : Statement (.ffma x0 x1 x2 x3 x4 x5 x6 x7 x8) := rfl
theorem ffmaI x0 x1 x2 x3 x4 x5 : Statement (.ffmaI x0 x1 x2 x3 x4 x5) := rfl
theorem fmin x0 x1 x2 x3 x4 x5 : Statement (.fmin x0 x1 x2 x3 x4 x5) := rfl
theorem fmax x0 x1 x2 x3 x4 x5 : Statement (.fmax x0 x1 x2 x3 x4 x5) := rfl
theorem fcmp x0 x1 x2 x3 x4 x5 x6 x7 : Statement (.fcmp x0 x1 x2 x3 x4 x5 x6 x7) := rfl
theorem fcmpI x0 x1 x2 x3 x4 x5 x6 x7 : Statement (.fcmpI x0 x1 x2 x3 x4 x5 x6 x7) := rfl
theorem fcls x0 x1 x2 x3 : Statement (.fcls x0 x1 x2 x3) := rfl
theorem frnd x0 x1 x2 x3 x4 : Statement (.frnd x0 x1 x2 x3 x4) := rfl
theorem fscl x0 x1 x2 x3 x4 x5 : Statement (.fscl x0 x1 x2 x3 x4 x5) := rfl
theorem frcp x0 x1 x2 x3 x4 : Statement (.frcp x0 x1 x2 x3 x4) := rfl
theorem fsqrt x0 x1 x2 x3 x4 : Statement (.fsqrt x0 x1 x2 x3 x4) := rfl
theorem frsq x0 x1 x2 x3 : Statement (.frsq x0 x1 x2 x3) := rfl
theorem fex2 x0 x1 x2 x3 : Statement (.fex2 x0 x1 x2 x3) := rfl
theorem flg2 x0 x1 x2 x3 : Statement (.flg2 x0 x1 x2 x3) := rfl
theorem fsin x0 x1 x2 x3 : Statement (.fsin x0 x1 x2 x3) := rfl
theorem fcos x0 x1 x2 x3 : Statement (.fcos x0 x1 x2 x3) := rfl
theorem ftnh x0 x1 x2 x3 : Statement (.ftnh x0 x1 x2 x3) := rfl
theorem hadd2 x0 x1 x2 x3 x4 x5 x6 : Statement (.hadd2 x0 x1 x2 x3 x4 x5 x6) := rfl
theorem hsub2 x0 x1 x2 x3 x4 x5 x6 : Statement (.hsub2 x0 x1 x2 x3 x4 x5 x6) := rfl
theorem hmul2 x0 x1 x2 x3 x4 x5 x6 : Statement (.hmul2 x0 x1 x2 x3 x4 x5 x6) := rfl
theorem hfma2 x0 x1 x2 x3 x4 x5 x6 x7 x8 : Statement (.hfma2 x0 x1 x2 x3 x4 x5 x6 x7 x8) := rfl
theorem hfma2I x0 x1 x2 x3 x4 x5 : Statement (.hfma2I x0 x1 x2 x3 x4 x5) := rfl
theorem hmin2 x0 x1 x2 x3 x4 x5 : Statement (.hmin2 x0 x1 x2 x3 x4 x5) := rfl
theorem hmax2 x0 x1 x2 x3 x4 x5 : Statement (.hmax2 x0 x1 x2 x3 x4 x5) := rfl
theorem hcmp2 x0 x1 x2 x3 x4 x5 x6 x7 : Statement (.hcmp2 x0 x1 x2 x3 x4 x5 x6 x7) := rfl
theorem hdot2 x0 x1 x2 x3 x4 x5 x6 x7 x8 : Statement (.hdot2 x0 x1 x2 x3 x4 x5 x6 x7 x8) := rfl
theorem cvt x0 x1 x2 x3 x4 x5 x6 x7 : Statement (.cvt x0 x1 x2 x3 x4 x5 x6 x7) := rfl
theorem cvtn x0 x1 x2 x3 x4 x5 x6 x7 x8 : Statement (.cvtn x0 x1 x2 x3 x4 x5 x6 x7 x8) := rfl
theorem cvtw x0 x1 x2 x3 x4 x5 x6 : Statement (.cvtw x0 x1 x2 x3 x4 x5 x6) := rfl
theorem sdot x0 x1 x2 x3 x4 x5 x6 x7 : Statement (.sdot x0 x1 x2 x3 x4 x5 x6 x7) := rfl
theorem cbx x0 x1 x2 x3 x4 : Statement (.cbx x0 x1 x2 x3 x4) := rfl
theorem bra x0 x1 : Statement (.bra x0 x1) := rfl
theorem brx x0 x1 x2 x3 : Statement (.brx x0 x1 x2 x3) := rfl
theorem call x0 x1 : Statement (.call x0 x1) := rfl
theorem callr x0 x1 : Statement (.callr x0 x1) := rfl
theorem ret x0 : Statement (.ret x0) := rfl
theorem exit x0 : Statement (.exit x0) := rfl
theorem rjp x0 x1 x2 : Statement (.rjp x0 x1 x2) := rfl
theorem rjpReg x0 x1 x2 : Statement (.rjpReg x0 x1 x2) := rfl
theorem rjw x0 x1 : Statement (.rjw x0 x1) := rfl
theorem brk x0 x1 : Statement (.brk x0 x1) := rfl
theorem yld x0 : Statement (.yld x0) := rfl
theorem sleep x0 x1 : Statement (.sleep x0 x1) := rfl
theorem rdv x0 x1 : Statement (.rdv x0 x1) := rfl
theorem rdvI x0 x1 : Statement (.rdvI x0 x1) := rfl
theorem gshf x0 x1 x2 x3 x4 x5 x6 : Statement (.gshf x0 x1 x2 x3 x4 x5 x6) := rfl
theorem gshx x0 x1 x2 x3 x4 x5 x6 : Statement (.gshx x0 x1 x2 x3 x4 x5 x6) := rfl
theorem gshu x0 x1 x2 x3 x4 x5 x6 : Statement (.gshu x0 x1 x2 x3 x4 x5 x6) := rfl
theorem gshd x0 x1 x2 x3 x4 x5 x6 : Statement (.gshd x0 x1 x2 x3 x4 x5 x6) := rfl
theorem gbal x0 x1 x2 x3 : Statement (.gbal x0 x1 x2 x3) := rfl
theorem gbalI x0 x1 x2 x3 : Statement (.gbalI x0 x1 x2 x3) := rfl
theorem gany x0 x1 x2 x3 : Statement (.gany x0 x1 x2 x3) := rfl
theorem ganyI x0 x1 x2 x3 : Statement (.ganyI x0 x1 x2 x3) := rfl
theorem gall x0 x1 x2 x3 : Statement (.gall x0 x1 x2 x3) := rfl
theorem gallI x0 x1 x2 x3 : Statement (.gallI x0 x1 x2 x3) := rfl
theorem gred x0 x1 x2 x3 x4 x5 x6 : Statement (.gred x0 x1 x2 x3 x4 x5 x6) := rfl
theorem gscn x0 x1 x2 x3 x4 x5 x6 x7 : Statement (.gscn x0 x1 x2 x3 x4 x5 x6 x7) := rfl
theorem gmat x0 x1 x2 x3 x4 : Statement (.gmat x0 x1 x2 x3 x4) := rfl
theorem ld x0 x1 x2 x3 x4 x5 x6 x7 : Statement (.ld x0 x1 x2 x3 x4 x5 x6 x7) := rfl
theorem st x0 x1 x2 x3 x4 x5 x6 x7 x8 : Statement (.st x0 x1 x2 x3 x4 x5 x6 x7 x8) := rfl
theorem bset x0 x1 x2 : Statement (.bset x0 x1 x2) := rfl
theorem bget x0 x1 x2 x3 x4 : Statement (.bget x0 x1 x2 x3 x4) := rfl
theorem bchk x0 x1 x2 x3 x4 x5 x6 : Statement (.bchk x0 x1 x2 x3 x4 x5 x6) := rfl
theorem ltag x0 x1 x2 x3 x4 : Statement (.ltag x0 x1 x2 x3 x4) := rfl
theorem pref x0 x1 x2 x3 x4 : Statement (.pref x0 x1 x2 x3 x4) := rfl
theorem xcp x0 x1 x2 x3 x4 x5 x6 x7 x8 : Statement (.xcp x0 x1 x2 x3 x4 x5 x6 x7 x8) := rfl
theorem xcpDesc x0 x1 x2 x3 x4 x5 x6 : Statement (.xcpDesc x0 x1 x2 x3 x4 x5 x6) := rfl
theorem xln x0 x1 x2 x3 x4 x5 x6 x7 : Statement (.xln x0 x1 x2 x3 x4 x5 x6 x7) := rfl
theorem xrot x0 x1 x2 x3 x4 x5 x6 x7 : Statement (.xrot x0 x1 x2 x3 x4 x5 x6 x7) := rfl
theorem ainit x0 x1 x2 x3 x4 x5 : Statement (.ainit x0 x1 x2 x3 x4 x5) := rfl
theorem aarv x0 x1 x2 x3 x4 : Statement (.aarv x0 x1 x2 x3 x4) := rfl
theorem awt x0 x1 x2 x3 x4 x5 : Statement (.awt x0 x1 x2 x3 x4 x5) := rfl
theorem atom x0 x1 x2 x3 x4 x5 x6 x7 x8 : Statement (.atom x0 x1 x2 x3 x4 x5 x6 x7 x8) := rfl
theorem red x0 x1 x2 x3 x4 x5 : Statement (.red x0 x1 x2 x3 x4 x5) := rfl
theorem acq x0 x1 x2 x3 x4 x5 : Statement (.acq x0 x1 x2 x3 x4 x5) := rfl
theorem rel x0 x1 x2 x3 x4 x5 x6 : Statement (.rel x0 x1 x2 x3 x4 x5 x6) := rfl
theorem bind x0 x1 x2 x3 x4 : Statement (.bind x0 x1 x2 x3 x4) := rfl
theorem fence x0 x1 x2 : Statement (.fence x0 x1 x2) := rfl
theorem bar x0 : Statement (.bar x0) := rfl
theorem cmt x0 x1 : Statement (.cmt x0 x1) := rfl
theorem mop x0 x1 x2 : Statement (.mop x0 x1 x2) := rfl
theorem ald x0 x1 x2 x3 x4 : Statement (.ald x0 x1 x2 x3 x4) := rfl
theorem ast x0 x1 x2 x3 x4 x5 x6 : Statement (.ast x0 x1 x2 x3 x4 x5 x6) := rfl
theorem azr x0 x1 x2 : Statement (.azr x0 x1 x2) := rfl
theorem ckpt x0 : Statement (.ckpt x0) := rfl
theorem ccol x0 x1 x2 x3 x4 x5 : Statement (.ccol x0 x1 x2 x3 x4 x5) := rfl
theorem ftst x0 x1 x2 x3 : Statement (.ftst x0 x1 x2 x3) := rfl
theorem fwt x0 x1 x2 : Statement (.fwt x0 x1 x2) := rfl
theorem fwtToken x0 x1 x2 : Statement (.fwtToken x0 x1 x2) := rfl
theorem fcan x0 x1 : Statement (.fcan x0 x1) := rfl
theorem fcanToken x0 x1 : Statement (.fcanToken x0 x1) := rfl
theorem trap x0 x1 : Statement (.trap x0 x1) := rfl
theorem tret x0 : Statement (.tret x0) := rfl
theorem bkpt x0 x1 : Statement (.bkpt x0 x1) := rfl
theorem sysr x0 x1 x2 : Statement (.sysr x0 x1 x2) := rfl
theorem sysw x0 x1 x2 : Statement (.sysw x0 x1 x2) := rfl
theorem lnch x0 x1 x2 : Statement (.lnch x0 x1 x2) := rfl
theorem cncl x0 x1 : Statement (.cncl x0 x1) := rfl
theorem csig x0 x1 x2 x3 x4 : Statement (.csig x0 x1 x2 x3 x4) := rfl
theorem cwtVal x0 x1 x2 x3 x4 x5 : Statement (.cwtVal x0 x1 x2 x3 x4 x5) := rfl
theorem cwtDone x0 x1 x2 x3 x4 : Statement (.cwtDone x0 x1 x2 x3 x4) := rfl
theorem avset x0 x1 : Statement (.avset x0 x1) := rfl
theorem avsetI x0 x1 : Statement (.avsetI x0 x1) := rfl
theorem endr x0 x1 x2 x3 : Statement (.endr x0 x1 x2 x3) := rfl
theorem endrPred x0 x1 x2 : Statement (.endrPred x0 x1 x2) := rfl
theorem endrc x0 x1 x2 x3 x4 x5 : Statement (.endrc x0 x1 x2 x3 x4 x5) := rfl
theorem submit x0 x1 : Statement (.submit x0 x1) := rfl
theorem jobStart x0 : Statement (.jobStart x0) := rfl
theorem levelStart x0 : Statement (.levelStart x0) := rfl
theorem blockDispatch x0 x1 : Statement (.blockDispatch x0 x1) := rfl
theorem blockComplete x0 : Statement (.blockComplete x0) := rfl
theorem packetIssue x0 x1 : Statement (.packetIssue x0 x1) := rfl
theorem demotionTimeout x0 x1 : Statement (.demotionTimeout x0 x1) := rfl
theorem rejoinTimeout x0 x1 : Statement (.rejoinTimeout x0 x1) := rfl
theorem sleepExpire x0 x1 : Statement (.sleepExpire x0 x1) := rfl
theorem loadComplete x0 : Statement (.loadComplete x0) := rfl
theorem rendezvousComplete x0 x1 x2 : Statement (.rendezvousComplete x0 x1 x2) := rfl
theorem replayReexecute x0 x1 x2 : Statement (.replayReexecute x0 x1 x2) := rfl
theorem fqrspRetry x0 x1 : Statement (.fqrspRetry x0 x1) := rfl
theorem fqrspFail x0 x1 : Statement (.fqrspFail x0 x1) := rfl
theorem operandReplay x0 : Statement (.operandReplay x0) := rfl
theorem tlbinvVa x0 x1 : Statement (.tlbinvVa x0 x1) := rfl
theorem tlbinvAll x0 : Statement (.tlbinvAll x0) := rfl
theorem tlbinvDone x0 : Statement (.tlbinvDone x0) := rfl
theorem commitPerformed x0 x1 : Statement (.commitPerformed x0 x1) := rfl
theorem ticketTurn x0 : Statement (.ticketTurn x0) := rfl
theorem xferAccept x0 : Statement (.xferAccept x0) := rfl
theorem copyLineLand x0 x1 : Statement (.copyLineLand x0 x1) := rfl
theorem xferComplete x0 : Statement (.xferComplete x0) := rfl
theorem xrotRound x0 x1 x2 : Statement (.xrotRound x0 x1 x2) := rfl
theorem matrixAccept x0 : Statement (.matrixAccept x0) := rfl
theorem matrixComplete x0 : Statement (.matrixComplete x0) := rfl
theorem ccolComplete x0 x1 x2 : Statement (.ccolComplete x0 x1 x2) := rfl
theorem tokenRefill x0 : Statement (.tokenRefill x0) := rfl
theorem arbiterAgeTick : Statement (.arbiterAgeTick) := rfl
theorem dispatchAgeTick x0 : Statement (.dispatchAgeTick x0) := rfl
theorem railReached x0 x1 : Statement (.railReached x0 x1) := rfl
theorem ueConsumed x0 x1 x2 : Statement (.ueConsumed x0 x1 x2) := rfl
theorem scratchUe x0 x1 : Statement (.scratchUe x0 x1) := rfl
theorem preempt x0 x1 : Statement (.preempt x0 x1) := rfl
theorem blockSave x0 : Statement (.blockSave x0) := rfl
theorem blockRestore x0 x1 : Statement (.blockRestore x0 x1) := rfl
theorem sliceEnd x0 x1 : Statement (.sliceEnd x0 x1) := rfl
theorem clusterReclaim x0 : Statement (.clusterReclaim x0) := rfl
theorem watchdogExpire x0 : Statement (.watchdogExpire x0) := rfl
theorem watchpointMatch x0 : Statement (.watchpointMatch x0) := rfl
theorem stopRecordDone x0 : Statement (.stopRecordDone x0) := rfl
theorem haltWaitTimeout x0 x1 : Statement (.haltWaitTimeout x0 x1) := rfl
theorem debugStep x0 x1 : Statement (.debugStep x0 x1) := rfl
theorem debugResume x0 : Statement (.debugResume x0) := rfl
theorem stopRequest x0 : Statement (.stopRequest x0) := rfl
theorem debugKill x0 x1 : Statement (.debugKill x0 x1) := rfl
theorem shadowRead x0 : Statement (.shadowRead x0) := rfl
theorem shadowWrite x0 x1 : Statement (.shadowWrite x0 x1) := rfl
theorem tsLatch x0 : Statement (.tsLatch x0) := rfl
theorem sensorReport x0 x1 x2 : Statement (.sensorReport x0 x1 x2) := rfl
theorem migrateSend x0 x1 x2 : Statement (.migrateSend x0 x1 x2) := rfl
theorem migrateReceive x0 x1 x2 : Statement (.migrateReceive x0 x1 x2) := rfl
theorem endForwarding x0 : Statement (.endForwarding x0) := rfl
theorem pagePull x0 x1 : Statement (.pagePull x0 x1) := rfl
theorem pullRequest x0 x1 x2 x3 x4 : Statement (.pullRequest x0 x1 x2 x3 x4) := rfl
theorem pullReply x0 x1 x2 x3 x4 x5 : Statement (.pullReply x0 x1 x2 x3 x4 x5) := rfl
theorem damaskAccess x0 : Statement (.damaskAccess x0) := rfl
theorem damaskResponse x0 : Statement (.damaskResponse x0) := rfl
theorem hostMemAccess x0 x1 x2 : Statement (.hostMemAccess x0 x1 x2) := rfl
theorem cxlLinkDown x0 : Statement (.cxlLinkDown x0) := rfl
theorem setdie x0 : Statement (.setdie x0) := rfl
theorem setvf x0 : Statement (.setvf x0) := rfl
theorem setfw x0 : Statement (.setfw x0) := rfl
theorem inj x0 : Statement (.inj x0) := rfl
theorem measure x0 : Statement (.measure x0) := rfl
theorem bank x0 : Statement (.bank x0) := rfl
theorem preset x0 : Statement (.preset x0) := rfl
theorem setqos : Statement (.setqos) := rfl
theorem setown : Statement (.setown) := rfl
theorem evread : Statement (.evread) := rfl
theorem evcount : Statement (.evcount) := rfl
theorem moduleReset : Statement (.moduleReset) := rfl
theorem registerWrite x0 x1 x2 : Statement (.registerWrite x0 x1 x2) := rfl
theorem clauseFetch x0 x1 : Statement (.clauseFetch x0 x1) := rfl
theorem executionStateArrival x0 x1 : Statement (.executionStateArrival x0 x1) := rfl
theorem damaskPartition x0 x1 : Statement (.damaskPartition x0 x1) := rfl

end Sys2Proof.Laws.F
end

