-- ==== Sys2Proof/Laws/State.lean ====
section
/-! SUPPORT. What each named update of the state, of a thread and of a block leaves in each field, so that no proof unfolds a
record update. -/

namespace Sys2Proof.Machine

/-! State.setCore -/
@[simp] theorem State.setCore_tags (s : State) (c : Nat) (v : Core) : (s.setCore c v).tags = s.tags := rfl
@[simp] theorem State.setCore_poisoned (s : State) (c : Nat) (v : Core) : (s.setCore c v).poisoned = s.poisoned := rfl
@[simp] theorem State.setCore_cores (s : State) (c : Nat) (v : Core) : (s.setCore c v).cores = s.cores.set c v := rfl
@[simp] theorem State.setCore_clusters (s : State) (c : Nat) (v : Core) : (s.setCore c v).clusters = s.clusters := rfl
@[simp] theorem State.setCore_dies (s : State) (c : Nat) (v : Core) : (s.setCore c v).dies = s.dies := rfl
@[simp] theorem State.setCore_vfs (s : State) (c : Nat) (v : Core) : (s.setCore c v).vfs = s.vfs := rfl
@[simp] theorem State.setCore_blocks (s : State) (c : Nat) (v : Core) : (s.setCore c v).blocks = s.blocks := rfl
@[simp] theorem State.setCore_counters (s : State) (c : Nat) (v : Core) : (s.setCore c v).counters = s.counters := rfl
@[simp] theorem State.setCore_launches (s : State) (c : Nat) (v : Core) : (s.setCore c v).launches = s.launches := rfl
@[simp] theorem State.setCore_graphs (s : State) (c : Nat) (v : Core) : (s.setCore c v).graphs = s.graphs := rfl
@[simp] theorem State.setCore_phases (s : State) (c : Nat) (v : Core) : (s.setCore c v).phases = s.phases := rfl
@[simp] theorem State.setCore_jobs (s : State) (c : Nat) (v : Core) : (s.setCore c v).jobs = s.jobs := rfl
@[simp] theorem State.setCore_due (s : State) (c : Nat) (v : Core) : (s.setCore c v).due = s.due := rfl
@[simp] theorem State.setCore_pend (s : State) (c : Nat) (v : Core) : (s.setCore c v).pend = s.pend := rfl
@[simp] theorem State.setCore_rels (s : State) (c : Nat) (v : Core) : (s.setCore c v).rels = s.rels := rfl
@[simp] theorem State.setCore_oplog (s : State) (c : Nat) (v : Core) : (s.setCore c v).oplog = s.oplog := rfl
@[simp] theorem State.setCore_xq (s : State) (c : Nat) (v : Core) : (s.setCore c v).xq = s.xq := rfl
@[simp] theorem State.setCore_ccols (s : State) (c : Nat) (v : Core) : (s.setCore c v).ccols = s.ccols := rfl
@[simp] theorem State.setCore_windows (s : State) (c : Nat) (v : Core) : (s.setCore c v).windows = s.windows := rfl
@[simp] theorem State.setCore_awaits (s : State) (c : Nat) (v : Core) : (s.setCore c v).awaits = s.awaits := rfl
@[simp] theorem State.setCore_pulls (s : State) (c : Nat) (v : Core) : (s.setCore c v).pulls = s.pulls := rfl
@[simp] theorem State.setCore_reads (s : State) (c : Nat) (v : Core) : (s.setCore c v).reads = s.reads := rfl
@[simp] theorem State.setCore_sent (s : State) (c : Nat) (v : Core) : (s.setCore c v).sent = s.sent := rfl
@[simp] theorem State.setCore_inbox (s : State) (c : Nat) (v : Core) : (s.setCore c v).inbox = s.inbox := rfl
@[simp] theorem State.setCore_outbox (s : State) (c : Nat) (v : Core) : (s.setCore c v).outbox = s.outbox := rfl
@[simp] theorem State.setCore_cut (s : State) (c : Nat) (v : Core) : (s.setCore c v).cut = s.cut := rfl
@[simp] theorem State.setCore_cxl (s : State) (c : Nat) (v : Core) : (s.setCore c v).cxl = s.cxl := rfl
@[simp] theorem State.setCore_monHost (s : State) (c : Nat) (v : Core) : (s.setCore c v).monHost = s.monHost := rfl
@[simp] theorem State.setCore_monM1 (s : State) (c : Nat) (v : Core) : (s.setCore c v).monM1 = s.monM1 := rfl
@[simp] theorem State.setCore_fwBox (s : State) (c : Nat) (v : Core) : (s.setCore c v).fwBox = s.fwBox := rfl
@[simp] theorem State.setCore_injCtl (s : State) (c : Nat) (v : Core) : (s.setCore c v).injCtl = s.injCtl := rfl
@[simp] theorem State.setCore_injSeed (s : State) (c : Nat) (v : Core) : (s.setCore c v).injSeed = s.injSeed := rfl
@[simp] theorem State.setCore_injCount (s : State) (c : Nat) (v : Core) : (s.setCore c v).injCount = s.injCount := rfl
@[simp] theorem State.setCore_injX (s : State) (c : Nat) (v : Core) : (s.setCore c v).injX = s.injX := rfl
@[simp] theorem State.setCore_injY (s : State) (c : Nat) (v : Core) : (s.setCore c v).injY = s.injY := rfl
@[simp] theorem State.setCore_bankSel (s : State) (c : Nat) (v : Core) : (s.setCore c v).bankSel = s.bankSel := rfl
@[simp] theorem State.setCore_bankRun (s : State) (c : Nat) (v : Core) : (s.setCore c v).bankRun = s.bankRun := rfl
@[simp] theorem State.setCore_bootFails (s : State) (c : Nat) (v : Core) : (s.setCore c v).bootFails = s.bootFails := rfl
@[simp] theorem State.setCore_resets (s : State) (c : Nat) (v : Core) : (s.setCore c v).resets = s.resets := rfl
@[simp] theorem State.setCore_ready (s : State) (c : Nat) (v : Core) : (s.setCore c v).ready = s.ready := rfl
@[simp] theorem State.setCore_bringup (s : State) (c : Nat) (v : Core) : (s.setCore c v).bringup = s.bringup := rfl
@[simp] theorem State.setCore_partup (s : State) (c : Nat) (v : Core) : (s.setCore c v).partup = s.partup := rfl
@[simp] theorem State.setCore_tripped (s : State) (c : Nat) (v : Core) : (s.setCore c v).tripped = s.tripped := rfl
@[simp] theorem State.setCore_evlog (s : State) (c : Nat) (v : Core) : (s.setCore c v).evlog = s.evlog := rfl
@[simp] theorem State.setCore_islErr (s : State) (c : Nat) (v : Core) : (s.setCore c v).islErr = s.islErr := rfl
@[simp] theorem State.setCore_islFence (s : State) (c : Nat) (v : Core) : (s.setCore c v).islFence = s.islFence := rfl
@[simp] theorem State.setCore_islThrottle (s : State) (c : Nat) (v : Core) : (s.setCore c v).islThrottle = s.islThrottle := rfl
@[simp] theorem State.setCore_fenceAt (s : State) (c : Nat) (v : Core) : (s.setCore c v).fenceAt = s.fenceAt := rfl
@[simp] theorem State.setCore_fenceIn (s : State) (c : Nat) (v : Core) : (s.setCore c v).fenceIn = s.fenceIn := rfl
@[simp] theorem State.setCore_tsCtl (s : State) (c : Nat) (v : Core) : (s.setCore c v).tsCtl = s.tsCtl := rfl
@[simp] theorem State.setCore_refClk (s : State) (c : Nat) (v : Core) : (s.setCore c v).refClk = s.refClk := rfl
@[simp] theorem State.setCore_avcal (s : State) (c : Nat) (v : Core) : (s.setCore c v).avcal = s.avcal := rfl
@[simp] theorem State.setCore_pkg (s : State) (c : Nat) (v : Core) : (s.setCore c v).pkg = s.pkg := rfl
@[simp] theorem State.setCore_arbiter (s : State) (c : Nat) (v : Core) : (s.setCore c v).arbiter = s.arbiter := rfl
@[simp] theorem State.setCore_issue (s : State) (c : Nat) (v : Core) : (s.setCore c v).issue = s.issue := rfl
@[simp] theorem State.setCore_packets (s : State) (c : Nat) (v : Core) : (s.setCore c v).packets = s.packets := rfl
@[simp] theorem State.setCore_crew (s : State) (c : Nat) (v : Core) : (s.setCore c v).crew = s.crew := rfl
@[simp] theorem State.setCore_pktFaults (s : State) (c : Nat) (v : Core) : (s.setCore c v).pktFaults = s.pktFaults := rfl
@[simp] theorem State.setCore_memo (s : State) (c : Nat) (v : Core) : (s.setCore c v).memo = s.memo := rfl
@[simp] theorem State.setCore_agenda (s : State) (c : Nat) (v : Core) : (s.setCore c v).agenda = s.agenda := rfl
@[simp] theorem State.setCore_free (s : State) (c : Nat) (v : Core) : (s.setCore c v).free = s.free := rfl
@[simp] theorem State.setCore_ids (s : State) (c : Nat) (v : Core) : (s.setCore c v).ids = s.ids := rfl

/-! State.setCluster -/
@[simp] theorem State.setCluster_tags (s : State) (c : Nat) (v : Cluster) : (s.setCluster c v).tags = s.tags := rfl
@[simp] theorem State.setCluster_poisoned (s : State) (c : Nat) (v : Cluster) : (s.setCluster c v).poisoned = s.poisoned := rfl
@[simp] theorem State.setCluster_cores (s : State) (c : Nat) (v : Cluster) : (s.setCluster c v).cores = s.cores := rfl
@[simp] theorem State.setCluster_clusters (s : State) (c : Nat) (v : Cluster) : (s.setCluster c v).clusters = s.clusters.set c v := rfl
@[simp] theorem State.setCluster_dies (s : State) (c : Nat) (v : Cluster) : (s.setCluster c v).dies = s.dies := rfl
@[simp] theorem State.setCluster_vfs (s : State) (c : Nat) (v : Cluster) : (s.setCluster c v).vfs = s.vfs := rfl
@[simp] theorem State.setCluster_blocks (s : State) (c : Nat) (v : Cluster) : (s.setCluster c v).blocks = s.blocks := rfl
@[simp] theorem State.setCluster_counters (s : State) (c : Nat) (v : Cluster) : (s.setCluster c v).counters = s.counters := rfl
@[simp] theorem State.setCluster_launches (s : State) (c : Nat) (v : Cluster) : (s.setCluster c v).launches = s.launches := rfl
@[simp] theorem State.setCluster_graphs (s : State) (c : Nat) (v : Cluster) : (s.setCluster c v).graphs = s.graphs := rfl
@[simp] theorem State.setCluster_phases (s : State) (c : Nat) (v : Cluster) : (s.setCluster c v).phases = s.phases := rfl
@[simp] theorem State.setCluster_jobs (s : State) (c : Nat) (v : Cluster) : (s.setCluster c v).jobs = s.jobs := rfl
@[simp] theorem State.setCluster_due (s : State) (c : Nat) (v : Cluster) : (s.setCluster c v).due = s.due := rfl
@[simp] theorem State.setCluster_pend (s : State) (c : Nat) (v : Cluster) : (s.setCluster c v).pend = s.pend := rfl
@[simp] theorem State.setCluster_rels (s : State) (c : Nat) (v : Cluster) : (s.setCluster c v).rels = s.rels := rfl
@[simp] theorem State.setCluster_oplog (s : State) (c : Nat) (v : Cluster) : (s.setCluster c v).oplog = s.oplog := rfl
@[simp] theorem State.setCluster_xq (s : State) (c : Nat) (v : Cluster) : (s.setCluster c v).xq = s.xq := rfl
@[simp] theorem State.setCluster_ccols (s : State) (c : Nat) (v : Cluster) : (s.setCluster c v).ccols = s.ccols := rfl
@[simp] theorem State.setCluster_windows (s : State) (c : Nat) (v : Cluster) : (s.setCluster c v).windows = s.windows := rfl
@[simp] theorem State.setCluster_awaits (s : State) (c : Nat) (v : Cluster) : (s.setCluster c v).awaits = s.awaits := rfl
@[simp] theorem State.setCluster_pulls (s : State) (c : Nat) (v : Cluster) : (s.setCluster c v).pulls = s.pulls := rfl
@[simp] theorem State.setCluster_reads (s : State) (c : Nat) (v : Cluster) : (s.setCluster c v).reads = s.reads := rfl
@[simp] theorem State.setCluster_sent (s : State) (c : Nat) (v : Cluster) : (s.setCluster c v).sent = s.sent := rfl
@[simp] theorem State.setCluster_inbox (s : State) (c : Nat) (v : Cluster) : (s.setCluster c v).inbox = s.inbox := rfl
@[simp] theorem State.setCluster_outbox (s : State) (c : Nat) (v : Cluster) : (s.setCluster c v).outbox = s.outbox := rfl
@[simp] theorem State.setCluster_cut (s : State) (c : Nat) (v : Cluster) : (s.setCluster c v).cut = s.cut := rfl
@[simp] theorem State.setCluster_cxl (s : State) (c : Nat) (v : Cluster) : (s.setCluster c v).cxl = s.cxl := rfl
@[simp] theorem State.setCluster_monHost (s : State) (c : Nat) (v : Cluster) : (s.setCluster c v).monHost = s.monHost := rfl
@[simp] theorem State.setCluster_monM1 (s : State) (c : Nat) (v : Cluster) : (s.setCluster c v).monM1 = s.monM1 := rfl
@[simp] theorem State.setCluster_fwBox (s : State) (c : Nat) (v : Cluster) : (s.setCluster c v).fwBox = s.fwBox := rfl
@[simp] theorem State.setCluster_injCtl (s : State) (c : Nat) (v : Cluster) : (s.setCluster c v).injCtl = s.injCtl := rfl
@[simp] theorem State.setCluster_injSeed (s : State) (c : Nat) (v : Cluster) : (s.setCluster c v).injSeed = s.injSeed := rfl
@[simp] theorem State.setCluster_injCount (s : State) (c : Nat) (v : Cluster) : (s.setCluster c v).injCount = s.injCount := rfl
@[simp] theorem State.setCluster_injX (s : State) (c : Nat) (v : Cluster) : (s.setCluster c v).injX = s.injX := rfl
@[simp] theorem State.setCluster_injY (s : State) (c : Nat) (v : Cluster) : (s.setCluster c v).injY = s.injY := rfl
@[simp] theorem State.setCluster_bankSel (s : State) (c : Nat) (v : Cluster) : (s.setCluster c v).bankSel = s.bankSel := rfl
@[simp] theorem State.setCluster_bankRun (s : State) (c : Nat) (v : Cluster) : (s.setCluster c v).bankRun = s.bankRun := rfl
@[simp] theorem State.setCluster_bootFails (s : State) (c : Nat) (v : Cluster) : (s.setCluster c v).bootFails = s.bootFails := rfl
@[simp] theorem State.setCluster_resets (s : State) (c : Nat) (v : Cluster) : (s.setCluster c v).resets = s.resets := rfl
@[simp] theorem State.setCluster_ready (s : State) (c : Nat) (v : Cluster) : (s.setCluster c v).ready = s.ready := rfl
@[simp] theorem State.setCluster_bringup (s : State) (c : Nat) (v : Cluster) : (s.setCluster c v).bringup = s.bringup := rfl
@[simp] theorem State.setCluster_partup (s : State) (c : Nat) (v : Cluster) : (s.setCluster c v).partup = s.partup := rfl
@[simp] theorem State.setCluster_tripped (s : State) (c : Nat) (v : Cluster) : (s.setCluster c v).tripped = s.tripped := rfl
@[simp] theorem State.setCluster_evlog (s : State) (c : Nat) (v : Cluster) : (s.setCluster c v).evlog = s.evlog := rfl
@[simp] theorem State.setCluster_islErr (s : State) (c : Nat) (v : Cluster) : (s.setCluster c v).islErr = s.islErr := rfl
@[simp] theorem State.setCluster_islFence (s : State) (c : Nat) (v : Cluster) : (s.setCluster c v).islFence = s.islFence := rfl
@[simp] theorem State.setCluster_islThrottle (s : State) (c : Nat) (v : Cluster) : (s.setCluster c v).islThrottle = s.islThrottle := rfl
@[simp] theorem State.setCluster_fenceAt (s : State) (c : Nat) (v : Cluster) : (s.setCluster c v).fenceAt = s.fenceAt := rfl
@[simp] theorem State.setCluster_fenceIn (s : State) (c : Nat) (v : Cluster) : (s.setCluster c v).fenceIn = s.fenceIn := rfl
@[simp] theorem State.setCluster_tsCtl (s : State) (c : Nat) (v : Cluster) : (s.setCluster c v).tsCtl = s.tsCtl := rfl
@[simp] theorem State.setCluster_refClk (s : State) (c : Nat) (v : Cluster) : (s.setCluster c v).refClk = s.refClk := rfl
@[simp] theorem State.setCluster_avcal (s : State) (c : Nat) (v : Cluster) : (s.setCluster c v).avcal = s.avcal := rfl
@[simp] theorem State.setCluster_pkg (s : State) (c : Nat) (v : Cluster) : (s.setCluster c v).pkg = s.pkg := rfl
@[simp] theorem State.setCluster_arbiter (s : State) (c : Nat) (v : Cluster) : (s.setCluster c v).arbiter = s.arbiter := rfl
@[simp] theorem State.setCluster_issue (s : State) (c : Nat) (v : Cluster) : (s.setCluster c v).issue = s.issue := rfl
@[simp] theorem State.setCluster_packets (s : State) (c : Nat) (v : Cluster) : (s.setCluster c v).packets = s.packets := rfl
@[simp] theorem State.setCluster_crew (s : State) (c : Nat) (v : Cluster) : (s.setCluster c v).crew = s.crew := rfl
@[simp] theorem State.setCluster_pktFaults (s : State) (c : Nat) (v : Cluster) : (s.setCluster c v).pktFaults = s.pktFaults := rfl
@[simp] theorem State.setCluster_memo (s : State) (c : Nat) (v : Cluster) : (s.setCluster c v).memo = s.memo := rfl
@[simp] theorem State.setCluster_agenda (s : State) (c : Nat) (v : Cluster) : (s.setCluster c v).agenda = s.agenda := rfl
@[simp] theorem State.setCluster_free (s : State) (c : Nat) (v : Cluster) : (s.setCluster c v).free = s.free := rfl
@[simp] theorem State.setCluster_ids (s : State) (c : Nat) (v : Cluster) : (s.setCluster c v).ids = s.ids := rfl

/-! State.setDie -/
@[simp] theorem State.setDie_tags (s : State) (d : Nat) (v : Die) : (s.setDie d v).tags = s.tags := rfl
@[simp] theorem State.setDie_poisoned (s : State) (d : Nat) (v : Die) : (s.setDie d v).poisoned = s.poisoned := rfl
@[simp] theorem State.setDie_cores (s : State) (d : Nat) (v : Die) : (s.setDie d v).cores = s.cores := rfl
@[simp] theorem State.setDie_clusters (s : State) (d : Nat) (v : Die) : (s.setDie d v).clusters = s.clusters := rfl
@[simp] theorem State.setDie_dies (s : State) (d : Nat) (v : Die) : (s.setDie d v).dies = s.dies.set d v := rfl
@[simp] theorem State.setDie_vfs (s : State) (d : Nat) (v : Die) : (s.setDie d v).vfs = s.vfs := rfl
@[simp] theorem State.setDie_blocks (s : State) (d : Nat) (v : Die) : (s.setDie d v).blocks = s.blocks := rfl
@[simp] theorem State.setDie_counters (s : State) (d : Nat) (v : Die) : (s.setDie d v).counters = s.counters := rfl
@[simp] theorem State.setDie_launches (s : State) (d : Nat) (v : Die) : (s.setDie d v).launches = s.launches := rfl
@[simp] theorem State.setDie_graphs (s : State) (d : Nat) (v : Die) : (s.setDie d v).graphs = s.graphs := rfl
@[simp] theorem State.setDie_phases (s : State) (d : Nat) (v : Die) : (s.setDie d v).phases = s.phases := rfl
@[simp] theorem State.setDie_jobs (s : State) (d : Nat) (v : Die) : (s.setDie d v).jobs = s.jobs := rfl
@[simp] theorem State.setDie_due (s : State) (d : Nat) (v : Die) : (s.setDie d v).due = s.due := rfl
@[simp] theorem State.setDie_pend (s : State) (d : Nat) (v : Die) : (s.setDie d v).pend = s.pend := rfl
@[simp] theorem State.setDie_rels (s : State) (d : Nat) (v : Die) : (s.setDie d v).rels = s.rels := rfl
@[simp] theorem State.setDie_oplog (s : State) (d : Nat) (v : Die) : (s.setDie d v).oplog = s.oplog := rfl
@[simp] theorem State.setDie_xq (s : State) (d : Nat) (v : Die) : (s.setDie d v).xq = s.xq := rfl
@[simp] theorem State.setDie_ccols (s : State) (d : Nat) (v : Die) : (s.setDie d v).ccols = s.ccols := rfl
@[simp] theorem State.setDie_windows (s : State) (d : Nat) (v : Die) : (s.setDie d v).windows = s.windows := rfl
@[simp] theorem State.setDie_awaits (s : State) (d : Nat) (v : Die) : (s.setDie d v).awaits = s.awaits := rfl
@[simp] theorem State.setDie_pulls (s : State) (d : Nat) (v : Die) : (s.setDie d v).pulls = s.pulls := rfl
@[simp] theorem State.setDie_reads (s : State) (d : Nat) (v : Die) : (s.setDie d v).reads = s.reads := rfl
@[simp] theorem State.setDie_sent (s : State) (d : Nat) (v : Die) : (s.setDie d v).sent = s.sent := rfl
@[simp] theorem State.setDie_inbox (s : State) (d : Nat) (v : Die) : (s.setDie d v).inbox = s.inbox := rfl
@[simp] theorem State.setDie_outbox (s : State) (d : Nat) (v : Die) : (s.setDie d v).outbox = s.outbox := rfl
@[simp] theorem State.setDie_cut (s : State) (d : Nat) (v : Die) : (s.setDie d v).cut = s.cut := rfl
@[simp] theorem State.setDie_cxl (s : State) (d : Nat) (v : Die) : (s.setDie d v).cxl = s.cxl := rfl
@[simp] theorem State.setDie_monHost (s : State) (d : Nat) (v : Die) : (s.setDie d v).monHost = s.monHost := rfl
@[simp] theorem State.setDie_monM1 (s : State) (d : Nat) (v : Die) : (s.setDie d v).monM1 = s.monM1 := rfl
@[simp] theorem State.setDie_fwBox (s : State) (d : Nat) (v : Die) : (s.setDie d v).fwBox = s.fwBox := rfl
@[simp] theorem State.setDie_injCtl (s : State) (d : Nat) (v : Die) : (s.setDie d v).injCtl = s.injCtl := rfl
@[simp] theorem State.setDie_injSeed (s : State) (d : Nat) (v : Die) : (s.setDie d v).injSeed = s.injSeed := rfl
@[simp] theorem State.setDie_injCount (s : State) (d : Nat) (v : Die) : (s.setDie d v).injCount = s.injCount := rfl
@[simp] theorem State.setDie_injX (s : State) (d : Nat) (v : Die) : (s.setDie d v).injX = s.injX := rfl
@[simp] theorem State.setDie_injY (s : State) (d : Nat) (v : Die) : (s.setDie d v).injY = s.injY := rfl
@[simp] theorem State.setDie_bankSel (s : State) (d : Nat) (v : Die) : (s.setDie d v).bankSel = s.bankSel := rfl
@[simp] theorem State.setDie_bankRun (s : State) (d : Nat) (v : Die) : (s.setDie d v).bankRun = s.bankRun := rfl
@[simp] theorem State.setDie_bootFails (s : State) (d : Nat) (v : Die) : (s.setDie d v).bootFails = s.bootFails := rfl
@[simp] theorem State.setDie_resets (s : State) (d : Nat) (v : Die) : (s.setDie d v).resets = s.resets := rfl
@[simp] theorem State.setDie_ready (s : State) (d : Nat) (v : Die) : (s.setDie d v).ready = s.ready := rfl
@[simp] theorem State.setDie_bringup (s : State) (d : Nat) (v : Die) : (s.setDie d v).bringup = s.bringup := rfl
@[simp] theorem State.setDie_partup (s : State) (d : Nat) (v : Die) : (s.setDie d v).partup = s.partup := rfl
@[simp] theorem State.setDie_tripped (s : State) (d : Nat) (v : Die) : (s.setDie d v).tripped = s.tripped := rfl
@[simp] theorem State.setDie_evlog (s : State) (d : Nat) (v : Die) : (s.setDie d v).evlog = s.evlog := rfl
@[simp] theorem State.setDie_islErr (s : State) (d : Nat) (v : Die) : (s.setDie d v).islErr = s.islErr := rfl
@[simp] theorem State.setDie_islFence (s : State) (d : Nat) (v : Die) : (s.setDie d v).islFence = s.islFence := rfl
@[simp] theorem State.setDie_islThrottle (s : State) (d : Nat) (v : Die) : (s.setDie d v).islThrottle = s.islThrottle := rfl
@[simp] theorem State.setDie_fenceAt (s : State) (d : Nat) (v : Die) : (s.setDie d v).fenceAt = s.fenceAt := rfl
@[simp] theorem State.setDie_fenceIn (s : State) (d : Nat) (v : Die) : (s.setDie d v).fenceIn = s.fenceIn := rfl
@[simp] theorem State.setDie_tsCtl (s : State) (d : Nat) (v : Die) : (s.setDie d v).tsCtl = s.tsCtl := rfl
@[simp] theorem State.setDie_refClk (s : State) (d : Nat) (v : Die) : (s.setDie d v).refClk = s.refClk := rfl
@[simp] theorem State.setDie_avcal (s : State) (d : Nat) (v : Die) : (s.setDie d v).avcal = s.avcal := rfl
@[simp] theorem State.setDie_pkg (s : State) (d : Nat) (v : Die) : (s.setDie d v).pkg = s.pkg := rfl
@[simp] theorem State.setDie_arbiter (s : State) (d : Nat) (v : Die) : (s.setDie d v).arbiter = s.arbiter := rfl
@[simp] theorem State.setDie_issue (s : State) (d : Nat) (v : Die) : (s.setDie d v).issue = s.issue := rfl
@[simp] theorem State.setDie_packets (s : State) (d : Nat) (v : Die) : (s.setDie d v).packets = s.packets := rfl
@[simp] theorem State.setDie_crew (s : State) (d : Nat) (v : Die) : (s.setDie d v).crew = s.crew := rfl
@[simp] theorem State.setDie_pktFaults (s : State) (d : Nat) (v : Die) : (s.setDie d v).pktFaults = s.pktFaults := rfl
@[simp] theorem State.setDie_memo (s : State) (d : Nat) (v : Die) : (s.setDie d v).memo = s.memo := rfl
@[simp] theorem State.setDie_agenda (s : State) (d : Nat) (v : Die) : (s.setDie d v).agenda = s.agenda := rfl
@[simp] theorem State.setDie_free (s : State) (d : Nat) (v : Die) : (s.setDie d v).free = s.free := rfl
@[simp] theorem State.setDie_ids (s : State) (d : Nat) (v : Die) : (s.setDie d v).ids = s.ids := rfl

/-! State.setVf -/
@[simp] theorem State.setVf_tags (s : State) (f : Nat) (v : Vf) : (s.setVf f v).tags = s.tags := rfl
@[simp] theorem State.setVf_poisoned (s : State) (f : Nat) (v : Vf) : (s.setVf f v).poisoned = s.poisoned := rfl
@[simp] theorem State.setVf_cores (s : State) (f : Nat) (v : Vf) : (s.setVf f v).cores = s.cores := rfl
@[simp] theorem State.setVf_clusters (s : State) (f : Nat) (v : Vf) : (s.setVf f v).clusters = s.clusters := rfl
@[simp] theorem State.setVf_dies (s : State) (f : Nat) (v : Vf) : (s.setVf f v).dies = s.dies := rfl
@[simp] theorem State.setVf_vfs (s : State) (f : Nat) (v : Vf) : (s.setVf f v).vfs = s.vfs.set f v := rfl
@[simp] theorem State.setVf_blocks (s : State) (f : Nat) (v : Vf) : (s.setVf f v).blocks = s.blocks := rfl
@[simp] theorem State.setVf_counters (s : State) (f : Nat) (v : Vf) : (s.setVf f v).counters = s.counters := rfl
@[simp] theorem State.setVf_launches (s : State) (f : Nat) (v : Vf) : (s.setVf f v).launches = s.launches := rfl
@[simp] theorem State.setVf_graphs (s : State) (f : Nat) (v : Vf) : (s.setVf f v).graphs = s.graphs := rfl
@[simp] theorem State.setVf_phases (s : State) (f : Nat) (v : Vf) : (s.setVf f v).phases = s.phases := rfl
@[simp] theorem State.setVf_jobs (s : State) (f : Nat) (v : Vf) : (s.setVf f v).jobs = s.jobs := rfl
@[simp] theorem State.setVf_due (s : State) (f : Nat) (v : Vf) : (s.setVf f v).due = s.due := rfl
@[simp] theorem State.setVf_pend (s : State) (f : Nat) (v : Vf) : (s.setVf f v).pend = s.pend := rfl
@[simp] theorem State.setVf_rels (s : State) (f : Nat) (v : Vf) : (s.setVf f v).rels = s.rels := rfl
@[simp] theorem State.setVf_oplog (s : State) (f : Nat) (v : Vf) : (s.setVf f v).oplog = s.oplog := rfl
@[simp] theorem State.setVf_xq (s : State) (f : Nat) (v : Vf) : (s.setVf f v).xq = s.xq := rfl
@[simp] theorem State.setVf_ccols (s : State) (f : Nat) (v : Vf) : (s.setVf f v).ccols = s.ccols := rfl
@[simp] theorem State.setVf_windows (s : State) (f : Nat) (v : Vf) : (s.setVf f v).windows = s.windows := rfl
@[simp] theorem State.setVf_awaits (s : State) (f : Nat) (v : Vf) : (s.setVf f v).awaits = s.awaits := rfl
@[simp] theorem State.setVf_pulls (s : State) (f : Nat) (v : Vf) : (s.setVf f v).pulls = s.pulls := rfl
@[simp] theorem State.setVf_reads (s : State) (f : Nat) (v : Vf) : (s.setVf f v).reads = s.reads := rfl
@[simp] theorem State.setVf_sent (s : State) (f : Nat) (v : Vf) : (s.setVf f v).sent = s.sent := rfl
@[simp] theorem State.setVf_inbox (s : State) (f : Nat) (v : Vf) : (s.setVf f v).inbox = s.inbox := rfl
@[simp] theorem State.setVf_outbox (s : State) (f : Nat) (v : Vf) : (s.setVf f v).outbox = s.outbox := rfl
@[simp] theorem State.setVf_cut (s : State) (f : Nat) (v : Vf) : (s.setVf f v).cut = s.cut := rfl
@[simp] theorem State.setVf_cxl (s : State) (f : Nat) (v : Vf) : (s.setVf f v).cxl = s.cxl := rfl
@[simp] theorem State.setVf_monHost (s : State) (f : Nat) (v : Vf) : (s.setVf f v).monHost = s.monHost := rfl
@[simp] theorem State.setVf_monM1 (s : State) (f : Nat) (v : Vf) : (s.setVf f v).monM1 = s.monM1 := rfl
@[simp] theorem State.setVf_fwBox (s : State) (f : Nat) (v : Vf) : (s.setVf f v).fwBox = s.fwBox := rfl
@[simp] theorem State.setVf_injCtl (s : State) (f : Nat) (v : Vf) : (s.setVf f v).injCtl = s.injCtl := rfl
@[simp] theorem State.setVf_injSeed (s : State) (f : Nat) (v : Vf) : (s.setVf f v).injSeed = s.injSeed := rfl
@[simp] theorem State.setVf_injCount (s : State) (f : Nat) (v : Vf) : (s.setVf f v).injCount = s.injCount := rfl
@[simp] theorem State.setVf_injX (s : State) (f : Nat) (v : Vf) : (s.setVf f v).injX = s.injX := rfl
@[simp] theorem State.setVf_injY (s : State) (f : Nat) (v : Vf) : (s.setVf f v).injY = s.injY := rfl
@[simp] theorem State.setVf_bankSel (s : State) (f : Nat) (v : Vf) : (s.setVf f v).bankSel = s.bankSel := rfl
@[simp] theorem State.setVf_bankRun (s : State) (f : Nat) (v : Vf) : (s.setVf f v).bankRun = s.bankRun := rfl
@[simp] theorem State.setVf_bootFails (s : State) (f : Nat) (v : Vf) : (s.setVf f v).bootFails = s.bootFails := rfl
@[simp] theorem State.setVf_resets (s : State) (f : Nat) (v : Vf) : (s.setVf f v).resets = s.resets := rfl
@[simp] theorem State.setVf_ready (s : State) (f : Nat) (v : Vf) : (s.setVf f v).ready = s.ready := rfl
@[simp] theorem State.setVf_bringup (s : State) (f : Nat) (v : Vf) : (s.setVf f v).bringup = s.bringup := rfl
@[simp] theorem State.setVf_partup (s : State) (f : Nat) (v : Vf) : (s.setVf f v).partup = s.partup := rfl
@[simp] theorem State.setVf_tripped (s : State) (f : Nat) (v : Vf) : (s.setVf f v).tripped = s.tripped := rfl
@[simp] theorem State.setVf_evlog (s : State) (f : Nat) (v : Vf) : (s.setVf f v).evlog = s.evlog := rfl
@[simp] theorem State.setVf_islErr (s : State) (f : Nat) (v : Vf) : (s.setVf f v).islErr = s.islErr := rfl
@[simp] theorem State.setVf_islFence (s : State) (f : Nat) (v : Vf) : (s.setVf f v).islFence = s.islFence := rfl
@[simp] theorem State.setVf_islThrottle (s : State) (f : Nat) (v : Vf) : (s.setVf f v).islThrottle = s.islThrottle := rfl
@[simp] theorem State.setVf_fenceAt (s : State) (f : Nat) (v : Vf) : (s.setVf f v).fenceAt = s.fenceAt := rfl
@[simp] theorem State.setVf_fenceIn (s : State) (f : Nat) (v : Vf) : (s.setVf f v).fenceIn = s.fenceIn := rfl
@[simp] theorem State.setVf_tsCtl (s : State) (f : Nat) (v : Vf) : (s.setVf f v).tsCtl = s.tsCtl := rfl
@[simp] theorem State.setVf_refClk (s : State) (f : Nat) (v : Vf) : (s.setVf f v).refClk = s.refClk := rfl
@[simp] theorem State.setVf_avcal (s : State) (f : Nat) (v : Vf) : (s.setVf f v).avcal = s.avcal := rfl
@[simp] theorem State.setVf_pkg (s : State) (f : Nat) (v : Vf) : (s.setVf f v).pkg = s.pkg := rfl
@[simp] theorem State.setVf_arbiter (s : State) (f : Nat) (v : Vf) : (s.setVf f v).arbiter = s.arbiter := rfl
@[simp] theorem State.setVf_issue (s : State) (f : Nat) (v : Vf) : (s.setVf f v).issue = s.issue := rfl
@[simp] theorem State.setVf_packets (s : State) (f : Nat) (v : Vf) : (s.setVf f v).packets = s.packets := rfl
@[simp] theorem State.setVf_crew (s : State) (f : Nat) (v : Vf) : (s.setVf f v).crew = s.crew := rfl
@[simp] theorem State.setVf_pktFaults (s : State) (f : Nat) (v : Vf) : (s.setVf f v).pktFaults = s.pktFaults := rfl
@[simp] theorem State.setVf_memo (s : State) (f : Nat) (v : Vf) : (s.setVf f v).memo = s.memo := rfl
@[simp] theorem State.setVf_agenda (s : State) (f : Nat) (v : Vf) : (s.setVf f v).agenda = s.agenda := rfl
@[simp] theorem State.setVf_free (s : State) (f : Nat) (v : Vf) : (s.setVf f v).free = s.free := rfl
@[simp] theorem State.setVf_ids (s : State) (f : Nat) (v : Vf) : (s.setVf f v).ids = s.ids := rfl

/-! State.setBlock -/
@[simp] theorem State.setBlock_tags (s : State) (b : Block) : (s.setBlock b).tags = s.tags := rfl
@[simp] theorem State.setBlock_poisoned (s : State) (b : Block) : (s.setBlock b).poisoned = s.poisoned := rfl
@[simp] theorem State.setBlock_cores (s : State) (b : Block) : (s.setBlock b).cores = s.cores := rfl
@[simp] theorem State.setBlock_clusters (s : State) (b : Block) : (s.setBlock b).clusters = s.clusters := rfl
@[simp] theorem State.setBlock_dies (s : State) (b : Block) : (s.setBlock b).dies = s.dies := rfl
@[simp] theorem State.setBlock_vfs (s : State) (b : Block) : (s.setBlock b).vfs = s.vfs := rfl
@[simp] theorem State.setBlock_blocks (s : State) (b : Block) : (s.setBlock b).blocks = s.blocks.map (fun x => if x.bid == b.bid then b else x) := rfl
@[simp] theorem State.setBlock_counters (s : State) (b : Block) : (s.setBlock b).counters = s.counters := rfl
@[simp] theorem State.setBlock_launches (s : State) (b : Block) : (s.setBlock b).launches = s.launches := rfl
@[simp] theorem State.setBlock_graphs (s : State) (b : Block) : (s.setBlock b).graphs = s.graphs := rfl
@[simp] theorem State.setBlock_phases (s : State) (b : Block) : (s.setBlock b).phases = s.phases := rfl
@[simp] theorem State.setBlock_jobs (s : State) (b : Block) : (s.setBlock b).jobs = s.jobs := rfl
@[simp] theorem State.setBlock_due (s : State) (b : Block) : (s.setBlock b).due = s.due := rfl
@[simp] theorem State.setBlock_pend (s : State) (b : Block) : (s.setBlock b).pend = s.pend := rfl
@[simp] theorem State.setBlock_rels (s : State) (b : Block) : (s.setBlock b).rels = s.rels := rfl
@[simp] theorem State.setBlock_oplog (s : State) (b : Block) : (s.setBlock b).oplog = s.oplog := rfl
@[simp] theorem State.setBlock_xq (s : State) (b : Block) : (s.setBlock b).xq = s.xq := rfl
@[simp] theorem State.setBlock_ccols (s : State) (b : Block) : (s.setBlock b).ccols = s.ccols := rfl
@[simp] theorem State.setBlock_windows (s : State) (b : Block) : (s.setBlock b).windows = s.windows := rfl
@[simp] theorem State.setBlock_awaits (s : State) (b : Block) : (s.setBlock b).awaits = s.awaits := rfl
@[simp] theorem State.setBlock_pulls (s : State) (b : Block) : (s.setBlock b).pulls = s.pulls := rfl
@[simp] theorem State.setBlock_reads (s : State) (b : Block) : (s.setBlock b).reads = s.reads := rfl
@[simp] theorem State.setBlock_sent (s : State) (b : Block) : (s.setBlock b).sent = s.sent := rfl
@[simp] theorem State.setBlock_inbox (s : State) (b : Block) : (s.setBlock b).inbox = s.inbox := rfl
@[simp] theorem State.setBlock_outbox (s : State) (b : Block) : (s.setBlock b).outbox = s.outbox := rfl
@[simp] theorem State.setBlock_cut (s : State) (b : Block) : (s.setBlock b).cut = s.cut := rfl
@[simp] theorem State.setBlock_cxl (s : State) (b : Block) : (s.setBlock b).cxl = s.cxl := rfl
@[simp] theorem State.setBlock_monHost (s : State) (b : Block) : (s.setBlock b).monHost = s.monHost := rfl
@[simp] theorem State.setBlock_monM1 (s : State) (b : Block) : (s.setBlock b).monM1 = s.monM1 := rfl
@[simp] theorem State.setBlock_fwBox (s : State) (b : Block) : (s.setBlock b).fwBox = s.fwBox := rfl
@[simp] theorem State.setBlock_injCtl (s : State) (b : Block) : (s.setBlock b).injCtl = s.injCtl := rfl
@[simp] theorem State.setBlock_injSeed (s : State) (b : Block) : (s.setBlock b).injSeed = s.injSeed := rfl
@[simp] theorem State.setBlock_injCount (s : State) (b : Block) : (s.setBlock b).injCount = s.injCount := rfl
@[simp] theorem State.setBlock_injX (s : State) (b : Block) : (s.setBlock b).injX = s.injX := rfl
@[simp] theorem State.setBlock_injY (s : State) (b : Block) : (s.setBlock b).injY = s.injY := rfl
@[simp] theorem State.setBlock_bankSel (s : State) (b : Block) : (s.setBlock b).bankSel = s.bankSel := rfl
@[simp] theorem State.setBlock_bankRun (s : State) (b : Block) : (s.setBlock b).bankRun = s.bankRun := rfl
@[simp] theorem State.setBlock_bootFails (s : State) (b : Block) : (s.setBlock b).bootFails = s.bootFails := rfl
@[simp] theorem State.setBlock_resets (s : State) (b : Block) : (s.setBlock b).resets = s.resets := rfl
@[simp] theorem State.setBlock_ready (s : State) (b : Block) : (s.setBlock b).ready = s.ready := rfl
@[simp] theorem State.setBlock_bringup (s : State) (b : Block) : (s.setBlock b).bringup = s.bringup := rfl
@[simp] theorem State.setBlock_partup (s : State) (b : Block) : (s.setBlock b).partup = s.partup := rfl
@[simp] theorem State.setBlock_tripped (s : State) (b : Block) : (s.setBlock b).tripped = s.tripped := rfl
@[simp] theorem State.setBlock_evlog (s : State) (b : Block) : (s.setBlock b).evlog = s.evlog := rfl
@[simp] theorem State.setBlock_islErr (s : State) (b : Block) : (s.setBlock b).islErr = s.islErr := rfl
@[simp] theorem State.setBlock_islFence (s : State) (b : Block) : (s.setBlock b).islFence = s.islFence := rfl
@[simp] theorem State.setBlock_islThrottle (s : State) (b : Block) : (s.setBlock b).islThrottle = s.islThrottle := rfl
@[simp] theorem State.setBlock_fenceAt (s : State) (b : Block) : (s.setBlock b).fenceAt = s.fenceAt := rfl
@[simp] theorem State.setBlock_fenceIn (s : State) (b : Block) : (s.setBlock b).fenceIn = s.fenceIn := rfl
@[simp] theorem State.setBlock_tsCtl (s : State) (b : Block) : (s.setBlock b).tsCtl = s.tsCtl := rfl
@[simp] theorem State.setBlock_refClk (s : State) (b : Block) : (s.setBlock b).refClk = s.refClk := rfl
@[simp] theorem State.setBlock_avcal (s : State) (b : Block) : (s.setBlock b).avcal = s.avcal := rfl
@[simp] theorem State.setBlock_pkg (s : State) (b : Block) : (s.setBlock b).pkg = s.pkg := rfl
@[simp] theorem State.setBlock_arbiter (s : State) (b : Block) : (s.setBlock b).arbiter = s.arbiter := rfl
@[simp] theorem State.setBlock_issue (s : State) (b : Block) : (s.setBlock b).issue = s.issue := rfl
@[simp] theorem State.setBlock_packets (s : State) (b : Block) : (s.setBlock b).packets = s.packets := rfl
@[simp] theorem State.setBlock_crew (s : State) (b : Block) : (s.setBlock b).crew = s.crew := rfl
@[simp] theorem State.setBlock_pktFaults (s : State) (b : Block) : (s.setBlock b).pktFaults = s.pktFaults := rfl
@[simp] theorem State.setBlock_memo (s : State) (b : Block) : (s.setBlock b).memo = s.memo := rfl
@[simp] theorem State.setBlock_agenda (s : State) (b : Block) : (s.setBlock b).agenda = s.agenda := rfl
@[simp] theorem State.setBlock_free (s : State) (b : Block) : (s.setBlock b).free = s.free := rfl
@[simp] theorem State.setBlock_ids (s : State) (b : Block) : (s.setBlock b).ids = s.ids := rfl

/-! State.modBlock -/
@[simp] theorem State.modBlock_tags (s : State) (n : Nat) (f : Block → Block) : (s.modBlock n f).tags = s.tags := rfl
@[simp] theorem State.modBlock_poisoned (s : State) (n : Nat) (f : Block → Block) : (s.modBlock n f).poisoned = s.poisoned := rfl
@[simp] theorem State.modBlock_cores (s : State) (n : Nat) (f : Block → Block) : (s.modBlock n f).cores = s.cores := rfl
@[simp] theorem State.modBlock_clusters (s : State) (n : Nat) (f : Block → Block) : (s.modBlock n f).clusters = s.clusters := rfl
@[simp] theorem State.modBlock_dies (s : State) (n : Nat) (f : Block → Block) : (s.modBlock n f).dies = s.dies := rfl
@[simp] theorem State.modBlock_vfs (s : State) (n : Nat) (f : Block → Block) : (s.modBlock n f).vfs = s.vfs := rfl
@[simp] theorem State.modBlock_blocks (s : State) (n : Nat) (f : Block → Block) : (s.modBlock n f).blocks = s.blocks.map (fun x => if x.bid == n then f x else x) := rfl
@[simp] theorem State.modBlock_counters (s : State) (n : Nat) (f : Block → Block) : (s.modBlock n f).counters = s.counters := rfl
@[simp] theorem State.modBlock_launches (s : State) (n : Nat) (f : Block → Block) : (s.modBlock n f).launches = s.launches := rfl
@[simp] theorem State.modBlock_graphs (s : State) (n : Nat) (f : Block → Block) : (s.modBlock n f).graphs = s.graphs := rfl
@[simp] theorem State.modBlock_phases (s : State) (n : Nat) (f : Block → Block) : (s.modBlock n f).phases = s.phases := rfl
@[simp] theorem State.modBlock_jobs (s : State) (n : Nat) (f : Block → Block) : (s.modBlock n f).jobs = s.jobs := rfl
@[simp] theorem State.modBlock_due (s : State) (n : Nat) (f : Block → Block) : (s.modBlock n f).due = s.due := rfl
@[simp] theorem State.modBlock_pend (s : State) (n : Nat) (f : Block → Block) : (s.modBlock n f).pend = s.pend := rfl
@[simp] theorem State.modBlock_rels (s : State) (n : Nat) (f : Block → Block) : (s.modBlock n f).rels = s.rels := rfl
@[simp] theorem State.modBlock_oplog (s : State) (n : Nat) (f : Block → Block) : (s.modBlock n f).oplog = s.oplog := rfl
@[simp] theorem State.modBlock_xq (s : State) (n : Nat) (f : Block → Block) : (s.modBlock n f).xq = s.xq := rfl
@[simp] theorem State.modBlock_ccols (s : State) (n : Nat) (f : Block → Block) : (s.modBlock n f).ccols = s.ccols := rfl
@[simp] theorem State.modBlock_windows (s : State) (n : Nat) (f : Block → Block) : (s.modBlock n f).windows = s.windows := rfl
@[simp] theorem State.modBlock_awaits (s : State) (n : Nat) (f : Block → Block) : (s.modBlock n f).awaits = s.awaits := rfl
@[simp] theorem State.modBlock_pulls (s : State) (n : Nat) (f : Block → Block) : (s.modBlock n f).pulls = s.pulls := rfl
@[simp] theorem State.modBlock_reads (s : State) (n : Nat) (f : Block → Block) : (s.modBlock n f).reads = s.reads := rfl
@[simp] theorem State.modBlock_sent (s : State) (n : Nat) (f : Block → Block) : (s.modBlock n f).sent = s.sent := rfl
@[simp] theorem State.modBlock_inbox (s : State) (n : Nat) (f : Block → Block) : (s.modBlock n f).inbox = s.inbox := rfl
@[simp] theorem State.modBlock_outbox (s : State) (n : Nat) (f : Block → Block) : (s.modBlock n f).outbox = s.outbox := rfl
@[simp] theorem State.modBlock_cut (s : State) (n : Nat) (f : Block → Block) : (s.modBlock n f).cut = s.cut := rfl
@[simp] theorem State.modBlock_cxl (s : State) (n : Nat) (f : Block → Block) : (s.modBlock n f).cxl = s.cxl := rfl
@[simp] theorem State.modBlock_monHost (s : State) (n : Nat) (f : Block → Block) : (s.modBlock n f).monHost = s.monHost := rfl
@[simp] theorem State.modBlock_monM1 (s : State) (n : Nat) (f : Block → Block) : (s.modBlock n f).monM1 = s.monM1 := rfl
@[simp] theorem State.modBlock_fwBox (s : State) (n : Nat) (f : Block → Block) : (s.modBlock n f).fwBox = s.fwBox := rfl
@[simp] theorem State.modBlock_injCtl (s : State) (n : Nat) (f : Block → Block) : (s.modBlock n f).injCtl = s.injCtl := rfl
@[simp] theorem State.modBlock_injSeed (s : State) (n : Nat) (f : Block → Block) : (s.modBlock n f).injSeed = s.injSeed := rfl
@[simp] theorem State.modBlock_injCount (s : State) (n : Nat) (f : Block → Block) : (s.modBlock n f).injCount = s.injCount := rfl
@[simp] theorem State.modBlock_injX (s : State) (n : Nat) (f : Block → Block) : (s.modBlock n f).injX = s.injX := rfl
@[simp] theorem State.modBlock_injY (s : State) (n : Nat) (f : Block → Block) : (s.modBlock n f).injY = s.injY := rfl
@[simp] theorem State.modBlock_bankSel (s : State) (n : Nat) (f : Block → Block) : (s.modBlock n f).bankSel = s.bankSel := rfl
@[simp] theorem State.modBlock_bankRun (s : State) (n : Nat) (f : Block → Block) : (s.modBlock n f).bankRun = s.bankRun := rfl
@[simp] theorem State.modBlock_bootFails (s : State) (n : Nat) (f : Block → Block) : (s.modBlock n f).bootFails = s.bootFails := rfl
@[simp] theorem State.modBlock_resets (s : State) (n : Nat) (f : Block → Block) : (s.modBlock n f).resets = s.resets := rfl
@[simp] theorem State.modBlock_ready (s : State) (n : Nat) (f : Block → Block) : (s.modBlock n f).ready = s.ready := rfl
@[simp] theorem State.modBlock_bringup (s : State) (n : Nat) (f : Block → Block) : (s.modBlock n f).bringup = s.bringup := rfl
@[simp] theorem State.modBlock_partup (s : State) (n : Nat) (f : Block → Block) : (s.modBlock n f).partup = s.partup := rfl
@[simp] theorem State.modBlock_tripped (s : State) (n : Nat) (f : Block → Block) : (s.modBlock n f).tripped = s.tripped := rfl
@[simp] theorem State.modBlock_evlog (s : State) (n : Nat) (f : Block → Block) : (s.modBlock n f).evlog = s.evlog := rfl
@[simp] theorem State.modBlock_islErr (s : State) (n : Nat) (f : Block → Block) : (s.modBlock n f).islErr = s.islErr := rfl
@[simp] theorem State.modBlock_islFence (s : State) (n : Nat) (f : Block → Block) : (s.modBlock n f).islFence = s.islFence := rfl
@[simp] theorem State.modBlock_islThrottle (s : State) (n : Nat) (f : Block → Block) : (s.modBlock n f).islThrottle = s.islThrottle := rfl
@[simp] theorem State.modBlock_fenceAt (s : State) (n : Nat) (f : Block → Block) : (s.modBlock n f).fenceAt = s.fenceAt := rfl
@[simp] theorem State.modBlock_fenceIn (s : State) (n : Nat) (f : Block → Block) : (s.modBlock n f).fenceIn = s.fenceIn := rfl
@[simp] theorem State.modBlock_tsCtl (s : State) (n : Nat) (f : Block → Block) : (s.modBlock n f).tsCtl = s.tsCtl := rfl
@[simp] theorem State.modBlock_refClk (s : State) (n : Nat) (f : Block → Block) : (s.modBlock n f).refClk = s.refClk := rfl
@[simp] theorem State.modBlock_avcal (s : State) (n : Nat) (f : Block → Block) : (s.modBlock n f).avcal = s.avcal := rfl
@[simp] theorem State.modBlock_pkg (s : State) (n : Nat) (f : Block → Block) : (s.modBlock n f).pkg = s.pkg := rfl
@[simp] theorem State.modBlock_arbiter (s : State) (n : Nat) (f : Block → Block) : (s.modBlock n f).arbiter = s.arbiter := rfl
@[simp] theorem State.modBlock_issue (s : State) (n : Nat) (f : Block → Block) : (s.modBlock n f).issue = s.issue := rfl
@[simp] theorem State.modBlock_packets (s : State) (n : Nat) (f : Block → Block) : (s.modBlock n f).packets = s.packets := rfl
@[simp] theorem State.modBlock_crew (s : State) (n : Nat) (f : Block → Block) : (s.modBlock n f).crew = s.crew := rfl
@[simp] theorem State.modBlock_pktFaults (s : State) (n : Nat) (f : Block → Block) : (s.modBlock n f).pktFaults = s.pktFaults := rfl
@[simp] theorem State.modBlock_memo (s : State) (n : Nat) (f : Block → Block) : (s.modBlock n f).memo = s.memo := rfl
@[simp] theorem State.modBlock_agenda (s : State) (n : Nat) (f : Block → Block) : (s.modBlock n f).agenda = s.agenda := rfl
@[simp] theorem State.modBlock_free (s : State) (n : Nat) (f : Block → Block) : (s.modBlock n f).free = s.free := rfl
@[simp] theorem State.modBlock_ids (s : State) (n : Nat) (f : Block → Block) : (s.modBlock n f).ids = s.ids := rfl

/-! State.setThread -/
@[simp] theorem State.setThread_tags (s : State) (n i : Nat) (t : Thread) : (s.setThread n i t).tags = s.tags := rfl
@[simp] theorem State.setThread_poisoned (s : State) (n i : Nat) (t : Thread) : (s.setThread n i t).poisoned = s.poisoned := rfl
@[simp] theorem State.setThread_cores (s : State) (n i : Nat) (t : Thread) : (s.setThread n i t).cores = s.cores := rfl
@[simp] theorem State.setThread_clusters (s : State) (n i : Nat) (t : Thread) : (s.setThread n i t).clusters = s.clusters := rfl
@[simp] theorem State.setThread_dies (s : State) (n i : Nat) (t : Thread) : (s.setThread n i t).dies = s.dies := rfl
@[simp] theorem State.setThread_vfs (s : State) (n i : Nat) (t : Thread) : (s.setThread n i t).vfs = s.vfs := rfl
@[simp] theorem State.setThread_blocks (s : State) (n i : Nat) (t : Thread) : (s.setThread n i t).blocks = s.blocks.map (fun x => if x.bid == n then x.setThread i t else x) := rfl
@[simp] theorem State.setThread_counters (s : State) (n i : Nat) (t : Thread) : (s.setThread n i t).counters = s.counters := rfl
@[simp] theorem State.setThread_launches (s : State) (n i : Nat) (t : Thread) : (s.setThread n i t).launches = s.launches := rfl
@[simp] theorem State.setThread_graphs (s : State) (n i : Nat) (t : Thread) : (s.setThread n i t).graphs = s.graphs := rfl
@[simp] theorem State.setThread_phases (s : State) (n i : Nat) (t : Thread) : (s.setThread n i t).phases = s.phases := rfl
@[simp] theorem State.setThread_jobs (s : State) (n i : Nat) (t : Thread) : (s.setThread n i t).jobs = s.jobs := rfl
@[simp] theorem State.setThread_due (s : State) (n i : Nat) (t : Thread) : (s.setThread n i t).due = s.due := rfl
@[simp] theorem State.setThread_pend (s : State) (n i : Nat) (t : Thread) : (s.setThread n i t).pend = s.pend := rfl
@[simp] theorem State.setThread_rels (s : State) (n i : Nat) (t : Thread) : (s.setThread n i t).rels = s.rels := rfl
@[simp] theorem State.setThread_oplog (s : State) (n i : Nat) (t : Thread) : (s.setThread n i t).oplog = s.oplog := rfl
@[simp] theorem State.setThread_xq (s : State) (n i : Nat) (t : Thread) : (s.setThread n i t).xq = s.xq := rfl
@[simp] theorem State.setThread_ccols (s : State) (n i : Nat) (t : Thread) : (s.setThread n i t).ccols = s.ccols := rfl
@[simp] theorem State.setThread_windows (s : State) (n i : Nat) (t : Thread) : (s.setThread n i t).windows = s.windows := rfl
@[simp] theorem State.setThread_awaits (s : State) (n i : Nat) (t : Thread) : (s.setThread n i t).awaits = s.awaits := rfl
@[simp] theorem State.setThread_pulls (s : State) (n i : Nat) (t : Thread) : (s.setThread n i t).pulls = s.pulls := rfl
@[simp] theorem State.setThread_reads (s : State) (n i : Nat) (t : Thread) : (s.setThread n i t).reads = s.reads := rfl
@[simp] theorem State.setThread_sent (s : State) (n i : Nat) (t : Thread) : (s.setThread n i t).sent = s.sent := rfl
@[simp] theorem State.setThread_inbox (s : State) (n i : Nat) (t : Thread) : (s.setThread n i t).inbox = s.inbox := rfl
@[simp] theorem State.setThread_outbox (s : State) (n i : Nat) (t : Thread) : (s.setThread n i t).outbox = s.outbox := rfl
@[simp] theorem State.setThread_cut (s : State) (n i : Nat) (t : Thread) : (s.setThread n i t).cut = s.cut := rfl
@[simp] theorem State.setThread_cxl (s : State) (n i : Nat) (t : Thread) : (s.setThread n i t).cxl = s.cxl := rfl
@[simp] theorem State.setThread_monHost (s : State) (n i : Nat) (t : Thread) : (s.setThread n i t).monHost = s.monHost := rfl
@[simp] theorem State.setThread_monM1 (s : State) (n i : Nat) (t : Thread) : (s.setThread n i t).monM1 = s.monM1 := rfl
@[simp] theorem State.setThread_fwBox (s : State) (n i : Nat) (t : Thread) : (s.setThread n i t).fwBox = s.fwBox := rfl
@[simp] theorem State.setThread_injCtl (s : State) (n i : Nat) (t : Thread) : (s.setThread n i t).injCtl = s.injCtl := rfl
@[simp] theorem State.setThread_injSeed (s : State) (n i : Nat) (t : Thread) : (s.setThread n i t).injSeed = s.injSeed := rfl
@[simp] theorem State.setThread_injCount (s : State) (n i : Nat) (t : Thread) : (s.setThread n i t).injCount = s.injCount := rfl
@[simp] theorem State.setThread_injX (s : State) (n i : Nat) (t : Thread) : (s.setThread n i t).injX = s.injX := rfl
@[simp] theorem State.setThread_injY (s : State) (n i : Nat) (t : Thread) : (s.setThread n i t).injY = s.injY := rfl
@[simp] theorem State.setThread_bankSel (s : State) (n i : Nat) (t : Thread) : (s.setThread n i t).bankSel = s.bankSel := rfl
@[simp] theorem State.setThread_bankRun (s : State) (n i : Nat) (t : Thread) : (s.setThread n i t).bankRun = s.bankRun := rfl
@[simp] theorem State.setThread_bootFails (s : State) (n i : Nat) (t : Thread) : (s.setThread n i t).bootFails = s.bootFails := rfl
@[simp] theorem State.setThread_resets (s : State) (n i : Nat) (t : Thread) : (s.setThread n i t).resets = s.resets := rfl
@[simp] theorem State.setThread_ready (s : State) (n i : Nat) (t : Thread) : (s.setThread n i t).ready = s.ready := rfl
@[simp] theorem State.setThread_bringup (s : State) (n i : Nat) (t : Thread) : (s.setThread n i t).bringup = s.bringup := rfl
@[simp] theorem State.setThread_partup (s : State) (n i : Nat) (t : Thread) : (s.setThread n i t).partup = s.partup := rfl
@[simp] theorem State.setThread_tripped (s : State) (n i : Nat) (t : Thread) : (s.setThread n i t).tripped = s.tripped := rfl
@[simp] theorem State.setThread_evlog (s : State) (n i : Nat) (t : Thread) : (s.setThread n i t).evlog = s.evlog := rfl
@[simp] theorem State.setThread_islErr (s : State) (n i : Nat) (t : Thread) : (s.setThread n i t).islErr = s.islErr := rfl
@[simp] theorem State.setThread_islFence (s : State) (n i : Nat) (t : Thread) : (s.setThread n i t).islFence = s.islFence := rfl
@[simp] theorem State.setThread_islThrottle (s : State) (n i : Nat) (t : Thread) : (s.setThread n i t).islThrottle = s.islThrottle := rfl
@[simp] theorem State.setThread_fenceAt (s : State) (n i : Nat) (t : Thread) : (s.setThread n i t).fenceAt = s.fenceAt := rfl
@[simp] theorem State.setThread_fenceIn (s : State) (n i : Nat) (t : Thread) : (s.setThread n i t).fenceIn = s.fenceIn := rfl
@[simp] theorem State.setThread_tsCtl (s : State) (n i : Nat) (t : Thread) : (s.setThread n i t).tsCtl = s.tsCtl := rfl
@[simp] theorem State.setThread_refClk (s : State) (n i : Nat) (t : Thread) : (s.setThread n i t).refClk = s.refClk := rfl
@[simp] theorem State.setThread_avcal (s : State) (n i : Nat) (t : Thread) : (s.setThread n i t).avcal = s.avcal := rfl
@[simp] theorem State.setThread_pkg (s : State) (n i : Nat) (t : Thread) : (s.setThread n i t).pkg = s.pkg := rfl
@[simp] theorem State.setThread_arbiter (s : State) (n i : Nat) (t : Thread) : (s.setThread n i t).arbiter = s.arbiter := rfl
@[simp] theorem State.setThread_issue (s : State) (n i : Nat) (t : Thread) : (s.setThread n i t).issue = s.issue := rfl
@[simp] theorem State.setThread_packets (s : State) (n i : Nat) (t : Thread) : (s.setThread n i t).packets = s.packets := rfl
@[simp] theorem State.setThread_crew (s : State) (n i : Nat) (t : Thread) : (s.setThread n i t).crew = s.crew := rfl
@[simp] theorem State.setThread_pktFaults (s : State) (n i : Nat) (t : Thread) : (s.setThread n i t).pktFaults = s.pktFaults := rfl
@[simp] theorem State.setThread_memo (s : State) (n i : Nat) (t : Thread) : (s.setThread n i t).memo = s.memo := rfl
@[simp] theorem State.setThread_agenda (s : State) (n i : Nat) (t : Thread) : (s.setThread n i t).agenda = s.agenda := rfl
@[simp] theorem State.setThread_free (s : State) (n i : Nat) (t : Thread) : (s.setThread n i t).free = s.free := rfl
@[simp] theorem State.setThread_ids (s : State) (n i : Nat) (t : Thread) : (s.setThread n i t).ids = s.ids := rfl

/-! State.modThread -/
@[simp] theorem State.modThread_tags (s : State) (n i : Nat) (f : Thread → Thread) : (s.modThread n i f).tags = s.tags := rfl
@[simp] theorem State.modThread_poisoned (s : State) (n i : Nat) (f : Thread → Thread) : (s.modThread n i f).poisoned = s.poisoned := rfl
@[simp] theorem State.modThread_cores (s : State) (n i : Nat) (f : Thread → Thread) : (s.modThread n i f).cores = s.cores := rfl
@[simp] theorem State.modThread_clusters (s : State) (n i : Nat) (f : Thread → Thread) : (s.modThread n i f).clusters = s.clusters := rfl
@[simp] theorem State.modThread_dies (s : State) (n i : Nat) (f : Thread → Thread) : (s.modThread n i f).dies = s.dies := rfl
@[simp] theorem State.modThread_vfs (s : State) (n i : Nat) (f : Thread → Thread) : (s.modThread n i f).vfs = s.vfs := rfl
@[simp] theorem State.modThread_blocks (s : State) (n i : Nat) (f : Thread → Thread) : (s.modThread n i f).blocks = s.blocks.map (fun x => if x.bid == n then x.modThread i f else x) := rfl
@[simp] theorem State.modThread_counters (s : State) (n i : Nat) (f : Thread → Thread) : (s.modThread n i f).counters = s.counters := rfl
@[simp] theorem State.modThread_launches (s : State) (n i : Nat) (f : Thread → Thread) : (s.modThread n i f).launches = s.launches := rfl
@[simp] theorem State.modThread_graphs (s : State) (n i : Nat) (f : Thread → Thread) : (s.modThread n i f).graphs = s.graphs := rfl
@[simp] theorem State.modThread_phases (s : State) (n i : Nat) (f : Thread → Thread) : (s.modThread n i f).phases = s.phases := rfl
@[simp] theorem State.modThread_jobs (s : State) (n i : Nat) (f : Thread → Thread) : (s.modThread n i f).jobs = s.jobs := rfl
@[simp] theorem State.modThread_due (s : State) (n i : Nat) (f : Thread → Thread) : (s.modThread n i f).due = s.due := rfl
@[simp] theorem State.modThread_pend (s : State) (n i : Nat) (f : Thread → Thread) : (s.modThread n i f).pend = s.pend := rfl
@[simp] theorem State.modThread_rels (s : State) (n i : Nat) (f : Thread → Thread) : (s.modThread n i f).rels = s.rels := rfl
@[simp] theorem State.modThread_oplog (s : State) (n i : Nat) (f : Thread → Thread) : (s.modThread n i f).oplog = s.oplog := rfl
@[simp] theorem State.modThread_xq (s : State) (n i : Nat) (f : Thread → Thread) : (s.modThread n i f).xq = s.xq := rfl
@[simp] theorem State.modThread_ccols (s : State) (n i : Nat) (f : Thread → Thread) : (s.modThread n i f).ccols = s.ccols := rfl
@[simp] theorem State.modThread_windows (s : State) (n i : Nat) (f : Thread → Thread) : (s.modThread n i f).windows = s.windows := rfl
@[simp] theorem State.modThread_awaits (s : State) (n i : Nat) (f : Thread → Thread) : (s.modThread n i f).awaits = s.awaits := rfl
@[simp] theorem State.modThread_pulls (s : State) (n i : Nat) (f : Thread → Thread) : (s.modThread n i f).pulls = s.pulls := rfl
@[simp] theorem State.modThread_reads (s : State) (n i : Nat) (f : Thread → Thread) : (s.modThread n i f).reads = s.reads := rfl
@[simp] theorem State.modThread_sent (s : State) (n i : Nat) (f : Thread → Thread) : (s.modThread n i f).sent = s.sent := rfl
@[simp] theorem State.modThread_inbox (s : State) (n i : Nat) (f : Thread → Thread) : (s.modThread n i f).inbox = s.inbox := rfl
@[simp] theorem State.modThread_outbox (s : State) (n i : Nat) (f : Thread → Thread) : (s.modThread n i f).outbox = s.outbox := rfl
@[simp] theorem State.modThread_cut (s : State) (n i : Nat) (f : Thread → Thread) : (s.modThread n i f).cut = s.cut := rfl
@[simp] theorem State.modThread_cxl (s : State) (n i : Nat) (f : Thread → Thread) : (s.modThread n i f).cxl = s.cxl := rfl
@[simp] theorem State.modThread_monHost (s : State) (n i : Nat) (f : Thread → Thread) : (s.modThread n i f).monHost = s.monHost := rfl
@[simp] theorem State.modThread_monM1 (s : State) (n i : Nat) (f : Thread → Thread) : (s.modThread n i f).monM1 = s.monM1 := rfl
@[simp] theorem State.modThread_fwBox (s : State) (n i : Nat) (f : Thread → Thread) : (s.modThread n i f).fwBox = s.fwBox := rfl
@[simp] theorem State.modThread_injCtl (s : State) (n i : Nat) (f : Thread → Thread) : (s.modThread n i f).injCtl = s.injCtl := rfl
@[simp] theorem State.modThread_injSeed (s : State) (n i : Nat) (f : Thread → Thread) : (s.modThread n i f).injSeed = s.injSeed := rfl
@[simp] theorem State.modThread_injCount (s : State) (n i : Nat) (f : Thread → Thread) : (s.modThread n i f).injCount = s.injCount := rfl
@[simp] theorem State.modThread_injX (s : State) (n i : Nat) (f : Thread → Thread) : (s.modThread n i f).injX = s.injX := rfl
@[simp] theorem State.modThread_injY (s : State) (n i : Nat) (f : Thread → Thread) : (s.modThread n i f).injY = s.injY := rfl
@[simp] theorem State.modThread_bankSel (s : State) (n i : Nat) (f : Thread → Thread) : (s.modThread n i f).bankSel = s.bankSel := rfl
@[simp] theorem State.modThread_bankRun (s : State) (n i : Nat) (f : Thread → Thread) : (s.modThread n i f).bankRun = s.bankRun := rfl
@[simp] theorem State.modThread_bootFails (s : State) (n i : Nat) (f : Thread → Thread) : (s.modThread n i f).bootFails = s.bootFails := rfl
@[simp] theorem State.modThread_resets (s : State) (n i : Nat) (f : Thread → Thread) : (s.modThread n i f).resets = s.resets := rfl
@[simp] theorem State.modThread_ready (s : State) (n i : Nat) (f : Thread → Thread) : (s.modThread n i f).ready = s.ready := rfl
@[simp] theorem State.modThread_bringup (s : State) (n i : Nat) (f : Thread → Thread) : (s.modThread n i f).bringup = s.bringup := rfl
@[simp] theorem State.modThread_partup (s : State) (n i : Nat) (f : Thread → Thread) : (s.modThread n i f).partup = s.partup := rfl
@[simp] theorem State.modThread_tripped (s : State) (n i : Nat) (f : Thread → Thread) : (s.modThread n i f).tripped = s.tripped := rfl
@[simp] theorem State.modThread_evlog (s : State) (n i : Nat) (f : Thread → Thread) : (s.modThread n i f).evlog = s.evlog := rfl
@[simp] theorem State.modThread_islErr (s : State) (n i : Nat) (f : Thread → Thread) : (s.modThread n i f).islErr = s.islErr := rfl
@[simp] theorem State.modThread_islFence (s : State) (n i : Nat) (f : Thread → Thread) : (s.modThread n i f).islFence = s.islFence := rfl
@[simp] theorem State.modThread_islThrottle (s : State) (n i : Nat) (f : Thread → Thread) : (s.modThread n i f).islThrottle = s.islThrottle := rfl
@[simp] theorem State.modThread_fenceAt (s : State) (n i : Nat) (f : Thread → Thread) : (s.modThread n i f).fenceAt = s.fenceAt := rfl
@[simp] theorem State.modThread_fenceIn (s : State) (n i : Nat) (f : Thread → Thread) : (s.modThread n i f).fenceIn = s.fenceIn := rfl
@[simp] theorem State.modThread_tsCtl (s : State) (n i : Nat) (f : Thread → Thread) : (s.modThread n i f).tsCtl = s.tsCtl := rfl
@[simp] theorem State.modThread_refClk (s : State) (n i : Nat) (f : Thread → Thread) : (s.modThread n i f).refClk = s.refClk := rfl
@[simp] theorem State.modThread_avcal (s : State) (n i : Nat) (f : Thread → Thread) : (s.modThread n i f).avcal = s.avcal := rfl
@[simp] theorem State.modThread_pkg (s : State) (n i : Nat) (f : Thread → Thread) : (s.modThread n i f).pkg = s.pkg := rfl
@[simp] theorem State.modThread_arbiter (s : State) (n i : Nat) (f : Thread → Thread) : (s.modThread n i f).arbiter = s.arbiter := rfl
@[simp] theorem State.modThread_issue (s : State) (n i : Nat) (f : Thread → Thread) : (s.modThread n i f).issue = s.issue := rfl
@[simp] theorem State.modThread_packets (s : State) (n i : Nat) (f : Thread → Thread) : (s.modThread n i f).packets = s.packets := rfl
@[simp] theorem State.modThread_crew (s : State) (n i : Nat) (f : Thread → Thread) : (s.modThread n i f).crew = s.crew := rfl
@[simp] theorem State.modThread_pktFaults (s : State) (n i : Nat) (f : Thread → Thread) : (s.modThread n i f).pktFaults = s.pktFaults := rfl
@[simp] theorem State.modThread_memo (s : State) (n i : Nat) (f : Thread → Thread) : (s.modThread n i f).memo = s.memo := rfl
@[simp] theorem State.modThread_agenda (s : State) (n i : Nat) (f : Thread → Thread) : (s.modThread n i f).agenda = s.agenda := rfl
@[simp] theorem State.modThread_free (s : State) (n i : Nat) (f : Thread → Thread) : (s.modThread n i f).free = s.free := rfl
@[simp] theorem State.modThread_ids (s : State) (n i : Nat) (f : Thread → Thread) : (s.modThread n i f).ids = s.ids := rfl

/-! State.setTag -/
@[simp] theorem State.setTag_poisoned (s : State) (p : Nat) (a : Bool) : (s.setTag p a).poisoned = s.poisoned := rfl
@[simp] theorem State.setTag_cores (s : State) (p : Nat) (a : Bool) : (s.setTag p a).cores = s.cores := rfl
@[simp] theorem State.setTag_clusters (s : State) (p : Nat) (a : Bool) : (s.setTag p a).clusters = s.clusters := rfl
@[simp] theorem State.setTag_dies (s : State) (p : Nat) (a : Bool) : (s.setTag p a).dies = s.dies := rfl
@[simp] theorem State.setTag_vfs (s : State) (p : Nat) (a : Bool) : (s.setTag p a).vfs = s.vfs := rfl
@[simp] theorem State.setTag_blocks (s : State) (p : Nat) (a : Bool) : (s.setTag p a).blocks = s.blocks := rfl
@[simp] theorem State.setTag_counters (s : State) (p : Nat) (a : Bool) : (s.setTag p a).counters = s.counters := rfl
@[simp] theorem State.setTag_launches (s : State) (p : Nat) (a : Bool) : (s.setTag p a).launches = s.launches := rfl
@[simp] theorem State.setTag_graphs (s : State) (p : Nat) (a : Bool) : (s.setTag p a).graphs = s.graphs := rfl
@[simp] theorem State.setTag_phases (s : State) (p : Nat) (a : Bool) : (s.setTag p a).phases = s.phases := rfl
@[simp] theorem State.setTag_jobs (s : State) (p : Nat) (a : Bool) : (s.setTag p a).jobs = s.jobs := rfl
@[simp] theorem State.setTag_due (s : State) (p : Nat) (a : Bool) : (s.setTag p a).due = s.due := rfl
@[simp] theorem State.setTag_pend (s : State) (p : Nat) (a : Bool) : (s.setTag p a).pend = s.pend := rfl
@[simp] theorem State.setTag_rels (s : State) (p : Nat) (a : Bool) : (s.setTag p a).rels = s.rels := rfl
@[simp] theorem State.setTag_oplog (s : State) (p : Nat) (a : Bool) : (s.setTag p a).oplog = s.oplog := rfl
@[simp] theorem State.setTag_xq (s : State) (p : Nat) (a : Bool) : (s.setTag p a).xq = s.xq := rfl
@[simp] theorem State.setTag_ccols (s : State) (p : Nat) (a : Bool) : (s.setTag p a).ccols = s.ccols := rfl
@[simp] theorem State.setTag_windows (s : State) (p : Nat) (a : Bool) : (s.setTag p a).windows = s.windows := rfl
@[simp] theorem State.setTag_awaits (s : State) (p : Nat) (a : Bool) : (s.setTag p a).awaits = s.awaits := rfl
@[simp] theorem State.setTag_pulls (s : State) (p : Nat) (a : Bool) : (s.setTag p a).pulls = s.pulls := rfl
@[simp] theorem State.setTag_reads (s : State) (p : Nat) (a : Bool) : (s.setTag p a).reads = s.reads := rfl
@[simp] theorem State.setTag_sent (s : State) (p : Nat) (a : Bool) : (s.setTag p a).sent = s.sent := rfl
@[simp] theorem State.setTag_inbox (s : State) (p : Nat) (a : Bool) : (s.setTag p a).inbox = s.inbox := rfl
@[simp] theorem State.setTag_outbox (s : State) (p : Nat) (a : Bool) : (s.setTag p a).outbox = s.outbox := rfl
@[simp] theorem State.setTag_cut (s : State) (p : Nat) (a : Bool) : (s.setTag p a).cut = s.cut := rfl
@[simp] theorem State.setTag_cxl (s : State) (p : Nat) (a : Bool) : (s.setTag p a).cxl = s.cxl := rfl
@[simp] theorem State.setTag_monHost (s : State) (p : Nat) (a : Bool) : (s.setTag p a).monHost = s.monHost := rfl
@[simp] theorem State.setTag_monM1 (s : State) (p : Nat) (a : Bool) : (s.setTag p a).monM1 = s.monM1 := rfl
@[simp] theorem State.setTag_fwBox (s : State) (p : Nat) (a : Bool) : (s.setTag p a).fwBox = s.fwBox := rfl
@[simp] theorem State.setTag_injCtl (s : State) (p : Nat) (a : Bool) : (s.setTag p a).injCtl = s.injCtl := rfl
@[simp] theorem State.setTag_injSeed (s : State) (p : Nat) (a : Bool) : (s.setTag p a).injSeed = s.injSeed := rfl
@[simp] theorem State.setTag_injCount (s : State) (p : Nat) (a : Bool) : (s.setTag p a).injCount = s.injCount := rfl
@[simp] theorem State.setTag_injX (s : State) (p : Nat) (a : Bool) : (s.setTag p a).injX = s.injX := rfl
@[simp] theorem State.setTag_injY (s : State) (p : Nat) (a : Bool) : (s.setTag p a).injY = s.injY := rfl
@[simp] theorem State.setTag_bankSel (s : State) (p : Nat) (a : Bool) : (s.setTag p a).bankSel = s.bankSel := rfl
@[simp] theorem State.setTag_bankRun (s : State) (p : Nat) (a : Bool) : (s.setTag p a).bankRun = s.bankRun := rfl
@[simp] theorem State.setTag_bootFails (s : State) (p : Nat) (a : Bool) : (s.setTag p a).bootFails = s.bootFails := rfl
@[simp] theorem State.setTag_resets (s : State) (p : Nat) (a : Bool) : (s.setTag p a).resets = s.resets := rfl
@[simp] theorem State.setTag_ready (s : State) (p : Nat) (a : Bool) : (s.setTag p a).ready = s.ready := rfl
@[simp] theorem State.setTag_bringup (s : State) (p : Nat) (a : Bool) : (s.setTag p a).bringup = s.bringup := rfl
@[simp] theorem State.setTag_partup (s : State) (p : Nat) (a : Bool) : (s.setTag p a).partup = s.partup := rfl
@[simp] theorem State.setTag_tripped (s : State) (p : Nat) (a : Bool) : (s.setTag p a).tripped = s.tripped := rfl
@[simp] theorem State.setTag_evlog (s : State) (p : Nat) (a : Bool) : (s.setTag p a).evlog = s.evlog := rfl
@[simp] theorem State.setTag_islErr (s : State) (p : Nat) (a : Bool) : (s.setTag p a).islErr = s.islErr := rfl
@[simp] theorem State.setTag_islFence (s : State) (p : Nat) (a : Bool) : (s.setTag p a).islFence = s.islFence := rfl
@[simp] theorem State.setTag_islThrottle (s : State) (p : Nat) (a : Bool) : (s.setTag p a).islThrottle = s.islThrottle := rfl
@[simp] theorem State.setTag_fenceAt (s : State) (p : Nat) (a : Bool) : (s.setTag p a).fenceAt = s.fenceAt := rfl
@[simp] theorem State.setTag_fenceIn (s : State) (p : Nat) (a : Bool) : (s.setTag p a).fenceIn = s.fenceIn := rfl
@[simp] theorem State.setTag_tsCtl (s : State) (p : Nat) (a : Bool) : (s.setTag p a).tsCtl = s.tsCtl := rfl
@[simp] theorem State.setTag_refClk (s : State) (p : Nat) (a : Bool) : (s.setTag p a).refClk = s.refClk := rfl
@[simp] theorem State.setTag_avcal (s : State) (p : Nat) (a : Bool) : (s.setTag p a).avcal = s.avcal := rfl
@[simp] theorem State.setTag_pkg (s : State) (p : Nat) (a : Bool) : (s.setTag p a).pkg = s.pkg := rfl
@[simp] theorem State.setTag_arbiter (s : State) (p : Nat) (a : Bool) : (s.setTag p a).arbiter = s.arbiter := rfl
@[simp] theorem State.setTag_issue (s : State) (p : Nat) (a : Bool) : (s.setTag p a).issue = s.issue := rfl
@[simp] theorem State.setTag_packets (s : State) (p : Nat) (a : Bool) : (s.setTag p a).packets = s.packets := rfl
@[simp] theorem State.setTag_crew (s : State) (p : Nat) (a : Bool) : (s.setTag p a).crew = s.crew := rfl
@[simp] theorem State.setTag_pktFaults (s : State) (p : Nat) (a : Bool) : (s.setTag p a).pktFaults = s.pktFaults := rfl
@[simp] theorem State.setTag_memo (s : State) (p : Nat) (a : Bool) : (s.setTag p a).memo = s.memo := rfl
@[simp] theorem State.setTag_agenda (s : State) (p : Nat) (a : Bool) : (s.setTag p a).agenda = s.agenda := rfl
@[simp] theorem State.setTag_free (s : State) (p : Nat) (a : Bool) : (s.setTag p a).free = s.free := rfl
@[simp] theorem State.setTag_ids (s : State) (p : Nat) (a : Bool) : (s.setTag p a).ids = s.ids := rfl

/-! State.writeMem -/
@[simp] theorem State.writeMem_mem (s : State) (a : Nat) (bs : List Byte) : (s.writeMem a bs).mem = writeBytes s.mem a bs := rfl
@[simp] theorem State.writeMem_tags (s : State) (a : Nat) (bs : List Byte) : (s.writeMem a bs).tags = s.tags := rfl
@[simp] theorem State.writeMem_poisoned (s : State) (a : Nat) (bs : List Byte) : (s.writeMem a bs).poisoned = s.poisoned := rfl
@[simp] theorem State.writeMem_cores (s : State) (a : Nat) (bs : List Byte) : (s.writeMem a bs).cores = s.cores := rfl
@[simp] theorem State.writeMem_clusters (s : State) (a : Nat) (bs : List Byte) : (s.writeMem a bs).clusters = s.clusters := rfl
@[simp] theorem State.writeMem_dies (s : State) (a : Nat) (bs : List Byte) : (s.writeMem a bs).dies = s.dies := rfl
@[simp] theorem State.writeMem_vfs (s : State) (a : Nat) (bs : List Byte) : (s.writeMem a bs).vfs = s.vfs := rfl
@[simp] theorem State.writeMem_blocks (s : State) (a : Nat) (bs : List Byte) : (s.writeMem a bs).blocks = s.blocks := rfl
@[simp] theorem State.writeMem_counters (s : State) (a : Nat) (bs : List Byte) : (s.writeMem a bs).counters = s.counters := rfl
@[simp] theorem State.writeMem_launches (s : State) (a : Nat) (bs : List Byte) : (s.writeMem a bs).launches = s.launches := rfl
@[simp] theorem State.writeMem_graphs (s : State) (a : Nat) (bs : List Byte) : (s.writeMem a bs).graphs = s.graphs := rfl
@[simp] theorem State.writeMem_phases (s : State) (a : Nat) (bs : List Byte) : (s.writeMem a bs).phases = s.phases := rfl
@[simp] theorem State.writeMem_jobs (s : State) (a : Nat) (bs : List Byte) : (s.writeMem a bs).jobs = s.jobs := rfl
@[simp] theorem State.writeMem_due (s : State) (a : Nat) (bs : List Byte) : (s.writeMem a bs).due = s.due := rfl
@[simp] theorem State.writeMem_pend (s : State) (a : Nat) (bs : List Byte) : (s.writeMem a bs).pend = s.pend := rfl
@[simp] theorem State.writeMem_rels (s : State) (a : Nat) (bs : List Byte) : (s.writeMem a bs).rels = s.rels := rfl
@[simp] theorem State.writeMem_oplog (s : State) (a : Nat) (bs : List Byte) : (s.writeMem a bs).oplog = s.oplog := rfl
@[simp] theorem State.writeMem_xq (s : State) (a : Nat) (bs : List Byte) : (s.writeMem a bs).xq = s.xq := rfl
@[simp] theorem State.writeMem_ccols (s : State) (a : Nat) (bs : List Byte) : (s.writeMem a bs).ccols = s.ccols := rfl
@[simp] theorem State.writeMem_windows (s : State) (a : Nat) (bs : List Byte) : (s.writeMem a bs).windows = s.windows := rfl
@[simp] theorem State.writeMem_awaits (s : State) (a : Nat) (bs : List Byte) : (s.writeMem a bs).awaits = s.awaits := rfl
@[simp] theorem State.writeMem_pulls (s : State) (a : Nat) (bs : List Byte) : (s.writeMem a bs).pulls = s.pulls := rfl
@[simp] theorem State.writeMem_reads (s : State) (a : Nat) (bs : List Byte) : (s.writeMem a bs).reads = s.reads := rfl
@[simp] theorem State.writeMem_sent (s : State) (a : Nat) (bs : List Byte) : (s.writeMem a bs).sent = s.sent := rfl
@[simp] theorem State.writeMem_inbox (s : State) (a : Nat) (bs : List Byte) : (s.writeMem a bs).inbox = s.inbox := rfl
@[simp] theorem State.writeMem_outbox (s : State) (a : Nat) (bs : List Byte) : (s.writeMem a bs).outbox = s.outbox := rfl
@[simp] theorem State.writeMem_cut (s : State) (a : Nat) (bs : List Byte) : (s.writeMem a bs).cut = s.cut := rfl
@[simp] theorem State.writeMem_cxl (s : State) (a : Nat) (bs : List Byte) : (s.writeMem a bs).cxl = s.cxl := rfl
@[simp] theorem State.writeMem_monHost (s : State) (a : Nat) (bs : List Byte) : (s.writeMem a bs).monHost = s.monHost := rfl
@[simp] theorem State.writeMem_monM1 (s : State) (a : Nat) (bs : List Byte) : (s.writeMem a bs).monM1 = s.monM1 := rfl
@[simp] theorem State.writeMem_fwBox (s : State) (a : Nat) (bs : List Byte) : (s.writeMem a bs).fwBox = s.fwBox := rfl
@[simp] theorem State.writeMem_injCtl (s : State) (a : Nat) (bs : List Byte) : (s.writeMem a bs).injCtl = s.injCtl := rfl
@[simp] theorem State.writeMem_injSeed (s : State) (a : Nat) (bs : List Byte) : (s.writeMem a bs).injSeed = s.injSeed := rfl
@[simp] theorem State.writeMem_injCount (s : State) (a : Nat) (bs : List Byte) : (s.writeMem a bs).injCount = s.injCount := rfl
@[simp] theorem State.writeMem_injX (s : State) (a : Nat) (bs : List Byte) : (s.writeMem a bs).injX = s.injX := rfl
@[simp] theorem State.writeMem_injY (s : State) (a : Nat) (bs : List Byte) : (s.writeMem a bs).injY = s.injY := rfl
@[simp] theorem State.writeMem_bankSel (s : State) (a : Nat) (bs : List Byte) : (s.writeMem a bs).bankSel = s.bankSel := rfl
@[simp] theorem State.writeMem_bankRun (s : State) (a : Nat) (bs : List Byte) : (s.writeMem a bs).bankRun = s.bankRun := rfl
@[simp] theorem State.writeMem_bootFails (s : State) (a : Nat) (bs : List Byte) : (s.writeMem a bs).bootFails = s.bootFails := rfl
@[simp] theorem State.writeMem_resets (s : State) (a : Nat) (bs : List Byte) : (s.writeMem a bs).resets = s.resets := rfl
@[simp] theorem State.writeMem_ready (s : State) (a : Nat) (bs : List Byte) : (s.writeMem a bs).ready = s.ready := rfl
@[simp] theorem State.writeMem_bringup (s : State) (a : Nat) (bs : List Byte) : (s.writeMem a bs).bringup = s.bringup := rfl
@[simp] theorem State.writeMem_partup (s : State) (a : Nat) (bs : List Byte) : (s.writeMem a bs).partup = s.partup := rfl
@[simp] theorem State.writeMem_tripped (s : State) (a : Nat) (bs : List Byte) : (s.writeMem a bs).tripped = s.tripped := rfl
@[simp] theorem State.writeMem_evlog (s : State) (a : Nat) (bs : List Byte) : (s.writeMem a bs).evlog = s.evlog := rfl
@[simp] theorem State.writeMem_islErr (s : State) (a : Nat) (bs : List Byte) : (s.writeMem a bs).islErr = s.islErr := rfl
@[simp] theorem State.writeMem_islFence (s : State) (a : Nat) (bs : List Byte) : (s.writeMem a bs).islFence = s.islFence := rfl
@[simp] theorem State.writeMem_islThrottle (s : State) (a : Nat) (bs : List Byte) : (s.writeMem a bs).islThrottle = s.islThrottle := rfl
@[simp] theorem State.writeMem_fenceAt (s : State) (a : Nat) (bs : List Byte) : (s.writeMem a bs).fenceAt = s.fenceAt := rfl
@[simp] theorem State.writeMem_fenceIn (s : State) (a : Nat) (bs : List Byte) : (s.writeMem a bs).fenceIn = s.fenceIn := rfl
@[simp] theorem State.writeMem_tsCtl (s : State) (a : Nat) (bs : List Byte) : (s.writeMem a bs).tsCtl = s.tsCtl := rfl
@[simp] theorem State.writeMem_refClk (s : State) (a : Nat) (bs : List Byte) : (s.writeMem a bs).refClk = s.refClk := rfl
@[simp] theorem State.writeMem_avcal (s : State) (a : Nat) (bs : List Byte) : (s.writeMem a bs).avcal = s.avcal := rfl
@[simp] theorem State.writeMem_pkg (s : State) (a : Nat) (bs : List Byte) : (s.writeMem a bs).pkg = s.pkg := rfl
@[simp] theorem State.writeMem_arbiter (s : State) (a : Nat) (bs : List Byte) : (s.writeMem a bs).arbiter = s.arbiter := rfl
@[simp] theorem State.writeMem_issue (s : State) (a : Nat) (bs : List Byte) : (s.writeMem a bs).issue = s.issue := rfl
@[simp] theorem State.writeMem_packets (s : State) (a : Nat) (bs : List Byte) : (s.writeMem a bs).packets = s.packets := rfl
@[simp] theorem State.writeMem_crew (s : State) (a : Nat) (bs : List Byte) : (s.writeMem a bs).crew = s.crew := rfl
@[simp] theorem State.writeMem_pktFaults (s : State) (a : Nat) (bs : List Byte) : (s.writeMem a bs).pktFaults = s.pktFaults := rfl
@[simp] theorem State.writeMem_memo (s : State) (a : Nat) (bs : List Byte) : (s.writeMem a bs).memo = s.memo := rfl
@[simp] theorem State.writeMem_agenda (s : State) (a : Nat) (bs : List Byte) : (s.writeMem a bs).agenda = s.agenda := rfl
@[simp] theorem State.writeMem_free (s : State) (a : Nat) (bs : List Byte) : (s.writeMem a bs).free = s.free := rfl
@[simp] theorem State.writeMem_ids (s : State) (a : Nat) (bs : List Byte) : (s.writeMem a bs).ids = s.ids := rfl

/-! State.coin -/
@[simp] theorem State.coin_tags (s : State) : (s.coin.2).tags = s.tags := rfl
@[simp] theorem State.coin_poisoned (s : State) : (s.coin.2).poisoned = s.poisoned := rfl
@[simp] theorem State.coin_cores (s : State) : (s.coin.2).cores = s.cores := rfl
@[simp] theorem State.coin_clusters (s : State) : (s.coin.2).clusters = s.clusters := rfl
@[simp] theorem State.coin_dies (s : State) : (s.coin.2).dies = s.dies := rfl
@[simp] theorem State.coin_vfs (s : State) : (s.coin.2).vfs = s.vfs := rfl
@[simp] theorem State.coin_counters (s : State) : (s.coin.2).counters = s.counters := rfl
@[simp] theorem State.coin_launches (s : State) : (s.coin.2).launches = s.launches := rfl
@[simp] theorem State.coin_graphs (s : State) : (s.coin.2).graphs = s.graphs := rfl
@[simp] theorem State.coin_phases (s : State) : (s.coin.2).phases = s.phases := rfl
@[simp] theorem State.coin_jobs (s : State) : (s.coin.2).jobs = s.jobs := rfl
@[simp] theorem State.coin_due (s : State) : (s.coin.2).due = s.due := rfl
@[simp] theorem State.coin_pend (s : State) : (s.coin.2).pend = s.pend := rfl
@[simp] theorem State.coin_rels (s : State) : (s.coin.2).rels = s.rels := rfl
@[simp] theorem State.coin_oplog (s : State) : (s.coin.2).oplog = s.oplog := rfl
@[simp] theorem State.coin_xq (s : State) : (s.coin.2).xq = s.xq := rfl
@[simp] theorem State.coin_ccols (s : State) : (s.coin.2).ccols = s.ccols := rfl
@[simp] theorem State.coin_windows (s : State) : (s.coin.2).windows = s.windows := rfl
@[simp] theorem State.coin_awaits (s : State) : (s.coin.2).awaits = s.awaits := rfl
@[simp] theorem State.coin_pulls (s : State) : (s.coin.2).pulls = s.pulls := rfl
@[simp] theorem State.coin_reads (s : State) : (s.coin.2).reads = s.reads := rfl
@[simp] theorem State.coin_sent (s : State) : (s.coin.2).sent = s.sent := rfl
@[simp] theorem State.coin_inbox (s : State) : (s.coin.2).inbox = s.inbox := rfl
@[simp] theorem State.coin_outbox (s : State) : (s.coin.2).outbox = s.outbox := rfl
@[simp] theorem State.coin_cut (s : State) : (s.coin.2).cut = s.cut := rfl
@[simp] theorem State.coin_cxl (s : State) : (s.coin.2).cxl = s.cxl := rfl
@[simp] theorem State.coin_monHost (s : State) : (s.coin.2).monHost = s.monHost := rfl
@[simp] theorem State.coin_monM1 (s : State) : (s.coin.2).monM1 = s.monM1 := rfl
@[simp] theorem State.coin_fwBox (s : State) : (s.coin.2).fwBox = s.fwBox := rfl
@[simp] theorem State.coin_injCtl (s : State) : (s.coin.2).injCtl = s.injCtl := rfl
@[simp] theorem State.coin_injSeed (s : State) : (s.coin.2).injSeed = s.injSeed := rfl
@[simp] theorem State.coin_injCount (s : State) : (s.coin.2).injCount = s.injCount := rfl
@[simp] theorem State.coin_injX (s : State) : (s.coin.2).injX = s.injX := rfl
@[simp] theorem State.coin_injY (s : State) : (s.coin.2).injY = s.injY := rfl
@[simp] theorem State.coin_bankSel (s : State) : (s.coin.2).bankSel = s.bankSel := rfl
@[simp] theorem State.coin_bankRun (s : State) : (s.coin.2).bankRun = s.bankRun := rfl
@[simp] theorem State.coin_bootFails (s : State) : (s.coin.2).bootFails = s.bootFails := rfl
@[simp] theorem State.coin_resets (s : State) : (s.coin.2).resets = s.resets := rfl
@[simp] theorem State.coin_ready (s : State) : (s.coin.2).ready = s.ready := rfl
@[simp] theorem State.coin_bringup (s : State) : (s.coin.2).bringup = s.bringup := rfl
@[simp] theorem State.coin_partup (s : State) : (s.coin.2).partup = s.partup := rfl
@[simp] theorem State.coin_tripped (s : State) : (s.coin.2).tripped = s.tripped := rfl
@[simp] theorem State.coin_evlog (s : State) : (s.coin.2).evlog = s.evlog := rfl
@[simp] theorem State.coin_islErr (s : State) : (s.coin.2).islErr = s.islErr := rfl
@[simp] theorem State.coin_islFence (s : State) : (s.coin.2).islFence = s.islFence := rfl
@[simp] theorem State.coin_islThrottle (s : State) : (s.coin.2).islThrottle = s.islThrottle := rfl
@[simp] theorem State.coin_fenceAt (s : State) : (s.coin.2).fenceAt = s.fenceAt := rfl
@[simp] theorem State.coin_fenceIn (s : State) : (s.coin.2).fenceIn = s.fenceIn := rfl
@[simp] theorem State.coin_tsCtl (s : State) : (s.coin.2).tsCtl = s.tsCtl := rfl
@[simp] theorem State.coin_refClk (s : State) : (s.coin.2).refClk = s.refClk := rfl
@[simp] theorem State.coin_avcal (s : State) : (s.coin.2).avcal = s.avcal := rfl
@[simp] theorem State.coin_pkg (s : State) : (s.coin.2).pkg = s.pkg := rfl
@[simp] theorem State.coin_arbiter (s : State) : (s.coin.2).arbiter = s.arbiter := rfl
@[simp] theorem State.coin_issue (s : State) : (s.coin.2).issue = s.issue := rfl
@[simp] theorem State.coin_packets (s : State) : (s.coin.2).packets = s.packets := rfl
@[simp] theorem State.coin_crew (s : State) : (s.coin.2).crew = s.crew := rfl
@[simp] theorem State.coin_pktFaults (s : State) : (s.coin.2).pktFaults = s.pktFaults := rfl
@[simp] theorem State.coin_memo (s : State) : (s.coin.2).memo = s.memo := rfl
@[simp] theorem State.coin_agenda (s : State) : (s.coin.2).agenda = s.agenda := rfl
@[simp] theorem State.coin_free (s : State) : (s.coin.2).free = s.free + 1 := rfl
@[simp] theorem State.coin_ids (s : State) : (s.coin.2).ids = s.ids := rfl

/-! State.newId -/
@[simp] theorem State.newId_tags (s : State) : (s.newId.2).tags = s.tags := rfl
@[simp] theorem State.newId_poisoned (s : State) : (s.newId.2).poisoned = s.poisoned := rfl
@[simp] theorem State.newId_cores (s : State) : (s.newId.2).cores = s.cores := rfl
@[simp] theorem State.newId_clusters (s : State) : (s.newId.2).clusters = s.clusters := rfl
@[simp] theorem State.newId_dies (s : State) : (s.newId.2).dies = s.dies := rfl
@[simp] theorem State.newId_vfs (s : State) : (s.newId.2).vfs = s.vfs := rfl
@[simp] theorem State.newId_blocks (s : State) : (s.newId.2).blocks = s.blocks := rfl
@[simp] theorem State.newId_counters (s : State) : (s.newId.2).counters = s.counters := rfl
@[simp] theorem State.newId_launches (s : State) : (s.newId.2).launches = s.launches := rfl
@[simp] theorem State.newId_graphs (s : State) : (s.newId.2).graphs = s.graphs := rfl
@[simp] theorem State.newId_phases (s : State) : (s.newId.2).phases = s.phases := rfl
@[simp] theorem State.newId_jobs (s : State) : (s.newId.2).jobs = s.jobs := rfl
@[simp] theorem State.newId_due (s : State) : (s.newId.2).due = s.due := rfl
@[simp] theorem State.newId_pend (s : State) : (s.newId.2).pend = s.pend := rfl
@[simp] theorem State.newId_rels (s : State) : (s.newId.2).rels = s.rels := rfl
@[simp] theorem State.newId_oplog (s : State) : (s.newId.2).oplog = s.oplog := rfl
@[simp] theorem State.newId_xq (s : State) : (s.newId.2).xq = s.xq := rfl
@[simp] theorem State.newId_ccols (s : State) : (s.newId.2).ccols = s.ccols := rfl
@[simp] theorem State.newId_windows (s : State) : (s.newId.2).windows = s.windows := rfl
@[simp] theorem State.newId_awaits (s : State) : (s.newId.2).awaits = s.awaits := rfl
@[simp] theorem State.newId_pulls (s : State) : (s.newId.2).pulls = s.pulls := rfl
@[simp] theorem State.newId_reads (s : State) : (s.newId.2).reads = s.reads := rfl
@[simp] theorem State.newId_sent (s : State) : (s.newId.2).sent = s.sent := rfl
@[simp] theorem State.newId_inbox (s : State) : (s.newId.2).inbox = s.inbox := rfl
@[simp] theorem State.newId_outbox (s : State) : (s.newId.2).outbox = s.outbox := rfl
@[simp] theorem State.newId_cut (s : State) : (s.newId.2).cut = s.cut := rfl
@[simp] theorem State.newId_cxl (s : State) : (s.newId.2).cxl = s.cxl := rfl
@[simp] theorem State.newId_monHost (s : State) : (s.newId.2).monHost = s.monHost := rfl
@[simp] theorem State.newId_monM1 (s : State) : (s.newId.2).monM1 = s.monM1 := rfl
@[simp] theorem State.newId_fwBox (s : State) : (s.newId.2).fwBox = s.fwBox := rfl
@[simp] theorem State.newId_injCtl (s : State) : (s.newId.2).injCtl = s.injCtl := rfl
@[simp] theorem State.newId_injSeed (s : State) : (s.newId.2).injSeed = s.injSeed := rfl
@[simp] theorem State.newId_injCount (s : State) : (s.newId.2).injCount = s.injCount := rfl
@[simp] theorem State.newId_injX (s : State) : (s.newId.2).injX = s.injX := rfl
@[simp] theorem State.newId_injY (s : State) : (s.newId.2).injY = s.injY := rfl
@[simp] theorem State.newId_bankSel (s : State) : (s.newId.2).bankSel = s.bankSel := rfl
@[simp] theorem State.newId_bankRun (s : State) : (s.newId.2).bankRun = s.bankRun := rfl
@[simp] theorem State.newId_bootFails (s : State) : (s.newId.2).bootFails = s.bootFails := rfl
@[simp] theorem State.newId_resets (s : State) : (s.newId.2).resets = s.resets := rfl
@[simp] theorem State.newId_ready (s : State) : (s.newId.2).ready = s.ready := rfl
@[simp] theorem State.newId_bringup (s : State) : (s.newId.2).bringup = s.bringup := rfl
@[simp] theorem State.newId_partup (s : State) : (s.newId.2).partup = s.partup := rfl
@[simp] theorem State.newId_tripped (s : State) : (s.newId.2).tripped = s.tripped := rfl
@[simp] theorem State.newId_evlog (s : State) : (s.newId.2).evlog = s.evlog := rfl
@[simp] theorem State.newId_islErr (s : State) : (s.newId.2).islErr = s.islErr := rfl
@[simp] theorem State.newId_islFence (s : State) : (s.newId.2).islFence = s.islFence := rfl
@[simp] theorem State.newId_islThrottle (s : State) : (s.newId.2).islThrottle = s.islThrottle := rfl
@[simp] theorem State.newId_fenceAt (s : State) : (s.newId.2).fenceAt = s.fenceAt := rfl
@[simp] theorem State.newId_fenceIn (s : State) : (s.newId.2).fenceIn = s.fenceIn := rfl
@[simp] theorem State.newId_tsCtl (s : State) : (s.newId.2).tsCtl = s.tsCtl := rfl
@[simp] theorem State.newId_refClk (s : State) : (s.newId.2).refClk = s.refClk := rfl
@[simp] theorem State.newId_avcal (s : State) : (s.newId.2).avcal = s.avcal := rfl
@[simp] theorem State.newId_pkg (s : State) : (s.newId.2).pkg = s.pkg := rfl
@[simp] theorem State.newId_arbiter (s : State) : (s.newId.2).arbiter = s.arbiter := rfl
@[simp] theorem State.newId_issue (s : State) : (s.newId.2).issue = s.issue := rfl
@[simp] theorem State.newId_packets (s : State) : (s.newId.2).packets = s.packets := rfl
@[simp] theorem State.newId_crew (s : State) : (s.newId.2).crew = s.crew := rfl
@[simp] theorem State.newId_pktFaults (s : State) : (s.newId.2).pktFaults = s.pktFaults := rfl
@[simp] theorem State.newId_memo (s : State) : (s.newId.2).memo = s.memo := rfl
@[simp] theorem State.newId_agenda (s : State) : (s.newId.2).agenda = s.agenda := rfl
@[simp] theorem State.newId_free (s : State) : (s.newId.2).free = s.free := rfl
@[simp] theorem State.newId_ids (s : State) : (s.newId.2).ids = s.ids + 1 := rfl

/-! Thread.setReg -/
@[simp] theorem Thread.setReg_pc (t : Thread) (g : G) (r : Reg) : (t.setReg g r).pc = t.pc := by unfold Thread.setReg; split <;> rfl
@[simp] theorem Thread.setReg_slot (t : Thread) (g : G) (r : Reg) : (t.setReg g r).slot = t.slot := by unfold Thread.setReg; split <;> rfl
@[simp] theorem Thread.setReg_hdr (t : Thread) (g : G) (r : Reg) : (t.setReg g r).hdr = t.hdr := by unfold Thread.setReg; split <;> rfl
@[simp] theorem Thread.setReg_rehdr (t : Thread) (g : G) (r : Reg) : (t.setReg g r).rehdr = t.rehdr := by unfold Thread.setReg; split <;> rfl
@[simp] theorem Thread.setReg_rpt (t : Thread) (g : G) (r : Reg) : (t.setReg g r).rpt = t.rpt := by unfold Thread.setReg; split <;> rfl
@[simp] theorem Thread.setReg_rptSaved (t : Thread) (g : G) (r : Reg) : (t.setReg g r).rptSaved = t.rptSaved := by unfold Thread.setReg; split <;> rfl
@[simp] theorem Thread.setReg_preds (t : Thread) (g : G) (r : Reg) : (t.setReg g r).preds = t.preds := by unfold Thread.setReg; split <;> rfl
@[simp] theorem Thread.setReg_bufs (t : Thread) (g : G) (r : Reg) : (t.setReg g r).bufs = t.bufs := by unfold Thread.setReg; split <;> rfl
@[simp] theorem Thread.setReg_tls (t : Thread) (g : G) (r : Reg) : (t.setReg g r).tls = t.tls := by unfold Thread.setReg; split <;> rfl
@[simp] theorem Thread.setReg_hands (t : Thread) (g : G) (r : Reg) : (t.setReg g r).hands = t.hands := by unfold Thread.setReg; split <;> rfl
@[simp] theorem Thread.setReg_flags (t : Thread) (g : G) (r : Reg) : (t.setReg g r).flags = t.flags := by unfold Thread.setReg; split <;> rfl
@[simp] theorem Thread.setReg_ret (t : Thread) (g : G) (r : Reg) : (t.setReg g r).ret = t.ret := by unfold Thread.setReg; split <;> rfl
@[simp] theorem Thread.setReg_retSp (t : Thread) (g : G) (r : Reg) : (t.setReg g r).retSp = t.retSp := by unfold Thread.setReg; split <;> rfl
@[simp] theorem Thread.setReg_rej (t : Thread) (g : G) (r : Reg) : (t.setReg g r).rej = t.rej := by unfold Thread.setReg; split <;> rfl
@[simp] theorem Thread.setReg_rejSp (t : Thread) (g : G) (r : Reg) : (t.setReg g r).rejSp = t.rejSp := by unfold Thread.setReg; split <;> rfl
@[simp] theorem Thread.setReg_seq (t : Thread) (g : G) (r : Reg) : (t.setReg g r).seq = t.seq := by unfold Thread.setReg; split <;> rfl
@[simp] theorem Thread.setReg_genX (t : Thread) (g : G) (r : Reg) : (t.setReg g r).genX = t.genX := by unfold Thread.setReg; split <;> rfl
@[simp] theorem Thread.setReg_genY (t : Thread) (g : G) (r : Reg) : (t.setReg g r).genY = t.genY := by unfold Thread.setReg; split <;> rfl
@[simp] theorem Thread.setReg_mode (t : Thread) (g : G) (r : Reg) : (t.setReg g r).mode = t.mode := by unfold Thread.setReg; split <;> rfl
@[simp] theorem Thread.setReg_saved (t : Thread) (g : G) (r : Reg) : (t.setReg g r).saved = t.saved := by unfold Thread.setReg; split <;> rfl
@[simp] theorem Thread.setReg_sts (t : Thread) (g : G) (r : Reg) : (t.setReg g r).sts = t.sts := by unfold Thread.setReg; split <;> rfl
@[simp] theorem Thread.setReg_spo (t : Thread) (g : G) (r : Reg) : (t.setReg g r).spo = t.spo := by unfold Thread.setReg; split <;> rfl
@[simp] theorem Thread.setReg_xpc (t : Thread) (g : G) (r : Reg) : (t.setReg g r).xpc = t.xpc := by unfold Thread.setReg; split <;> rfl
@[simp] theorem Thread.setReg_xcause (t : Thread) (g : G) (r : Reg) : (t.setReg g r).xcause = t.xcause := by unfold Thread.setReg; split <;> rfl
@[simp] theorem Thread.setReg_xinfo (t : Thread) (g : G) (r : Reg) : (t.setReg g r).xinfo = t.xinfo := by unfold Thread.setReg; split <;> rfl
@[simp] theorem Thread.setReg_park (t : Thread) (g : G) (r : Reg) : (t.setReg g r).park = t.park := by unfold Thread.setReg; split <;> rfl
@[simp] theorem Thread.setReg_life (t : Thread) (g : G) (r : Reg) : (t.setReg g r).life = t.life := by unfold Thread.setReg; split <;> rfl
@[simp] theorem Thread.setReg_halted (t : Thread) (g : G) (r : Reg) : (t.setReg g r).halted = t.halted := by unfold Thread.setReg; split <;> rfl
@[simp] theorem Thread.setReg_haltReq (t : Thread) (g : G) (r : Reg) : (t.setReg g r).haltReq = t.haltReq := by unfold Thread.setReg; split <;> rfl
@[simp] theorem Thread.setReg_inPlace (t : Thread) (g : G) (r : Reg) : (t.setReg g r).inPlace = t.inPlace := by unfold Thread.setReg; split <;> rfl
@[simp] theorem Thread.setReg_leaving (t : Thread) (g : G) (r : Reg) : (t.setReg g r).leaving = t.leaving := by unfold Thread.setReg; split <;> rfl
@[simp] theorem Thread.setReg_skid (t : Thread) (g : G) (r : Reg) : (t.setReg g r).skid = t.skid := by unfold Thread.setReg; split <;> rfl
@[simp] theorem Thread.setReg_askedAt (t : Thread) (g : G) (r : Reg) : (t.setReg g r).askedAt = t.askedAt := by unfold Thread.setReg; split <;> rfl
@[simp] theorem Thread.setReg_fault (t : Thread) (g : G) (r : Reg) : (t.setReg g r).fault = t.fault := by unfold Thread.setReg; split <;> rfl
@[simp] theorem Thread.setReg_spin (t : Thread) (g : G) (r : Reg) : (t.setReg g r).spin = t.spin := by unfold Thread.setReg; split <;> rfl
@[simp] theorem Thread.setReg_waitCnt (t : Thread) (g : G) (r : Reg) : (t.setReg g r).waitCnt = t.waitCnt := by unfold Thread.setReg; split <;> rfl
@[simp] theorem Thread.setReg_last (t : Thread) (g : G) (r : Reg) : (t.setReg g r).last = t.last := by unfold Thread.setReg; split <;> rfl
@[simp] theorem Thread.setReg_seen (t : Thread) (g : G) (r : Reg) : (t.setReg g r).seen = t.seen := by unfold Thread.setReg; split <;> rfl
@[simp] theorem Thread.setReg_nsig (t : Thread) (g : G) (r : Reg) : (t.setReg g r).nsig = t.nsig := by unfold Thread.setReg; split <;> rfl
@[simp] theorem Thread.setReg_know (t : Thread) (g : G) (r : Reg) : (t.setReg g r).know = t.know := by unfold Thread.setReg; split <;> rfl
@[simp] theorem Thread.setReg_read (t : Thread) (g : G) (r : Reg) : (t.setReg g r).read = t.read := by unfold Thread.setReg; split <;> rfl
@[simp] theorem Thread.setReg_fenced (t : Thread) (g : G) (r : Reg) : (t.setReg g r).fenced = t.fenced := by unfold Thread.setReg; split <;> rfl

/-! Thread.setPair -/
@[simp] theorem Thread.setPair_pc (t : Thread) (g : G) (v : DWord) : (t.setPair g v).pc = t.pc := by simp [Thread.setPair]
@[simp] theorem Thread.setPair_slot (t : Thread) (g : G) (v : DWord) : (t.setPair g v).slot = t.slot := by simp [Thread.setPair]
@[simp] theorem Thread.setPair_hdr (t : Thread) (g : G) (v : DWord) : (t.setPair g v).hdr = t.hdr := by simp [Thread.setPair]
@[simp] theorem Thread.setPair_rehdr (t : Thread) (g : G) (v : DWord) : (t.setPair g v).rehdr = t.rehdr := by simp [Thread.setPair]
@[simp] theorem Thread.setPair_rpt (t : Thread) (g : G) (v : DWord) : (t.setPair g v).rpt = t.rpt := by simp [Thread.setPair]
@[simp] theorem Thread.setPair_rptSaved (t : Thread) (g : G) (v : DWord) : (t.setPair g v).rptSaved = t.rptSaved := by simp [Thread.setPair]
@[simp] theorem Thread.setPair_preds (t : Thread) (g : G) (v : DWord) : (t.setPair g v).preds = t.preds := by simp [Thread.setPair]
@[simp] theorem Thread.setPair_bufs (t : Thread) (g : G) (v : DWord) : (t.setPair g v).bufs = t.bufs := by simp [Thread.setPair]
@[simp] theorem Thread.setPair_tls (t : Thread) (g : G) (v : DWord) : (t.setPair g v).tls = t.tls := by simp [Thread.setPair]
@[simp] theorem Thread.setPair_hands (t : Thread) (g : G) (v : DWord) : (t.setPair g v).hands = t.hands := by simp [Thread.setPair]
@[simp] theorem Thread.setPair_flags (t : Thread) (g : G) (v : DWord) : (t.setPair g v).flags = t.flags := by simp [Thread.setPair]
@[simp] theorem Thread.setPair_ret (t : Thread) (g : G) (v : DWord) : (t.setPair g v).ret = t.ret := by simp [Thread.setPair]
@[simp] theorem Thread.setPair_retSp (t : Thread) (g : G) (v : DWord) : (t.setPair g v).retSp = t.retSp := by simp [Thread.setPair]
@[simp] theorem Thread.setPair_rej (t : Thread) (g : G) (v : DWord) : (t.setPair g v).rej = t.rej := by simp [Thread.setPair]
@[simp] theorem Thread.setPair_rejSp (t : Thread) (g : G) (v : DWord) : (t.setPair g v).rejSp = t.rejSp := by simp [Thread.setPair]
@[simp] theorem Thread.setPair_seq (t : Thread) (g : G) (v : DWord) : (t.setPair g v).seq = t.seq := by simp [Thread.setPair]
@[simp] theorem Thread.setPair_genX (t : Thread) (g : G) (v : DWord) : (t.setPair g v).genX = t.genX := by simp [Thread.setPair]
@[simp] theorem Thread.setPair_genY (t : Thread) (g : G) (v : DWord) : (t.setPair g v).genY = t.genY := by simp [Thread.setPair]
@[simp] theorem Thread.setPair_mode (t : Thread) (g : G) (v : DWord) : (t.setPair g v).mode = t.mode := by simp [Thread.setPair]
@[simp] theorem Thread.setPair_saved (t : Thread) (g : G) (v : DWord) : (t.setPair g v).saved = t.saved := by simp [Thread.setPair]
@[simp] theorem Thread.setPair_sts (t : Thread) (g : G) (v : DWord) : (t.setPair g v).sts = t.sts := by simp [Thread.setPair]
@[simp] theorem Thread.setPair_spo (t : Thread) (g : G) (v : DWord) : (t.setPair g v).spo = t.spo := by simp [Thread.setPair]
@[simp] theorem Thread.setPair_xpc (t : Thread) (g : G) (v : DWord) : (t.setPair g v).xpc = t.xpc := by simp [Thread.setPair]
@[simp] theorem Thread.setPair_xcause (t : Thread) (g : G) (v : DWord) : (t.setPair g v).xcause = t.xcause := by simp [Thread.setPair]
@[simp] theorem Thread.setPair_xinfo (t : Thread) (g : G) (v : DWord) : (t.setPair g v).xinfo = t.xinfo := by simp [Thread.setPair]
@[simp] theorem Thread.setPair_park (t : Thread) (g : G) (v : DWord) : (t.setPair g v).park = t.park := by simp [Thread.setPair]
@[simp] theorem Thread.setPair_life (t : Thread) (g : G) (v : DWord) : (t.setPair g v).life = t.life := by simp [Thread.setPair]
@[simp] theorem Thread.setPair_halted (t : Thread) (g : G) (v : DWord) : (t.setPair g v).halted = t.halted := by simp [Thread.setPair]
@[simp] theorem Thread.setPair_haltReq (t : Thread) (g : G) (v : DWord) : (t.setPair g v).haltReq = t.haltReq := by simp [Thread.setPair]
@[simp] theorem Thread.setPair_inPlace (t : Thread) (g : G) (v : DWord) : (t.setPair g v).inPlace = t.inPlace := by simp [Thread.setPair]
@[simp] theorem Thread.setPair_leaving (t : Thread) (g : G) (v : DWord) : (t.setPair g v).leaving = t.leaving := by simp [Thread.setPair]
@[simp] theorem Thread.setPair_skid (t : Thread) (g : G) (v : DWord) : (t.setPair g v).skid = t.skid := by simp [Thread.setPair]
@[simp] theorem Thread.setPair_askedAt (t : Thread) (g : G) (v : DWord) : (t.setPair g v).askedAt = t.askedAt := by simp [Thread.setPair]
@[simp] theorem Thread.setPair_fault (t : Thread) (g : G) (v : DWord) : (t.setPair g v).fault = t.fault := by simp [Thread.setPair]
@[simp] theorem Thread.setPair_spin (t : Thread) (g : G) (v : DWord) : (t.setPair g v).spin = t.spin := by simp [Thread.setPair]
@[simp] theorem Thread.setPair_waitCnt (t : Thread) (g : G) (v : DWord) : (t.setPair g v).waitCnt = t.waitCnt := by simp [Thread.setPair]
@[simp] theorem Thread.setPair_last (t : Thread) (g : G) (v : DWord) : (t.setPair g v).last = t.last := by simp [Thread.setPair]
@[simp] theorem Thread.setPair_seen (t : Thread) (g : G) (v : DWord) : (t.setPair g v).seen = t.seen := by simp [Thread.setPair]
@[simp] theorem Thread.setPair_nsig (t : Thread) (g : G) (v : DWord) : (t.setPair g v).nsig = t.nsig := by simp [Thread.setPair]
@[simp] theorem Thread.setPair_know (t : Thread) (g : G) (v : DWord) : (t.setPair g v).know = t.know := by simp [Thread.setPair]
@[simp] theorem Thread.setPair_read (t : Thread) (g : G) (v : DWord) : (t.setPair g v).read = t.read := by simp [Thread.setPair]
@[simp] theorem Thread.setPair_fenced (t : Thread) (g : G) (v : DWord) : (t.setPair g v).fenced = t.fenced := by simp [Thread.setPair]

/-! Thread.setPred -/
@[simp] theorem Thread.setPred_pc (t : Thread) (p : PF) (r : PReg) : (t.setPred p r).pc = t.pc := by unfold Thread.setPred; split <;> rfl
@[simp] theorem Thread.setPred_slot (t : Thread) (p : PF) (r : PReg) : (t.setPred p r).slot = t.slot := by unfold Thread.setPred; split <;> rfl
@[simp] theorem Thread.setPred_hdr (t : Thread) (p : PF) (r : PReg) : (t.setPred p r).hdr = t.hdr := by unfold Thread.setPred; split <;> rfl
@[simp] theorem Thread.setPred_rehdr (t : Thread) (p : PF) (r : PReg) : (t.setPred p r).rehdr = t.rehdr := by unfold Thread.setPred; split <;> rfl
@[simp] theorem Thread.setPred_rpt (t : Thread) (p : PF) (r : PReg) : (t.setPred p r).rpt = t.rpt := by unfold Thread.setPred; split <;> rfl
@[simp] theorem Thread.setPred_rptSaved (t : Thread) (p : PF) (r : PReg) : (t.setPred p r).rptSaved = t.rptSaved := by unfold Thread.setPred; split <;> rfl
@[simp] theorem Thread.setPred_regs (t : Thread) (p : PF) (r : PReg) : (t.setPred p r).regs = t.regs := by unfold Thread.setPred; split <;> rfl
@[simp] theorem Thread.setPred_bufs (t : Thread) (p : PF) (r : PReg) : (t.setPred p r).bufs = t.bufs := by unfold Thread.setPred; split <;> rfl
@[simp] theorem Thread.setPred_tls (t : Thread) (p : PF) (r : PReg) : (t.setPred p r).tls = t.tls := by unfold Thread.setPred; split <;> rfl
@[simp] theorem Thread.setPred_hands (t : Thread) (p : PF) (r : PReg) : (t.setPred p r).hands = t.hands := by unfold Thread.setPred; split <;> rfl
@[simp] theorem Thread.setPred_flags (t : Thread) (p : PF) (r : PReg) : (t.setPred p r).flags = t.flags := by unfold Thread.setPred; split <;> rfl
@[simp] theorem Thread.setPred_ret (t : Thread) (p : PF) (r : PReg) : (t.setPred p r).ret = t.ret := by unfold Thread.setPred; split <;> rfl
@[simp] theorem Thread.setPred_retSp (t : Thread) (p : PF) (r : PReg) : (t.setPred p r).retSp = t.retSp := by unfold Thread.setPred; split <;> rfl
@[simp] theorem Thread.setPred_rej (t : Thread) (p : PF) (r : PReg) : (t.setPred p r).rej = t.rej := by unfold Thread.setPred; split <;> rfl
@[simp] theorem Thread.setPred_rejSp (t : Thread) (p : PF) (r : PReg) : (t.setPred p r).rejSp = t.rejSp := by unfold Thread.setPred; split <;> rfl
@[simp] theorem Thread.setPred_seq (t : Thread) (p : PF) (r : PReg) : (t.setPred p r).seq = t.seq := by unfold Thread.setPred; split <;> rfl
@[simp] theorem Thread.setPred_genX (t : Thread) (p : PF) (r : PReg) : (t.setPred p r).genX = t.genX := by unfold Thread.setPred; split <;> rfl
@[simp] theorem Thread.setPred_genY (t : Thread) (p : PF) (r : PReg) : (t.setPred p r).genY = t.genY := by unfold Thread.setPred; split <;> rfl
@[simp] theorem Thread.setPred_mode (t : Thread) (p : PF) (r : PReg) : (t.setPred p r).mode = t.mode := by unfold Thread.setPred; split <;> rfl
@[simp] theorem Thread.setPred_saved (t : Thread) (p : PF) (r : PReg) : (t.setPred p r).saved = t.saved := by unfold Thread.setPred; split <;> rfl
@[simp] theorem Thread.setPred_sts (t : Thread) (p : PF) (r : PReg) : (t.setPred p r).sts = t.sts := by unfold Thread.setPred; split <;> rfl
@[simp] theorem Thread.setPred_spo (t : Thread) (p : PF) (r : PReg) : (t.setPred p r).spo = t.spo := by unfold Thread.setPred; split <;> rfl
@[simp] theorem Thread.setPred_xpc (t : Thread) (p : PF) (r : PReg) : (t.setPred p r).xpc = t.xpc := by unfold Thread.setPred; split <;> rfl
@[simp] theorem Thread.setPred_xcause (t : Thread) (p : PF) (r : PReg) : (t.setPred p r).xcause = t.xcause := by unfold Thread.setPred; split <;> rfl
@[simp] theorem Thread.setPred_xinfo (t : Thread) (p : PF) (r : PReg) : (t.setPred p r).xinfo = t.xinfo := by unfold Thread.setPred; split <;> rfl
@[simp] theorem Thread.setPred_park (t : Thread) (p : PF) (r : PReg) : (t.setPred p r).park = t.park := by unfold Thread.setPred; split <;> rfl
@[simp] theorem Thread.setPred_life (t : Thread) (p : PF) (r : PReg) : (t.setPred p r).life = t.life := by unfold Thread.setPred; split <;> rfl
@[simp] theorem Thread.setPred_halted (t : Thread) (p : PF) (r : PReg) : (t.setPred p r).halted = t.halted := by unfold Thread.setPred; split <;> rfl
@[simp] theorem Thread.setPred_haltReq (t : Thread) (p : PF) (r : PReg) : (t.setPred p r).haltReq = t.haltReq := by unfold Thread.setPred; split <;> rfl
@[simp] theorem Thread.setPred_inPlace (t : Thread) (p : PF) (r : PReg) : (t.setPred p r).inPlace = t.inPlace := by unfold Thread.setPred; split <;> rfl
@[simp] theorem Thread.setPred_leaving (t : Thread) (p : PF) (r : PReg) : (t.setPred p r).leaving = t.leaving := by unfold Thread.setPred; split <;> rfl
@[simp] theorem Thread.setPred_skid (t : Thread) (p : PF) (r : PReg) : (t.setPred p r).skid = t.skid := by unfold Thread.setPred; split <;> rfl
@[simp] theorem Thread.setPred_askedAt (t : Thread) (p : PF) (r : PReg) : (t.setPred p r).askedAt = t.askedAt := by unfold Thread.setPred; split <;> rfl
@[simp] theorem Thread.setPred_fault (t : Thread) (p : PF) (r : PReg) : (t.setPred p r).fault = t.fault := by unfold Thread.setPred; split <;> rfl
@[simp] theorem Thread.setPred_spin (t : Thread) (p : PF) (r : PReg) : (t.setPred p r).spin = t.spin := by unfold Thread.setPred; split <;> rfl
@[simp] theorem Thread.setPred_waitCnt (t : Thread) (p : PF) (r : PReg) : (t.setPred p r).waitCnt = t.waitCnt := by unfold Thread.setPred; split <;> rfl
@[simp] theorem Thread.setPred_last (t : Thread) (p : PF) (r : PReg) : (t.setPred p r).last = t.last := by unfold Thread.setPred; split <;> rfl
@[simp] theorem Thread.setPred_seen (t : Thread) (p : PF) (r : PReg) : (t.setPred p r).seen = t.seen := by unfold Thread.setPred; split <;> rfl
@[simp] theorem Thread.setPred_nsig (t : Thread) (p : PF) (r : PReg) : (t.setPred p r).nsig = t.nsig := by unfold Thread.setPred; split <;> rfl
@[simp] theorem Thread.setPred_know (t : Thread) (p : PF) (r : PReg) : (t.setPred p r).know = t.know := by unfold Thread.setPred; split <;> rfl
@[simp] theorem Thread.setPred_read (t : Thread) (p : PF) (r : PReg) : (t.setPred p r).read = t.read := by unfold Thread.setPred; split <;> rfl
@[simp] theorem Thread.setPred_fenced (t : Thread) (p : PF) (r : PReg) : (t.setPred p r).fenced = t.fenced := by unfold Thread.setPred; split <;> rfl

/-! Thread.setBuf -/
@[simp] theorem Thread.setBuf_pc (t : Thread) (k : BF) (r : Rec) : (t.setBuf k r).pc = t.pc := rfl
@[simp] theorem Thread.setBuf_slot (t : Thread) (k : BF) (r : Rec) : (t.setBuf k r).slot = t.slot := rfl
@[simp] theorem Thread.setBuf_hdr (t : Thread) (k : BF) (r : Rec) : (t.setBuf k r).hdr = t.hdr := rfl
@[simp] theorem Thread.setBuf_rehdr (t : Thread) (k : BF) (r : Rec) : (t.setBuf k r).rehdr = t.rehdr := rfl
@[simp] theorem Thread.setBuf_rpt (t : Thread) (k : BF) (r : Rec) : (t.setBuf k r).rpt = t.rpt := rfl
@[simp] theorem Thread.setBuf_rptSaved (t : Thread) (k : BF) (r : Rec) : (t.setBuf k r).rptSaved = t.rptSaved := rfl
@[simp] theorem Thread.setBuf_regs (t : Thread) (k : BF) (r : Rec) : (t.setBuf k r).regs = t.regs := rfl
@[simp] theorem Thread.setBuf_preds (t : Thread) (k : BF) (r : Rec) : (t.setBuf k r).preds = t.preds := rfl
@[simp] theorem Thread.setBuf_bufs (t : Thread) (k : BF) (r : Rec) : (t.setBuf k r).bufs = t.bufs.set k.toNat r := rfl
@[simp] theorem Thread.setBuf_tls (t : Thread) (k : BF) (r : Rec) : (t.setBuf k r).tls = t.tls := rfl
@[simp] theorem Thread.setBuf_hands (t : Thread) (k : BF) (r : Rec) : (t.setBuf k r).hands = t.hands := rfl
@[simp] theorem Thread.setBuf_flags (t : Thread) (k : BF) (r : Rec) : (t.setBuf k r).flags = t.flags := rfl
@[simp] theorem Thread.setBuf_ret (t : Thread) (k : BF) (r : Rec) : (t.setBuf k r).ret = t.ret := rfl
@[simp] theorem Thread.setBuf_retSp (t : Thread) (k : BF) (r : Rec) : (t.setBuf k r).retSp = t.retSp := rfl
@[simp] theorem Thread.setBuf_rej (t : Thread) (k : BF) (r : Rec) : (t.setBuf k r).rej = t.rej := rfl
@[simp] theorem Thread.setBuf_rejSp (t : Thread) (k : BF) (r : Rec) : (t.setBuf k r).rejSp = t.rejSp := rfl
@[simp] theorem Thread.setBuf_seq (t : Thread) (k : BF) (r : Rec) : (t.setBuf k r).seq = t.seq := rfl
@[simp] theorem Thread.setBuf_genX (t : Thread) (k : BF) (r : Rec) : (t.setBuf k r).genX = t.genX := rfl
@[simp] theorem Thread.setBuf_genY (t : Thread) (k : BF) (r : Rec) : (t.setBuf k r).genY = t.genY := rfl
@[simp] theorem Thread.setBuf_mode (t : Thread) (k : BF) (r : Rec) : (t.setBuf k r).mode = t.mode := rfl
@[simp] theorem Thread.setBuf_saved (t : Thread) (k : BF) (r : Rec) : (t.setBuf k r).saved = t.saved := rfl
@[simp] theorem Thread.setBuf_sts (t : Thread) (k : BF) (r : Rec) : (t.setBuf k r).sts = t.sts := rfl
@[simp] theorem Thread.setBuf_spo (t : Thread) (k : BF) (r : Rec) : (t.setBuf k r).spo = t.spo := rfl
@[simp] theorem Thread.setBuf_xpc (t : Thread) (k : BF) (r : Rec) : (t.setBuf k r).xpc = t.xpc := rfl
@[simp] theorem Thread.setBuf_xcause (t : Thread) (k : BF) (r : Rec) : (t.setBuf k r).xcause = t.xcause := rfl
@[simp] theorem Thread.setBuf_xinfo (t : Thread) (k : BF) (r : Rec) : (t.setBuf k r).xinfo = t.xinfo := rfl
@[simp] theorem Thread.setBuf_park (t : Thread) (k : BF) (r : Rec) : (t.setBuf k r).park = t.park := rfl
@[simp] theorem Thread.setBuf_life (t : Thread) (k : BF) (r : Rec) : (t.setBuf k r).life = t.life := rfl
@[simp] theorem Thread.setBuf_halted (t : Thread) (k : BF) (r : Rec) : (t.setBuf k r).halted = t.halted := rfl
@[simp] theorem Thread.setBuf_haltReq (t : Thread) (k : BF) (r : Rec) : (t.setBuf k r).haltReq = t.haltReq := rfl
@[simp] theorem Thread.setBuf_inPlace (t : Thread) (k : BF) (r : Rec) : (t.setBuf k r).inPlace = t.inPlace := rfl
@[simp] theorem Thread.setBuf_leaving (t : Thread) (k : BF) (r : Rec) : (t.setBuf k r).leaving = t.leaving := rfl
@[simp] theorem Thread.setBuf_skid (t : Thread) (k : BF) (r : Rec) : (t.setBuf k r).skid = t.skid := rfl
@[simp] theorem Thread.setBuf_askedAt (t : Thread) (k : BF) (r : Rec) : (t.setBuf k r).askedAt = t.askedAt := rfl
@[simp] theorem Thread.setBuf_fault (t : Thread) (k : BF) (r : Rec) : (t.setBuf k r).fault = t.fault := rfl
@[simp] theorem Thread.setBuf_spin (t : Thread) (k : BF) (r : Rec) : (t.setBuf k r).spin = t.spin := rfl
@[simp] theorem Thread.setBuf_waitCnt (t : Thread) (k : BF) (r : Rec) : (t.setBuf k r).waitCnt = t.waitCnt := rfl
@[simp] theorem Thread.setBuf_last (t : Thread) (k : BF) (r : Rec) : (t.setBuf k r).last = t.last := rfl
@[simp] theorem Thread.setBuf_early (t : Thread) (k : BF) (r : Rec) : (t.setBuf k r).early = t.early := rfl
@[simp] theorem Thread.setBuf_seen (t : Thread) (k : BF) (r : Rec) : (t.setBuf k r).seen = t.seen := rfl
@[simp] theorem Thread.setBuf_nsig (t : Thread) (k : BF) (r : Rec) : (t.setBuf k r).nsig = t.nsig := rfl
@[simp] theorem Thread.setBuf_know (t : Thread) (k : BF) (r : Rec) : (t.setBuf k r).know = t.know := rfl
@[simp] theorem Thread.setBuf_read (t : Thread) (k : BF) (r : Rec) : (t.setBuf k r).read = t.read := rfl
@[simp] theorem Thread.setBuf_fenced (t : Thread) (k : BF) (r : Rec) : (t.setBuf k r).fenced = t.fenced := rfl

/-! Thread.setHand -/
@[simp] theorem Thread.setHand_pc (t : Thread) (h : HF) (v : Handle) : (t.setHand h v).pc = t.pc := rfl
@[simp] theorem Thread.setHand_slot (t : Thread) (h : HF) (v : Handle) : (t.setHand h v).slot = t.slot := rfl
@[simp] theorem Thread.setHand_hdr (t : Thread) (h : HF) (v : Handle) : (t.setHand h v).hdr = t.hdr := rfl
@[simp] theorem Thread.setHand_rehdr (t : Thread) (h : HF) (v : Handle) : (t.setHand h v).rehdr = t.rehdr := rfl
@[simp] theorem Thread.setHand_rpt (t : Thread) (h : HF) (v : Handle) : (t.setHand h v).rpt = t.rpt := rfl
@[simp] theorem Thread.setHand_rptSaved (t : Thread) (h : HF) (v : Handle) : (t.setHand h v).rptSaved = t.rptSaved := rfl
@[simp] theorem Thread.setHand_regs (t : Thread) (h : HF) (v : Handle) : (t.setHand h v).regs = t.regs := rfl
@[simp] theorem Thread.setHand_preds (t : Thread) (h : HF) (v : Handle) : (t.setHand h v).preds = t.preds := rfl
@[simp] theorem Thread.setHand_bufs (t : Thread) (h : HF) (v : Handle) : (t.setHand h v).bufs = t.bufs := rfl
@[simp] theorem Thread.setHand_tls (t : Thread) (h : HF) (v : Handle) : (t.setHand h v).tls = t.tls := rfl
@[simp] theorem Thread.setHand_hands (t : Thread) (h : HF) (v : Handle) : (t.setHand h v).hands = t.hands.set h.toNat v := rfl
@[simp] theorem Thread.setHand_flags (t : Thread) (h : HF) (v : Handle) : (t.setHand h v).flags = t.flags := rfl
@[simp] theorem Thread.setHand_ret (t : Thread) (h : HF) (v : Handle) : (t.setHand h v).ret = t.ret := rfl
@[simp] theorem Thread.setHand_retSp (t : Thread) (h : HF) (v : Handle) : (t.setHand h v).retSp = t.retSp := rfl
@[simp] theorem Thread.setHand_rej (t : Thread) (h : HF) (v : Handle) : (t.setHand h v).rej = t.rej := rfl
@[simp] theorem Thread.setHand_rejSp (t : Thread) (h : HF) (v : Handle) : (t.setHand h v).rejSp = t.rejSp := rfl
@[simp] theorem Thread.setHand_seq (t : Thread) (h : HF) (v : Handle) : (t.setHand h v).seq = t.seq := rfl
@[simp] theorem Thread.setHand_genX (t : Thread) (h : HF) (v : Handle) : (t.setHand h v).genX = t.genX := rfl
@[simp] theorem Thread.setHand_genY (t : Thread) (h : HF) (v : Handle) : (t.setHand h v).genY = t.genY := rfl
@[simp] theorem Thread.setHand_mode (t : Thread) (h : HF) (v : Handle) : (t.setHand h v).mode = t.mode := rfl
@[simp] theorem Thread.setHand_saved (t : Thread) (h : HF) (v : Handle) : (t.setHand h v).saved = t.saved := rfl
@[simp] theorem Thread.setHand_sts (t : Thread) (h : HF) (v : Handle) : (t.setHand h v).sts = t.sts := rfl
@[simp] theorem Thread.setHand_spo (t : Thread) (h : HF) (v : Handle) : (t.setHand h v).spo = t.spo := rfl
@[simp] theorem Thread.setHand_xpc (t : Thread) (h : HF) (v : Handle) : (t.setHand h v).xpc = t.xpc := rfl
@[simp] theorem Thread.setHand_xcause (t : Thread) (h : HF) (v : Handle) : (t.setHand h v).xcause = t.xcause := rfl
@[simp] theorem Thread.setHand_xinfo (t : Thread) (h : HF) (v : Handle) : (t.setHand h v).xinfo = t.xinfo := rfl
@[simp] theorem Thread.setHand_park (t : Thread) (h : HF) (v : Handle) : (t.setHand h v).park = t.park := rfl
@[simp] theorem Thread.setHand_life (t : Thread) (h : HF) (v : Handle) : (t.setHand h v).life = t.life := rfl
@[simp] theorem Thread.setHand_halted (t : Thread) (h : HF) (v : Handle) : (t.setHand h v).halted = t.halted := rfl
@[simp] theorem Thread.setHand_haltReq (t : Thread) (h : HF) (v : Handle) : (t.setHand h v).haltReq = t.haltReq := rfl
@[simp] theorem Thread.setHand_inPlace (t : Thread) (h : HF) (v : Handle) : (t.setHand h v).inPlace = t.inPlace := rfl
@[simp] theorem Thread.setHand_leaving (t : Thread) (h : HF) (v : Handle) : (t.setHand h v).leaving = t.leaving := rfl
@[simp] theorem Thread.setHand_skid (t : Thread) (h : HF) (v : Handle) : (t.setHand h v).skid = t.skid := rfl
@[simp] theorem Thread.setHand_askedAt (t : Thread) (h : HF) (v : Handle) : (t.setHand h v).askedAt = t.askedAt := rfl
@[simp] theorem Thread.setHand_fault (t : Thread) (h : HF) (v : Handle) : (t.setHand h v).fault = t.fault := rfl
@[simp] theorem Thread.setHand_spin (t : Thread) (h : HF) (v : Handle) : (t.setHand h v).spin = t.spin := rfl
@[simp] theorem Thread.setHand_waitCnt (t : Thread) (h : HF) (v : Handle) : (t.setHand h v).waitCnt = t.waitCnt := rfl
@[simp] theorem Thread.setHand_last (t : Thread) (h : HF) (v : Handle) : (t.setHand h v).last = t.last := rfl
@[simp] theorem Thread.setHand_early (t : Thread) (h : HF) (v : Handle) : (t.setHand h v).early = t.early := rfl
@[simp] theorem Thread.setHand_seen (t : Thread) (h : HF) (v : Handle) : (t.setHand h v).seen = t.seen := rfl
@[simp] theorem Thread.setHand_nsig (t : Thread) (h : HF) (v : Handle) : (t.setHand h v).nsig = t.nsig := rfl
@[simp] theorem Thread.setHand_know (t : Thread) (h : HF) (v : Handle) : (t.setHand h v).know = t.know := rfl
@[simp] theorem Thread.setHand_read (t : Thread) (h : HF) (v : Handle) : (t.setHand h v).read = t.read := rfl
@[simp] theorem Thread.setHand_fenced (t : Thread) (h : HF) (v : Handle) : (t.setHand h v).fenced = t.fenced := rfl

/-! Block.setThread -/
@[simp] theorem Block.setThread_bid (b : Block) (i : Nat) (t : Thread) : (b.setThread i t).bid = b.bid := rfl
@[simp] theorem Block.setThread_vf (b : Block) (i : Nat) (t : Thread) : (b.setThread i t).vf = b.vf := rfl
@[simp] theorem Block.setThread_launch (b : Block) (i : Nat) (t : Thread) : (b.setThread i t).launch = b.launch := rfl
@[simp] theorem Block.setThread_lin (b : Block) (i : Nat) (t : Thread) : (b.setThread i t).lin = b.lin := rfl
@[simp] theorem Block.setThread_shape (b : Block) (i : Nat) (t : Thread) : (b.setThread i t).shape = b.shape := rfl
@[simp] theorem Block.setThread_core (b : Block) (i : Nat) (t : Thread) : (b.setThread i t).core = b.core := rfl
@[simp] theorem Block.setThread_ridx (b : Block) (i : Nat) (t : Thread) : (b.setThread i t).ridx = b.ridx := rfl
@[simp] theorem Block.setThread_slots (b : Block) (i : Nat) (t : Thread) : (b.setThread i t).slots = b.slots := rfl
@[simp] theorem Block.setThread_phase (b : Block) (i : Nat) (t : Thread) : (b.setThread i t).phase = b.phase := rfl
@[simp] theorem Block.setThread_killed (b : Block) (i : Nat) (t : Thread) : (b.setThread i t).killed = b.killed := rfl
@[simp] theorem Block.setThread_threads (b : Block) (i : Nat) (t : Thread) : (b.setThread i t).threads = b.threads.set i t := rfl
@[simp] theorem Block.setThread_scr (b : Block) (i : Nat) (t : Thread) : (b.setThread i t).scr = b.scr := rfl
@[simp] theorem Block.setThread_scr0 (b : Block) (i : Nat) (t : Thread) : (b.setThread i t).scr0 = b.scr0 := rfl
@[simp] theorem Block.setThread_hist (b : Block) (i : Nat) (t : Thread) : (b.setThread i t).hist = b.hist := rfl
@[simp] theorem Block.setThread_share (b : Block) (i : Nat) (t : Thread) : (b.setThread i t).share = b.share := rfl
@[simp] theorem Block.setThread_handed (b : Block) (i : Nat) (t : Thread) : (b.setThread i t).handed = b.handed := rfl
@[simp] theorem Block.setThread_commits (b : Block) (i : Nat) (t : Thread) : (b.setThread i t).commits = b.commits := rfl
@[simp] theorem Block.setThread_ncommit (b : Block) (i : Nat) (t : Thread) : (b.setThread i t).ncommit = b.ncommit := rfl
@[simp] theorem Block.setThread_gangs (b : Block) (i : Nat) (t : Thread) : (b.setThread i t).gangs = b.gangs := rfl
@[simp] theorem Block.setThread_byCommit (b : Block) (i : Nat) (t : Thread) : (b.setThread i t).byCommit = b.byCommit := rfl
@[simp] theorem Block.setThread_forced (b : Block) (i : Nat) (t : Thread) : (b.setThread i t).forced = b.forced := rfl
@[simp] theorem Block.setThread_blocked (b : Block) (i : Nat) (t : Thread) : (b.setThread i t).blocked = b.blocked := rfl
@[simp] theorem Block.setThread_regStore (b : Block) (i : Nat) (t : Thread) : (b.setThread i t).regStore = b.regStore := rfl
@[simp] theorem Block.setThread_regAvset (b : Block) (i : Nat) (t : Thread) : (b.setThread i t).regAvset = b.regAvset := rfl
@[simp] theorem Block.setThread_regSysw (b : Block) (i : Nat) (t : Thread) : (b.setThread i t).regSysw = b.regSysw := rfl
@[simp] theorem Block.setThread_regCmd (b : Block) (i : Nat) (t : Thread) : (b.setThread i t).regCmd = b.regCmd := rfl
@[simp] theorem Block.setThread_regCyc (b : Block) (i : Nat) (t : Thread) : (b.setThread i t).regCyc = b.regCyc := rfl
@[simp] theorem Block.setThread_image (b : Block) (i : Nat) (t : Thread) : (b.setThread i t).image = b.image := rfl
@[simp] theorem Block.setThread_ckpt (b : Block) (i : Nat) (t : Thread) : (b.setThread i t).ckpt = b.ckpt := rfl
@[simp] theorem Block.setThread_retries (b : Block) (i : Nat) (t : Thread) : (b.setThread i t).retries = b.retries := rfl
@[simp] theorem Block.setThread_volt (b : Block) (i : Nat) (t : Thread) : (b.setThread i t).volt = b.volt := rfl
@[simp] theorem Block.setThread_level (b : Block) (i : Nat) (t : Thread) : (b.setThread i t).level = b.level := rfl
@[simp] theorem Block.setThread_rising (b : Block) (i : Nat) (t : Thread) : (b.setThread i t).rising = b.rising := rfl
@[simp] theorem Block.setThread_dither (b : Block) (i : Nat) (t : Thread) : (b.setThread i t).dither = b.dither := rfl
@[simp] theorem Block.setThread_serial (b : Block) (i : Nat) (t : Thread) : (b.setThread i t).serial = b.serial := rfl
@[simp] theorem Block.setThread_stats (b : Block) (i : Nat) (t : Thread) : (b.setThread i t).stats = b.stats := rfl
@[simp] theorem Block.setThread_lqWritten (b : Block) (i : Nat) (t : Thread) : (b.setThread i t).lqWritten = b.lqWritten := rfl
@[simp] theorem Block.setThread_lqSaved (b : Block) (i : Nat) (t : Thread) : (b.setThread i t).lqSaved = b.lqSaved := rfl
@[simp] theorem Block.setThread_rowsSaved (b : Block) (i : Nat) (t : Thread) : (b.setThread i t).rowsSaved = b.rowsSaved := rfl
@[simp] theorem Block.setThread_partner (b : Block) (i : Nat) (t : Thread) : (b.setThread i t).partner = b.partner := rfl
@[simp] theorem Block.setThread_trailing (b : Block) (i : Nat) (t : Thread) : (b.setThread i t).trailing = b.trailing := rfl
@[simp] theorem Block.setThread_sigs (b : Block) (i : Nat) (t : Thread) : (b.setThread i t).sigs = b.sigs := rfl
@[simp] theorem Block.setThread_offers (b : Block) (i : Nat) (t : Thread) : (b.setThread i t).offers = b.offers := rfl
@[simp] theorem Block.setThread_fwts (b : Block) (i : Nat) (t : Thread) : (b.setThread i t).fwts = b.fwts := rfl
@[simp] theorem Block.setThread_asts (b : Block) (i : Nat) (t : Thread) : (b.setThread i t).asts = b.asts := rfl
@[simp] theorem Block.setThread_badScr (b : Block) (i : Nat) (t : Thread) : (b.setThread i t).badScr = b.badScr := rfl
@[simp] theorem Block.setThread_errs (b : Block) (i : Nat) (t : Thread) : (b.setThread i t).errs = b.errs := rfl
@[simp] theorem Block.setThread_noLoan (b : Block) (i : Nat) (t : Thread) : (b.setThread i t).noLoan = b.noLoan := rfl
@[simp] theorem Block.setThread_draining (b : Block) (i : Nat) (t : Thread) : (b.setThread i t).draining = b.draining := rfl
@[simp] theorem Block.setThread_clk (b : Block) (i : Nat) (t : Thread) : (b.setThread i t).clk = b.clk := rfl
@[simp] theorem Block.setThread_born (b : Block) (i : Nat) (t : Thread) : (b.setThread i t).born = b.born := rfl
@[simp] theorem Block.setThread_since (b : Block) (i : Nat) (t : Thread) : (b.setThread i t).since = b.since := rfl
@[simp] theorem Block.setThread_exits (b : Block) (i : Nat) (t : Thread) : (b.setThread i t).exits = b.exits := rfl

/-! Block.modThread -/
@[simp] theorem Block.modThread_bid (b : Block) (i : Nat) (f : Thread → Thread) : (b.modThread i f).bid = b.bid := rfl
@[simp] theorem Block.modThread_vf (b : Block) (i : Nat) (f : Thread → Thread) : (b.modThread i f).vf = b.vf := rfl
@[simp] theorem Block.modThread_launch (b : Block) (i : Nat) (f : Thread → Thread) : (b.modThread i f).launch = b.launch := rfl
@[simp] theorem Block.modThread_lin (b : Block) (i : Nat) (f : Thread → Thread) : (b.modThread i f).lin = b.lin := rfl
@[simp] theorem Block.modThread_shape (b : Block) (i : Nat) (f : Thread → Thread) : (b.modThread i f).shape = b.shape := rfl
@[simp] theorem Block.modThread_core (b : Block) (i : Nat) (f : Thread → Thread) : (b.modThread i f).core = b.core := rfl
@[simp] theorem Block.modThread_ridx (b : Block) (i : Nat) (f : Thread → Thread) : (b.modThread i f).ridx = b.ridx := rfl
@[simp] theorem Block.modThread_slots (b : Block) (i : Nat) (f : Thread → Thread) : (b.modThread i f).slots = b.slots := rfl
@[simp] theorem Block.modThread_phase (b : Block) (i : Nat) (f : Thread → Thread) : (b.modThread i f).phase = b.phase := rfl
@[simp] theorem Block.modThread_killed (b : Block) (i : Nat) (f : Thread → Thread) : (b.modThread i f).killed = b.killed := rfl
@[simp] theorem Block.modThread_threads (b : Block) (i : Nat) (f : Thread → Thread) : (b.modThread i f).threads = b.threads.modify i f := rfl
@[simp] theorem Block.modThread_scr (b : Block) (i : Nat) (f : Thread → Thread) : (b.modThread i f).scr = b.scr := rfl
@[simp] theorem Block.modThread_scr0 (b : Block) (i : Nat) (f : Thread → Thread) : (b.modThread i f).scr0 = b.scr0 := rfl
@[simp] theorem Block.modThread_hist (b : Block) (i : Nat) (f : Thread → Thread) : (b.modThread i f).hist = b.hist := rfl
@[simp] theorem Block.modThread_share (b : Block) (i : Nat) (f : Thread → Thread) : (b.modThread i f).share = b.share := rfl
@[simp] theorem Block.modThread_handed (b : Block) (i : Nat) (f : Thread → Thread) : (b.modThread i f).handed = b.handed := rfl
@[simp] theorem Block.modThread_commits (b : Block) (i : Nat) (f : Thread → Thread) : (b.modThread i f).commits = b.commits := rfl
@[simp] theorem Block.modThread_ncommit (b : Block) (i : Nat) (f : Thread → Thread) : (b.modThread i f).ncommit = b.ncommit := rfl
@[simp] theorem Block.modThread_gangs (b : Block) (i : Nat) (f : Thread → Thread) : (b.modThread i f).gangs = b.gangs := rfl
@[simp] theorem Block.modThread_byCommit (b : Block) (i : Nat) (f : Thread → Thread) : (b.modThread i f).byCommit = b.byCommit := rfl
@[simp] theorem Block.modThread_forced (b : Block) (i : Nat) (f : Thread → Thread) : (b.modThread i f).forced = b.forced := rfl
@[simp] theorem Block.modThread_blocked (b : Block) (i : Nat) (f : Thread → Thread) : (b.modThread i f).blocked = b.blocked := rfl
@[simp] theorem Block.modThread_regStore (b : Block) (i : Nat) (f : Thread → Thread) : (b.modThread i f).regStore = b.regStore := rfl
@[simp] theorem Block.modThread_regAvset (b : Block) (i : Nat) (f : Thread → Thread) : (b.modThread i f).regAvset = b.regAvset := rfl
@[simp] theorem Block.modThread_regSysw (b : Block) (i : Nat) (f : Thread → Thread) : (b.modThread i f).regSysw = b.regSysw := rfl
@[simp] theorem Block.modThread_regCmd (b : Block) (i : Nat) (f : Thread → Thread) : (b.modThread i f).regCmd = b.regCmd := rfl
@[simp] theorem Block.modThread_regCyc (b : Block) (i : Nat) (f : Thread → Thread) : (b.modThread i f).regCyc = b.regCyc := rfl
@[simp] theorem Block.modThread_image (b : Block) (i : Nat) (f : Thread → Thread) : (b.modThread i f).image = b.image := rfl
@[simp] theorem Block.modThread_ckpt (b : Block) (i : Nat) (f : Thread → Thread) : (b.modThread i f).ckpt = b.ckpt := rfl
@[simp] theorem Block.modThread_retries (b : Block) (i : Nat) (f : Thread → Thread) : (b.modThread i f).retries = b.retries := rfl
@[simp] theorem Block.modThread_volt (b : Block) (i : Nat) (f : Thread → Thread) : (b.modThread i f).volt = b.volt := rfl
@[simp] theorem Block.modThread_level (b : Block) (i : Nat) (f : Thread → Thread) : (b.modThread i f).level = b.level := rfl
@[simp] theorem Block.modThread_rising (b : Block) (i : Nat) (f : Thread → Thread) : (b.modThread i f).rising = b.rising := rfl
@[simp] theorem Block.modThread_dither (b : Block) (i : Nat) (f : Thread → Thread) : (b.modThread i f).dither = b.dither := rfl
@[simp] theorem Block.modThread_serial (b : Block) (i : Nat) (f : Thread → Thread) : (b.modThread i f).serial = b.serial := rfl
@[simp] theorem Block.modThread_stats (b : Block) (i : Nat) (f : Thread → Thread) : (b.modThread i f).stats = b.stats := rfl
@[simp] theorem Block.modThread_lqWritten (b : Block) (i : Nat) (f : Thread → Thread) : (b.modThread i f).lqWritten = b.lqWritten := rfl
@[simp] theorem Block.modThread_lqSaved (b : Block) (i : Nat) (f : Thread → Thread) : (b.modThread i f).lqSaved = b.lqSaved := rfl
@[simp] theorem Block.modThread_rowsSaved (b : Block) (i : Nat) (f : Thread → Thread) : (b.modThread i f).rowsSaved = b.rowsSaved := rfl
@[simp] theorem Block.modThread_partner (b : Block) (i : Nat) (f : Thread → Thread) : (b.modThread i f).partner = b.partner := rfl
@[simp] theorem Block.modThread_trailing (b : Block) (i : Nat) (f : Thread → Thread) : (b.modThread i f).trailing = b.trailing := rfl
@[simp] theorem Block.modThread_sigs (b : Block) (i : Nat) (f : Thread → Thread) : (b.modThread i f).sigs = b.sigs := rfl
@[simp] theorem Block.modThread_offers (b : Block) (i : Nat) (f : Thread → Thread) : (b.modThread i f).offers = b.offers := rfl
@[simp] theorem Block.modThread_fwts (b : Block) (i : Nat) (f : Thread → Thread) : (b.modThread i f).fwts = b.fwts := rfl
@[simp] theorem Block.modThread_asts (b : Block) (i : Nat) (f : Thread → Thread) : (b.modThread i f).asts = b.asts := rfl
@[simp] theorem Block.modThread_badScr (b : Block) (i : Nat) (f : Thread → Thread) : (b.modThread i f).badScr = b.badScr := rfl
@[simp] theorem Block.modThread_errs (b : Block) (i : Nat) (f : Thread → Thread) : (b.modThread i f).errs = b.errs := rfl
@[simp] theorem Block.modThread_noLoan (b : Block) (i : Nat) (f : Thread → Thread) : (b.modThread i f).noLoan = b.noLoan := rfl
@[simp] theorem Block.modThread_draining (b : Block) (i : Nat) (f : Thread → Thread) : (b.modThread i f).draining = b.draining := rfl
@[simp] theorem Block.modThread_clk (b : Block) (i : Nat) (f : Thread → Thread) : (b.modThread i f).clk = b.clk := rfl
@[simp] theorem Block.modThread_born (b : Block) (i : Nat) (f : Thread → Thread) : (b.modThread i f).born = b.born := rfl
@[simp] theorem Block.modThread_since (b : Block) (i : Nat) (f : Thread → Thread) : (b.modThread i f).since = b.since := rfl
@[simp] theorem Block.modThread_exits (b : Block) (i : Nat) (f : Thread → Thread) : (b.modThread i f).exits = b.exits := rfl

end Sys2Proof.Machine
end

