-- ==== Sys2Proof/Machine/Views.lean ====
section
/-! DEFINITION. What a register reads as through the function pages, the management page and the debug port (R30, R238, R245, R281,
R302, R333, R345, R347, R352, R356, R358, R360-R362, R368, R372-R374, R380, R382-R384, R393, R404, R405, R407, R414-R416, R421, R424).
A read changes nothing, but that of DBG.SHDATA (SHADOW_READ). Bits that are only written read 0 here (log 21). -/

namespace Sys2Proof.Machine

/-- A word of two halves. -/
def twoWords (hi lo : Nat) : DWord := BitVec.ofNat 64 (hi % 2 ^ 32 * 2 ^ 32 + lo % 2 ^ 32)

/-- VF.SUBST (R30). -/
def State.substWord (s : State) (f : Nat) : DWord :=
  let v := s.vf f
  twoWords v.acc.toNat (s.activeCount f * 2 ^ 16 + (s.queued f).length * 2 ^ 8 + (if v.badw then 2 else 0) + (if v.ovf then 1 else 0))

/-- A ring's pointer register with a LOST bit (R347, R374). -/
def lostPtr (head : BitVec 31) (lost : Bool) (tail : Word) : DWord :=
  twoWords (2 * head.toNat + (if lost then 1 else 0)) tail.toNat

/-- VF.XBKSTd (R281). -/
def Vf.xbkst (v : Vf) (d : Nat) : DWord :=
  BitVec.ofNat 64 (v.tok.get v.depth d % 2 ^ 24 * 2 ^ 40 + v.debt.get 0 d % 2 ^ 24 * 2 ^ 16)

/-- A register of function f's page as its host reads it (R404): an offset that holds none reads 0.
[log 21: DEDUCED, unsafe] -/
def State.readVf (s : State) (f off : Nat) : DWord :=
  let v := s.vf f
  match off with
  | 0x008 => s.substWord f
  | 0x010 => v.ptroot
  | 0x018 => if v.busy then 4 else 0
  | 0x020 => v.fqbase
  | 0x028 => twoWords v.fqhead.toNat v.fqtail.toNat
  | 0x038 => v.flbase
  | 0x040 => lostPtr v.flhead v.fllost v.fltail
  | 0x048 => v.xvec
  | 0x050 => BitVec.ofNat 64 v.wdog
  | 0x058 => v.pairctl
  | 0x060 => v.bindt
  | 0x068 => v.xbkt
  | 0x070 => v.qos
  | 0x078 => v.part
  | 0x080 => v.migctl
  | 0x088 => v.isr.setWidth 64
  | 0x090 => v.dmkexp
  | _ => if off / 0x40 == 4 && off % 8 == 0 then v.xbkst (off % 0x40 / 8) else 0

/-- MGMT.STAT (R421). -/
def State.statWord (s : State) : DWord :=
  BitVec.ofNat 64 (s.partup.toNat * 2 ^ 8 + (if s.bankRun then 16 else 0) + s.bringup % 8 * 2 + (if s.ready then 1 else 0))

/-- The management page as the host (m1 false) or M1 reads it (R414, R415). -/
def State.readPage (s : State) (m1 : Bool) (off : Nat) : DWord :=
  if off % 8 != 0 then 0
  else if off == 0x000 then (s.mon m1).call
  else if off == 0x008 then (s.mon m1).arg
  else if off < 0x040 then (s.mon m1).res.getD (off / 8 - 2) 0
  else if off == 0x040 then s.fwBox.call
  else if off == 0x048 then s.fwBox.arg
  else if off < 0x090 then s.fwBox.res.getD (off / 8 - 10) 0
  else if 0x100 ≤ off && off < 0x140 then (s.die (off % 0x40 / 8)).reg
  else if 0x140 ≤ off && off < 0x180 then (s.die (off % 0x40 / 8)).fw
  else if off == 0x180 then s.injCtl
  else if off == 0x188 then s.injSeed
  else if off == 0x1C0 then s.statWord
  else if 0x1C8 ≤ off && off < 0x1E8 then s.cxl.get 0 ((off - 0x1C8) / 8)
  else if 0x400 ≤ off && off < 0x700 then (s.cluster ((off - 0x400) / 8)).clown
  else if 0x800 ≤ off && off < 0xB00 then (s.vf ((off - 0x800) / 8)).qos
  else 0

/-- DBG.SHDR, DBG.SWHO and DBG.STEP (R360, R361). -/
def Cluster.shdr (c : Cluster) : DWord :=
  twoWords c.iblk.toNat (c.nhit % 256 * 2 ^ 24 + c.ngang % 256 * 2 ^ 16 + c.wp.toNat * 2 ^ 12 + c.kind.toNat * 2 ^ 9
    + (if c.retd then 256 else 0) + (if c.stop then 1 else 0))
def Cluster.swho (c : Cluster) : DWord := twoWords c.ictr.toNat (c.ispo.toNat * 2 ^ 12 + c.icore.toNat)
def Cluster.stepWord (c : Cluster) : DWord :=
  c.stepReg ||| BitVec.ofNat 64 ((if c.stepping.isSome then 2 ^ 14 else 0) + c.stepRes.toNat * 2 ^ 12)

/-- A word with no gang entry (R360).
[log 85: DEDUCED, unsafe] -/
def noGang : DWord := 0x0FFFFF0000000000#64

/-- A register of a cluster's window as the debug agent reads it (R416). -/
def Cluster.read (c : Cluster) (off : Nat) : DWord :=
  if off % 8 != 0 then 0
  else if off == 0x000 then (if c.bken then 1 else 0)
  else if off == 0x010 then c.killReg
  else if off == 0x018 then c.stepWord
  else if off == 0x020 then c.shdr
  else if off == 0x028 then c.swho
  else if off == 0x030 then c.bkn.setWidth 64
  else if off == 0x040 then c.shsel
  else if off == 0x048 then c.shdata
  else if off == 0x050 then c.shst
  else if off / 0x40 == 4 then c.wpa.get 0 (off % 0x40 / 8)
  else if off / 0x40 == 5 then c.wpc.get 0 (off % 0x40 / 8)
  else if 0x400 ≤ off && off < 0x800 then c.gangs.get noGang ((off - 0x400) / 8)
  else 0

/-- The debug port as the debug agent reads it (R416). -/
def State.readDebug (s : State) (off : Nat) : DWord :=
  if off < 0x60000 then (s.cluster (off / 0x1000)).read (off % 0x1000)
  else if off % 8 != 0 then 0
  else if off == 0x60000 then s.tsCtl
  else if off / 0x40 == 0x60100 / 0x40 then (s.die (off % 0x40 / 8)).tsRing
  else if off / 0x40 == 0x60140 / 0x40 then
    let d := s.die (off % 0x40 / 8)
    lostPtr d.tsHead d.tsLost d.tsTail
  else if 0x61000 ≤ off && off < 0x61300 then (s.vf ((off - 0x61000) / 8)).pin
  else 0

end Sys2Proof.Machine
end

