-- ==== Sys2Proof/Tests/Slice0.lean ====
section
/-! SUPPORT. The model's own tests: words of the spec's worked encodings, ill-formed terms, and for each statement a state and operands
that meet its hypotheses. -/

namespace Sys2Proof.Tests
set_option maxRecDepth 4096
set_option Elab.async false
open Sys2Proof Sys2Proof.Machine

/-! ### States and helpers -/

/-- Control fields with the guard p7. -/
def c7 : Ctl := { pg := 7, pn := false, sp := false }

/-- The state right after reset with a page table for function 0: four pages of 2 MiB from virtual address 0 on, the second in the host's
memory, the others from 0x40000000 on, on die 0. -/
def mapped : State :=
  ((((State.reset.writeMem 0x1000 (bytesOf 8 0x2001)).writeMem 0x2000 (bytesOf 8 0x3001)).writeMem 0x3000 (bytesOf 8 0x4001)).writeMem
    0x4000 (bytesOf 8 0x4000000F ++ bytesOf 8 (2 ^ 51 + 15) ++ bytesOf 8 0x4040000F ++ bytesOf 8 0x4060000F)).setVf 0 { Vf.reset with ptroot := 0x1001 }

/-- A record of n bytes from base on, in a space, with further bits. -/
def rec (space base n : Nat) (bits : Nat := 0) : Rec := BitVec.ofNat 128 (base + n * 2 ^ 57 + space * 2 ^ 126 + bits)

/-- Records 1: global; 2: the block's scratchpad; 3: global of A lines; 4: clamped, empty; 5: empty; 6: cluster; 7: local;
8: global in the host's memory; 9: global where nothing is mapped; 10: global of two dimensions. -/
def recs : List Rec :=
  [0, rec 0 0x100 0x10000, rec 1 0 128, rec 0 0x100 0x10000 (2 ^ 125), rec 0 0 0 (2 ^ 124), 0, rec 2 0 128, rec 3 0 128,
    rec 0 (2 ^ 21) 0x1000, rec 0 (2 ^ 31) 0x1000, BitVec.ofNat 128 (0x100 + 1024 * 2 ^ 57 + 256 * 2 ^ 81 + 2 * 2 ^ 105)] ++ List.replicate 5 0

/-- One thread of one block, about to issue, with the records above. -/
def w1 : State :=
  (mapped.withFetchWord 64 0).modThread 0 0 fun t => { t with bufs := recs }
/-- That state with the thread and then the block changed. -/
def mk (f : Thread → Thread) (g : Block → Block := id) : State := (w1.modThread 0 0 f).modBlock 0 g
/-- Registers set. -/
def regs (l : List (Nat × Word)) (t : Thread) : Thread :=
  l.foldl (fun t p => { t with regs := t.regs.set p.1 ⟨p.2, .P⟩ }) t
/-- Registers A-typed. -/
def aRegs (l : List Nat) (t : Thread) : Thread := l.foldl (fun t p => { t with regs := t.regs.set p ⟨0, .A⟩ }) t

def curOf (s : State) : Cur :=
  s.cur.getD { b := Block.placed 0 0 0 0 Shape.one 0 0 [] [], tid := 0, t := Thread.placed 0 0 }
theorem cur_of {s : State} (h : s.cur.isSome = true) : s.cur = some (curOf s) := by
  unfold curOf
  obtain ⟨u, hu⟩ := Option.isSome_iff_exists.1 h
  rw [hu]; rfl
/-- The issuing thread passes every one of the checks. -/
def fits (s : State) (ks : List Checks) : Bool := s.cur.isSome && ks.all fun k => k.pass (curOf s).t c7
theorem ready {s : State} {ks : List Checks} (h : fits s ks = true) : ∀ k ∈ ks, Ready s (curOf s) c7 k := by
  unfold fits at h
  rw [Bool.and_eq_true, List.all_eq_true] at h
  exact fun k hk => ⟨cur_of h.1, h.2 k hk⟩
theorem ready1 {s : State} {k : Checks} (h : fits s [k] = true) : Ready s (curOf s) c7 k := ready h k List.mem_cons_self
/-- The thread that issues, its block, and what it reads. -/
abbrev u1 : Cur := curOf w1
theorem cur1 : w1.cur = some u1 := cur_of (by decide +kernel)

/-! ### Witnesses: register instructions -/

theorem test_witness_integer : ∀ k ∈ [int2 .s64 0 2 4, int1 .n32 0 2, precise [(0, 1)] [(2, 1), (4, 1)] (some (1 : PF)).toList,
    precise [(0, 2)] [(2, 2), (4, 2), (6, 2)] [], precise [] [(0, 2), (2, 2)] []], Ready w1 u1 c7 k := ready (by decide +kernel)

theorem test_witness_compares : (∀ k ∈ [precise [] [(2, 2), (4, 2)] [], precise [] [(2, 2)] [], precise [(0, 2)] [(2, 2), (4, 1)] [],
    precise [(0, 2)] [(2, 2)] [], precise [(0, 1)] [(2, 1), (4, 1), (6, 1)] [], precise [] [(0, 1), (2, 1), (4, 1), (6, 1)] []],
    Ready w1 u1 c7 k) ∧ (∃ r : Cond → Int → Int → Prop, ∀ x y, (r .eq x y ↔ x = y) ∧ (r .ne x y ↔ x ≠ y) ∧ (r .lt x y ↔ x < y)
      ∧ (r .le x y ↔ x ≤ y) ∧ (r .gt x y ↔ x > y) ∧ (r .ge x y ↔ x ≥ y)) := by
  refine ⟨ready (by decide +kernel), fun c x y => match c with
    | .eq => x = y | .ne => x ≠ y | .lt => x < y | .le => x ≤ y | .gt => x > y | .ge => x ≥ y, fun x y => by simp⟩

theorem test_witness_logic_and_bits : ∀ k ∈ [int2 .n64 0 2 4, int1 .s64 0 2, precise [(0, 1)] [(2, 2)] [], precise [(0, 2)] [(2, 2)] []],
    Ready w1 u1 c7 k := ready (by decide +kernel)

theorem test_witness_specials : (∀ k ∈ [anyTyped [(0, 2)] [], precise [] [(2, 1)] []], Ready w1 u1 c7 k) ∧
    (curOf (mk id fun b => { b with shape := { b.shape with det := true } })).b.shape.det = true ∧ u1.b.shape.det = false :=
  ⟨ready (by decide +kernel), by decide +kernel⟩

theorem test_witness_moves : ∀ k ∈ [anyTyped [(0, 1), (2, 1)] [], anyTyped [(0, 2), (2, 2), (4, 2)] [1], anyTyped [] [], precise [(0, 1)] [] [], precise [] [(0, 1)] [1], precise [] [] [1, 2, 3],
    precise [(0, 1)] [(2, 1), (4, 1)] [], precise [(0, 2)] [(2, 2), (4, 1)] [], precise [(0, 2)] [(2, 2), (4, 2)] [], int1 .s64 0 2],
    Ready w1 u1 c7 k := ready (by decide +kernel)

theorem test_witness_repeat : ∃ w : DWord, u1.t.lastSlot = false ∧ w1.codeWord u1.b (u1.t.pc + 8) = some w ∧
    rptFits u1.t.regs.length 64 0 0 0 0 w = true := ⟨0x023FFFFFFFFFFF00#64, by decide +kernel⟩
theorem test_witness_repeat_faults : (curOf (mk fun t => { t with slot := 2 })).t.lastSlot = true ∧
    (∃ w : DWord, w1.codeWord u1.b (u1.t.pc + 8) = some w ∧ rptFits u1.t.regs.length 64 4 4 4 4 w = false) :=
  ⟨by decide +kernel, ⟨0x023FFFFFFFFFFF00#64, by decide +kernel⟩⟩
theorem test_witness_repeat_step : (∃ r : Rpt, (some r = (curOf (mk fun t => { t with rpt := some ⟨2, 0, 1, 1, 1, 1⟩ })).t.rpt) ∧ r.k + 1 < r.n) ∧
    (∃ r : Rpt, (some r = (curOf (mk fun t => { t with rpt := some ⟨2, 1, 1, 1, 1, 1⟩ })).t.rpt) ∧ r.n ≤ r.k + 1) :=
  ⟨⟨⟨2, 0, 1, 1, 1, 1⟩, by decide +kernel⟩, ⟨⟨2, 1, 1, 1, 1, 1⟩, by decide +kernel⟩⟩

theorem test_witness_generator_and_keys : (∀ k ∈ [precise [(0, 1)] [] [], precise [] [(2, 2)] [], precise [] [(2, 1)] [], precise [(0, 2)] [(2, 2), (4, 2)] [],
    precise [] [(2, 2), (4, 2)] []], Ready w1 u1 c7 k) ∧ (∃ v : Bool, v = true ↔ RanksAbove .n32 true (1, 0) (0, 0)) ∧
    RanksAbove .f32 true (1, 0) (0, 0) ∧ RanksAbove .s32 false (0, 0) (0, 1) :=
  ⟨ready (by decide +kernel), ⟨true, by simp [RanksAbove, rankOf]⟩, by simp [RanksAbove, rankOf], by simp [RanksAbove, rankOf]⟩

theorem test_witness_floats : (∀ k ∈ [approx true [(0, 1)] [(2, 1), (4, 1)], approx false [(0, 1)] [(2, 1)], approx true [(0, 1)] [(2, 1), (4, 1), (6, 1)],
    approx true [(0, 1)] [(0, 1), (2, 1)], approx true [] [(2, 1), (4, 1)], approx false [] [(2, 1)], precise [(0, 1)] [(2, 1)] [],
    precise [(0, 1)] [(2, 1), (4, 1)] [], approx true [(0, 2)] [(2, 1)], approx true [] [(0, 1), (2, 1), (4, 1)]], Ready w1 u1 c7 k) ∧
    Ty.f16 ∈ arithTypes ∧ u1.b.level ≠ 8 ∧ (curOf (mk id fun b => { b with level := 8 })).b.level = 8 :=
  ⟨ready (by decide +kernel), by decide +kernel⟩

theorem test_witness_minimum : decodeF .f16 0x7E01 = .nan ∧ decodeF .f16 0x3C00 ≠ .nan ∧ (decodeF .f16 0xBC00).lt (decodeF .f16 0x3C00) = true ∧
    0x8000 = signBit .f16 ∧ 0x8000 < 2 ^ Ty.f16.bits := by decide +kernel

theorem test_witness_transcendentals : ∃ m e, decodeF .f16 0x3C01 = .num false m e ∧ Trans.special .ex2 (.num false m e) = none :=
  ⟨0x401, -10, by decide +kernel⟩

theorem test_witness_narrow : (∀ k ∈ [precise [] [(0, 1), (2, 1), (4, 1), (6, 2)] [], precise [(0, 1)] [(2, 1), (4, 1)] [],
    precise [(0, 2)] [(2, 1), (4, 1)] [], precise [(0, 4)] [(2, 1), (4, 1)] [],
    { uses := [(0, 1), (2, 1), (4, 1), (6, 1)], taint := [(4, 1), (6, 1)], ptaint := [], ap := false, fault := none }], Ready w1 u1 c7 k) ∧
    (let below (x y : Nat) : Bool := (decodeF .f16 x).lt (decodeF .f16 y)
     below 0x3C00 0x3C00 = false ∧ below 0x4000 0x3C00 = false ∧ below 0x3800 0x3C00 = true ∧ below 0x4000 0x4400 = true ∧
     decodeF .f16 0x7E00 = .nan) := ⟨ready (by decide +kernel), by decide +kernel⟩

theorem test_witness_rounding : Ty.e2m1 ∈ floatTypes ∧ 7 ≤ maxFinite .e2m1 ∧ (0 : Nat) < 5 ∧
    scaledK .e2m1 (-2) 2 < scaledM .e2m1 5 (-2) ∧ 2 * scaledM .e2m1 5 (-2) = scaledK .e2m1 (-2) 2 + scaledK .e2m1 (-2) 3 ∧
    2 * scaledM .e2m1 9 (-3) < scaledK .e2m1 (-3) 2 + scaledK .e2m1 (-3) 3 ∧
    scaledK .e2m1 (-3) 2 + scaledK .e2m1 (-3) 3 < 2 * scaledM .e2m1 11 (-3) ∧ (4096 : Int) ≤ 4096 := by decide +kernel
theorem test_witness_envelope : decodeF .e4m3 0x7F = .nan ∧ decodeF .f16 0xFC00 = .inf true ∧ 0x80 % signBit .e4m3 = 0 ∧
    decodeF .e4m3 0x01 ≠ .nan ∧ 0x01 % signBit .e4m3 ≠ 0 := by decide +kernel

/-! ### Witnesses: control flow and collectives -/

/-- A spinning thread, one with a full and one with an empty return stack, one with a rejoin entry. -/
def spins : State := mk fun t => { t with spin := { t.spin with branch := some (8, t.pc), idle := 1, dirty := false } }
def full : State := mk fun t => { t with ret := List.replicate 16 0, retSp := 256, rej := List.replicate 8 (3, 1) }

theorem test_witness_branches : (∀ k ∈ [noOperands, precise [] [(2, 1)] [], precise [] [(2, 2)] []], Ready w1 u1 c7 k) ∧
    u1.t.ret.length < 16 ∧ (u1.t.pair 2).toNat % 8 = 0 ∧ (u1.t.pair 2).toNat < 2 ^ 57 ∧ u1.t.ret = [] ∧ u1.t.retSp = 0 ∧ u1.t.mode = .normal :=
  ⟨ready (by decide +kernel), by decide +kernel⟩
theorem test_witness_spin : (∀ k ∈ [noOperands], Ready spins (curOf spins) c7 k) ∧ (let t := (curOf spins).t
    8 ≤ t.pc ∧ t.spin.branch = some (8, t.pc) ∧ t.spin.dirty = false ∧ 1 ≤ t.spin.idle ∧ t.mode = .normal ∧ branchTarget t 1 = 8) :=
  ⟨ready (by decide +kernel), by decide +kernel⟩
theorem test_witness_stacks : (∀ k ∈ [noOperands], Ready full (curOf full) c7 k) ∧ (let t := (curOf full).t
    16 ≤ t.ret.length ∧ 256 ≤ t.retSp ∧ t.ret = 0 :: List.replicate 15 0 ∧ t.rej = (3, 1) :: List.replicate 7 (3, 1) ∧ (3#4).toNat = 3 ∧
    (4#4).toNat ≠ 3 ∧ (2#4).toNat ≤ t.rej.length) := ⟨ready (by decide +kernel), by decide +kernel⟩
theorem test_witness_callr_faults : ∀ s ∈ [mk (regs [(2, 4)]), mk (regs [(3, 0x02000000)])],
    (∀ k ∈ [precise [] [(2, 2)] []], Ready s (curOf s) c7 k) ∧ (((curOf s).t.pair 2).toNat % 8 ≠ 0 ∨ 2 ^ 57 ≤ ((curOf s).t.pair 2).toNat) := by
  intro s hs
  simp only [List.mem_cons, List.mem_nil_iff, or_false] at hs
  rcases hs with rfl | rfl
  · exact ⟨ready (by decide +kernel), by decide +kernel⟩
  · exact ⟨ready (by decide +kernel), by decide +kernel⟩
theorem test_witness_rejoin : (∀ k ∈ [noOperands, precise [] [(2, 1)] []], Ready w1 u1 c7 k) ∧ u1.t.rej.length < 8 ∧ u1.t.rej = [] ∧ u1.t.rejSp = 0 :=
  ⟨ready (by decide +kernel), by decide +kernel⟩
theorem test_witness_yield : (∃ s1 : State, ((s1.core u1.b.core).quarters.get Quarter.reset (u1.tid / 32 % 4)).lead = some (u1.b.bid, u1.tid)) ∧
    (1 : BitVec 26) ≠ 0 :=
  ⟨⟨w1.modCore 0 fun k => { k with quarters := k.quarters.set 0 { Quarter.reset with lead := some (0, 0) } }, by decide +kernel⟩, by decide⟩

/-- The checks of a collective pass. -/
def meets (s : State) (m : List (G × Nat)) (k : Checks) : Bool :=
  s.cur.isSome && ((m ++ k.uses).all (curOf s).t.has && !k.guardBad (curOf s).t c7 && !m.any (curOf s).t.tainted && !k.tainted (curOf s).t)
theorem arrives {s : State} {l : List (List (G × Nat) × Checks)} (h : l.all (fun x => meets s x.1 x.2) = true) :
    ∀ x ∈ l, Arrives s (curOf s) c7 x.1 x.2 := by
  intro x hx
  have h := List.all_eq_true.1 h x hx
  simp only [meets, Bool.and_eq_true, Bool.not_eq_true'] at h
  exact ⟨cur_of h.1, h.2.1.1.1, h.2.1.1.2, h.2.1.2, fun _ => h.2.2⟩
/-- The checks of every form of collective, with its mask in register 8 or as a run. -/
def collectives : List (List (G × Nat) × Checks) :=
  let wide : Checks := { uses := [(0, 2), (2, 2), (4, 1)], taint := [(4, 1)], ptaint := [], ap := false, fault := none }
  let r := (MaskSpec.reg 8).reads
  [(r, noOperands), ([], noOperands), (r, wide), (r, approx true [(0, 1)] [(2, 1)]), (r, precise [(0, 1)] [(2, 2)] []),
    ((MaskSpec.run 1 0).reads, approx false [(0, 2)] [(2, 2)])] ++
  [r, []].flatMap fun m => [(m, precise [(0, 1)] [] [1]), (m, precise [] [] [1])]
theorem test_witness_arrivals : (∀ x ∈ collectives, Arrives w1 u1 c7 x.1 x.2) ∧ (1#32).getLsbD (u1.tid % 32) = true ∧
    (2#32).getLsbD (u1.tid % 32) = false := ⟨arrives (by decide +kernel), by decide +kernel⟩

/-- An arrival of lane l with contribution x. -/
def arr (l : Nat) (sig : CSig) (idx : Nat := 0) : Arrival :=
  { seq := 0, lane := l, tid := l, sig := sig, mask := 3, guard := true, lo := ⟨5, .P⟩, hi := ⟨0, .P⟩, idx := idx, d := 0, ps := 1, flag := none,
    site := ⟨0, 0⟩, addr := 0, last := false, bad := false, oid := l }
/-- A block whose one gang has an arrival that can meet all its mask names. -/
def met : State := mk id fun b => { b with gangs := [{ Gang.reset with arrivals := [{ arr 0 .ballot 1 with mask := 1 }] }] }
theorem test_witness_rendezvous : met.block? 0 = some (curOf met).b ∧ (curOf met).b.gangs[0]?.isSome = true ∧
    (curOf met).b.canMeet 0 { Gang.reset with arrivals := [{ arr 0 .ballot 1 with mask := 1 }] } { arr 0 .ballot 1 with mask := 1 } = true ∧
    ((curOf met).b.threads[0]?).isSome = true := by decide +kernel
theorem test_witness_answers : let x := arr 0 (.shuffle 1 true) 1
    let ps := [x, arr 1 (.shuffle 1 true) 1]
    x.d < 256 ∧ x.guard = true ∧ (ps.find? (fun y => y.lane == (x.lane ^^^ x.idx) && y.guard)) = some (arr 1 (.shuffle 1 true) 1) ∧
    ([x].find? (fun y => y.lane == 1 && y.guard)) = none ∧ (ps.map (·.lane)).Nodup ∧ (∀ y ∈ ps, y.lane < 32) ∧
    (arr 0 (.mat true)).sig = .mat true ∧ (arr 0 .any).sig = .any ∧ (arr 0 .all).sig = .all ∧ (arr 0 .ballot).sig = .ballot ∧ (arr 0 .rdv).sig = .rdv ∧
    ({ x with guard := false } : Arrival).guard = false := by decide +kernel
theorem test_witness_folds : (Ty.n64 ∈ ([.n32, .s32, .n64, .s64, .f32, .f16, .bf16] : List Ty)) ∧ (Ty.e4m3 ∈ ([.f16, .bf16, .e4m3] : List Ty)) ∧
    FoldOp.add ∈ ([.add, .min, .max] : List FoldOp) ∧ (arr 31 (.scan true .e4m3 .add true)).lane < 32 ∧ (arr 0 (.red false .n64 .add)).guard = true ∧
    (arr 0 .any).mask.getLsbD 0 = true ∧ (arr 0 .any).mask.getLsbD 2 = false := by decide +kernel

/-! ### Witnesses: memory -/

/-- The checks let an access go, and k holds of what they give. -/
def goes (p : Prep) (k : State → Acc → List Byte → TBit → Bool) : Bool :=
  match p with
  | .go s x d t => k s x d t
  | _ => false
theorem goes_to {p : Prep} {k} (h : goes p k = true) : ∃ s x d t, p = .go s x d t ∧ k s x d t = true := by
  cases p <;> simp [goes] at h
  exact ⟨_, _, _, _, rfl, h⟩
/-- The address an access stands at is on this package. -/
def nearBy (s : State) (x : Acc) (_ : List Byte) (_ : TBit) : Bool :=
  match x.pa with
  | some pa => match s.target pa with | .damask .. => false | _ => true
  | none => false
theorem near_by {s x d t} (h : nearBy s x d t = true) : ∃ pa, x.pa = some pa ∧ s.near pa := by
  unfold nearBy at h
  split at h
  · rename_i pa hp
    refine ⟨pa, hp, fun p w o e => ?_⟩
    rw [e] at h
    cases h
  · cases h
theorem goes_near {p : Prep} (h : goes p nearBy = true) : ∃ s x d t pa, p = .go s x d t ∧ x.pa = some pa ∧ s.near pa := by
  obtain ⟨s, x, d, t, e, hk⟩ := goes_to h
  obtain ⟨pa, h1, h2⟩ := near_by hk
  exact ⟨s, x, d, t, pa, e, h1, h2⟩
def faults (p : Prep) (f : Nat) : Bool := match p with | .fault c => c == f | _ => false
theorem faults_with {p : Prep} {f} (h : faults p f = true) : p = .fault f := by
  cases p <;> simp_all [faults]
def pages (p : Prep) (f : Nat) : Bool := match p with | .paged _ c => c == f | _ => false
theorem pages_with {p : Prep} {f} (h : pages p f = true) : ∃ s, p = .paged s f := by
  cases p <;> simp_all [pages]
def waits (p : Prep) : Bool := match p with | .wait _ => true | _ => false
theorem waits_in {p : Prep} (h : waits p = true) : ∃ s, p = .wait s := by
  cases p <;> simp_all [waits]

theorem test_witness_places :
    (∀ q, ¬ InBounds (rec 0 0x100 0x10000) (-1) 8 q) ∧ InBounds (rec 0 0x100 0x10000) 0xFFF8 8 0x100F8 ∧
    InBounds (recs.getD 10 0) (256 + 248) 8 (0x100 + 1024 + 248) ∧ InBounds (recs.getD 2 0) 120 8 120 ∧
    recSpace (recs.getD 2 0) = 1 ∧ recSpace (recs.getD 6 0) = 2 ∧ recSpace (recs.getD 7 0) = 3 ∧
    recBase (recs.getD 6 0) / 2 ^ 19 = u1.b.lin ∧ w1.onCluster u1.b 1 = none := by
  refine ⟨?_, .inl ?_, .inr ⟨?_, 1, 248, ?_⟩, .inl ?_, ?_⟩
  · rintro q (⟨_, h, _⟩ | ⟨h, _⟩)
    · omega
    · exact h (by decide +kernel)
  all_goals decide +kernel

/-- An access of w1's thread through record k at register 2 + disp, with what the statements put in place. -/
def acc1 (s : State) (m : MemK) (n : Nat) (lt : TBit) (k : BF) (disp : BitVec 16) (a : Nat) : Acc :=
  { s.accOf (curOf s) m k 2 disp n lt with a := a }
def ld4 : MemK := .load 0 .n32 .v1 false false
/-- What the statements ask of a global access that goes. -/
def Goes (s : State) (x : Acc) : Prop := ∃ s1 y d t pa, s.prepare (curOf s).b x = .go s1 y d t ∧ y.pa = some pa ∧ s1.near pa
theorem test_witness_loads : (∀ k ∈ [precise [(0, memRegs .n32 .v1)] [(2, 1)] [], precise [] [(2, 1)] []], Ready w1 u1 c7 k) ∧
    Goes w1 (acc1 w1 ld4 4 .P 1 8 0x108) ∧ Goes w1 (acc1 w1 (.bget 3) 16 .P 1 0 0x100) ∧
    w1.prepare u1.b (acc1 w1 ld4 4 .A 3 8 0x108) = .fault 0x21 ∧ u1.b.settledAt 124 4 ∧
    u1.b.shape.det = false ∧ w1.placeOf u1 5 2 0 4 4 = .fault 0x10 ∧ w1.placeOf u1 1 2 2 4 4 = .fault 0x11 ∧
    (w1.placeOf u1 1 2 8 4 4).chunks 4 = .global 0x108 ∧ (w1.placeOf u1 3 2 8 4 4).chunks 4 = .global 0x108 ∧ loadTy (u1.t.buf 3) = .A ∧
    (w1.placeOf u1 2 2 124 4 4).chunks 4 = .scr 0 124 ∧ w1.block? 0 = some u1.b ∧ u1.b.bid = 0 ∧ w1.placeOf u1 4 2 0 4 4 = .clamped ∧
    w1.placeOf u1 1 2 0 16 16 = .global 0x100 ∧ w1.placeOf u1 4 2 0 16 16 = .clamped ∧ w1.placeOf u1 5 2 0 16 16 = .fault 0x10 := by
  refine ⟨ready ?_, goes_near ?_, goes_near ?_, faults_with ?_, ⟨?_, ?_⟩, ?_⟩
  all_goals decide +kernel

/-- An entry of the share that is filled. -/
def ent (k : EKind) (id : Nat) (bs : List Byte) : Entry :=
  { eid := id, tid := 0, kind := k, va := 0x108, bytes := bs, filled := true, pa := 0x40000108, merged := false, appr := false,
    site := ⟨0, 0⟩, addr := 0, last := false, wid := id, sig := none, matched := false, bad := false, team := [(0, 0)] }
/-- A pending operation of the thread. -/
def pend1 (id : Nat) (k : PendK) : Pend :=
  { id := id, bid := 0, tid := 0, flag := none, kind := k, site := ⟨0, 0⟩, addr := 0, last := false, acc := none }

theorem test_witness_load_completion : let p := pend1 9 .nothing
    let l := PendK.load 0 .n32 .v1 .P [1, 2, 3, 4] (acc1 w1 ld4 4 .P 1 0 0)
    let s := { w1 with pend := [p, pend1 10 (.bget 1 .P (List.replicate 16 0)), pend1 11 (.regs [] Know.none []), pend1 12 l,
                                pend1 13 (.bget 1 .A [])] }
    let kind (id : Nat) := (s.pend.find? (fun x => x.id == id)).map (·.kind)
    s.pend.find? (fun x => x.id == 9) = some p ∧ s.block? 0 = some u1.b ∧ u1.b.thread? 0 = some u1.t ∧ p.kind = .nothing ∧
    kind 10 = some (.bget 1 .P (List.replicate 16 0)) ∧ recOk (BitVec.ofNat 128 (ofBytes (List.replicate 16 0))) = true ∧
    recOk (BitVec.ofNat 128 (ofBytes (List.replicate 16 255))) = false ∧ kind 11 = some (.regs [] Know.none []) ∧ kind 12 = some l ∧
    kind 13 = some (.bget 1 .A []) ∧ (pend1 12 l).acc = none ∧ u1.t.fault = none := by decide +kernel
theorem test_witness_landing : Ty.s8.bits = 8 ∧ Ty.n64.bits = 64 ∧ (251#8).toNat + 2 * 2 ≤ u1.t.regs.length ∧ u1.t.regs.length ≤ 255 := by decide +kernel

/-- The state with a line of A type at the first mapped page, and data of A type in register 0. -/
def tagged : State := { mk (aRegs [0]) with tags := [0x40000100 / 128] }
/-- What the statements ask of a global access whose entry goes into the share. -/
def Enters (s : State) (x : Acc) : Prop :=
  (∃ s1 y t pa, s.prepare (curOf s).b x = .go s1 y [] t ∧ y.pa = some pa ∧ s1.near pa) ∧ (∃ e, x.entry x.wid = some e ∧ (curOf s).b.overflows e = false) ∧
    (curOf s).b.alone
/-- Whether it does. -/
def enters (s : State) (x : Acc) : Bool :=
  goes (s.prepare (curOf s).b x) (fun s y d t => d.isEmpty && nearBy s y d t) && (x.entry x.wid).any (fun e => !(curOf s).b.overflows e) &&
    (curOf s).b.partner.isNone && (curOf s).b.commits.isEmpty
theorem enters_of {s : State} {x : Acc} (h : enters s x = true) : Enters s x := by
  simp only [enters, Bool.and_eq_true, Option.any_eq_true, Bool.not_eq_true', Option.isNone_iff_eq_none, List.isEmpty_iff] at h
  obtain ⟨⟨⟨h1, e, h2⟩, h3⟩, h4⟩ := h
  refine ⟨?_, ⟨e, h2⟩, h3, h4⟩
  obtain ⟨s1, y, d, t, e1, hk⟩ := goes_to h1
  rw [Bool.and_eq_true, List.isEmpty_iff] at hk
  obtain ⟨pa, a, b⟩ := near_by hk.2
  exact ⟨s1, y, t, pa, hk.1 ▸ e1, a, b⟩
theorem test_witness_stores : (∀ k ∈ [({ uses := [(0, 1), (2, 1)], taint := [(0, 1), (2, 1)], ptaint := [], ap := false, fault := none } : Checks)],
      Ready w1 u1 c7 k) ∧ Enters w1 (acc1 w1 (.store [1, 2, 3, 4] false) 4 .P 1 8 0x108) ∧ u1.b.shape.det = false ∧
    w1.placeOf u1 5 2 0 4 4 = .fault 0x10 ∧ (w1.placeOf u1 1 2 8 4 4).chunks 4 = .global 0x108 ∧ (w1.placeOf u1 2 2 124 4 4).chunks 4 = .scr 0 124 ∧
    w1.block? 0 = some u1.b ∧ (u1.b.posType 124 = .A ↔ false = true) ∧ w1.placeOf u1 4 2 0 4 4 = .clamped := by
  refine ⟨ready ?_, enters_of ?_, ?_⟩
  all_goals decide +kernel
theorem test_witness_approximate_stores : (∀ k ∈ [({ uses := [(0, 1), (2, 1)], taint := [(2, 1)], ptaint := [], ap := true, fault := none } : Checks)],
      Ready tagged (curOf tagged) c7 k) ∧ Enters tagged (acc1 tagged (.store [1, 2, 3, 4] true) 4 .P 3 8 0x108) ∧
    tagged.prepare (curOf tagged).b (acc1 tagged (.store [1, 2, 3, 4] false) 4 .P 1 8 0x108) = .fault 0x21 ∧
    ((curOf tagged).t.reg (next 0 0)).ty = .A ∧ recA ((curOf tagged).t.buf 3) = true ∧ recSpace ((curOf tagged).t.buf 1) = 0 ∧
    recA ((curOf tagged).t.buf 1) = false ∧ (let y := { u1.b with shape := { u1.b.shape with ascr := 1, pscr := 0 } }; y.posType 0 = .A) := by
  refine ⟨ready ?_, enters_of ?_, faults_with ?_, ?_⟩
  all_goals decide +kernel

theorem test_witness_records : (∀ k ∈ [precise [] [(0, 4)] [], precise [] [(2, 1)] []], Ready w1 u1 c7 k) ∧
    Enters w1 (acc1 w1 (.ltag true) 128 .P 1 0 0x100) ∧ w1.prepare u1.b (acc1 w1 (.ltag true) 128 .P 8 0 0x200000) = .fault 0x13 ∧
    recOk (u1.t.record 0) = true ∧ recOk ((curOf (mk (regs [(3, 0x0C000000)]))).t.record 0) = false ∧ recSpace (u1.t.buf 2) = 1 ∧
    recSpace (u1.t.buf 6) = 2 ∧ w1.placeOf u1 5 2 0 128 128 = .fault 0x10 ∧ w1.placeOf u1 4 2 0 128 128 = .clamped ∧
    (w1.placeOf u1 8 2 0 128 128).line = .global 0x200000 ∧ (w1.placeOf u1 1 2 0 128 128).line = .global 0x100 := by
  refine ⟨ready ?_, enters_of ?_, faults_with ?_, ?_⟩
  all_goals decide +kernel

/-- The state with an unfilled place for a store at the address of record 1. -/
def reserved : State := mk id fun b => { b with share := [{ ent .store 7 [0, 0, 0, 0] with filled := false }] }
theorem test_witness_paging : (∀ k ∈ [precise [(0, memRegs .n32 .v1)] [(2, 1)] [], precise [] [(0, memRegs .n32 .v1), (2, 1)] []], Ready w1 u1 c7 k) ∧
    (∃ s, w1.prepare u1.b (acc1 w1 ld4 4 .P 9 0 0x80000000) = .paged s 1) ∧
    (∃ s, w1.prepare u1.b (acc1 w1 (.store [0, 0, 0, 0] false) 4 .P 9 0 0x80000000) = .paged s 1) ∧
    (∃ s, { reserved with ids := 8 }.prepare (curOf reserved).b (acc1 { reserved with ids := 8 } ld4 4 .P 1 8 0x108) = .wait s) ∧
    ((acc1 w1 (.store [0, 0, 0, 0] false) 4 .P 9 0 0x80000000).entry w1.ids).any (fun e => !u1.b.overflows e && !e.filled) = true ∧
    w1.pktFaults = [] ∧ u1.b.shape.det = false ∧ (w1.placeOf u1 9 2 0 4 4).chunks 4 = .global 0x80000000 := by
  refine ⟨ready ?_, pages_with ?_, pages_with ?_, waits_in ?_, ?_⟩
  all_goals decide +kernel
theorem test_witness_replay : let a := acc1 w1 ld4 4 .P 1 8 0x108
    let q : OpEntry := { id := 5, vf := 0, seq := 0, core := 0, acc := some a, waiter := .access 5, replay := true, bad := false }
    let s := { w1 with oplog := [q] }
    (∃ s1 x d t pa, (State.eccReads 0 0 1 (s.dropWaiter 5)).prepare u1.b { a with pkt := 0 } = .go s1 x d t ∧ x.pa = some pa ∧ s1.near pa) ∧
    s.oplog.find? (fun o => o.id == 5 && o.replay) = some q ∧ s.block? 0 = some u1.b ∧ s.replayReady u1.b a = true ∧ a.homed = false ∧
    s.pktFaults = [] := by
  intro a q s
  exact ⟨goes_near (by decide +kernel), by decide +kernel⟩

theorem clear1 : u1.b.clear := by unfold Block.clear; decide +kernel
theorem test_witness_atomics : (∀ k ∈ [precise [(0, 2)] [(2, 1), (4, 4)] [], precise [] [(2, 1), (4, 2)] [], precise [(0, 2)] [(2, 1)] []], Ready w1 u1 c7 k) ∧
    Goes w1 (acc1 w1 (.atom 0 .cas .n64 0 0 .acqrel .dev) 8 .P 1 0 0x100) ∧ Goes w1 (acc1 w1 (.acq 0 .dev) 8 .P 1 0 0x100) ∧
    Goes w1 (acc1 w1 (.rel 1 true .sys) 8 .P 1 0 0x100) ∧ Enters w1 (acc1 w1 (.red .add .n64 (bytesOf 8 1)) 8 .P 1 0 0x100) ∧ u1.b.clear ∧
    w1.inReplay u1.b = false ∧ u1.b.partner = none ∧ w1.placeOf u1 5 2 0 8 8 = .fault 0x10 ∧ w1.placeOf u1 1 2 0 8 8 = .global 0x100 ∧
    recSpace (u1.t.buf 1) = 0 ∧ recSpace (u1.t.buf 2) = 1 ∧ w1.placeOf u1 2 2 0 8 8 = .scr 0 0 ∧ w1.block? 0 = some u1.b ∧ u1.b.posType 0 = .P := by
  refine ⟨ready ?_, goes_near ?_, goes_near ?_, goes_near ?_, enters_of ?_, clear1, ?_⟩
  all_goals decide +kernel
theorem test_witness_atomic_values : (7 : Nat) < 2 ^ Ty.s32.bits ∧ (0xFFFFFFFF : Nat) < 2 ^ Ty.s32.bits ∧
    (BitVec.ofNat 32 0xFFFFFFFF).toInt < (BitVec.ofNat 32 7).toInt ∧ rank .f32 0x80000000 < rank .f32 0 := by decide +kernel

/-- The state with an arrival word of target 2, count 1, generation 3 at position 0 of the bank, or broken. -/
def word (w : Nat) : State := mk id fun b => { b with scr := (List.range 8).map fun i => (i, (bytesOf 8 w).getD i 0) }
def count (brk : Bool) : State := word (mkWord 2 1 3 brk)
/-- The same with a thread that waits for generation 3. -/
def inUse : State := (count false).modBlock 0 fun b => { b with threads := b.threads ++ [{ Thread.placed 255 0 with park := .awt 0 0 0 3 none }] }
theorem test_witness_words : (∀ k ∈ [precise [] [(2, 1)] [], precise [] [(2, 1), (4, 1)] []], Ready w1 u1 c7 k) ∧ w1.block? 0 = some u1.b ∧
    u1.b.posType 0 = .P ∧ w1.wordPlace u1 2 0 2 = .scr 0 0 ∧ wCounts ((curOf (word 0)).b.word 0) = false ∧
    w1.locate u1.b u1.tid (u1.t.buf 2) (offsetOf (u1.t.val 2) (0#16).toInt) 8 8 = .scr 0 0 ∧
    wCounts ((curOf (count false)).b.word 0) = true ∧ wBrk ((curOf (count false)).b.word 0) = false ∧ wGen ((curOf (count false)).b.word 0) = 3 ∧
    wBrk ((curOf (count true)).b.word 0) = true ∧ wV ((curOf inUse).b.word 0) = true ∧ inUse.hasWaiter 0 0 = true ∧
    w1.wordPlace u1 5 0 2 = .fault 0x10 ∧ w1.wordPlace u1 1 0 2 = .global 0x100 ∧ w1.wordPlace u1 4 0 2 = .clamped ∧
    (2 : Nat) ^ 24 - 1 < 2 ^ 24 := ⟨ready (by decide +kernel), by decide +kernel⟩

/-- A binding table of two entries at 0x5000. -/
def bound : State := w1.setVf 0 { w1.vf 0 with bindt := 0x5011#64 }
def bindChecks (u : Cur) (v b : G) : Checks :=
  { uses := [(v, 4), (b, 1)], taint := (b, 1) :: (next v 3, 1) :: (if u.t.nat (next v 3) = 2 then [(next v 3, 1)] else [(v, 4)]), ptaint := [],
    ap := false, fault := none }
/-- A BIND that adds an entry and one that clears them, on their way. -/
def binding : State := { bound with pend := [pend1 9 (.bind 0 0x100 0x80 128 0), pend1 10 (.bind 0 0x100 0x80 128 2)] }
theorem test_witness_binding : (∀ k ∈ [bindChecks u1 4 2], Ready w1 u1 c7 k) ∧ (binding.mem = bound.mem ∧ Memory.wf binding.mem = true) ∧
    recSpace (u1.t.buf 1) = 0 ∧ recSpace (u1.t.buf 2) ≠ 0 ∧ w1.placeOf u1 1 2 0 8 8 = .global 0x100 ∧ w1.placeOf u1 4 2 0 8 8 = .clamped ∧
    w1.placeOf u1 5 2 0 8 8 = .fault 0x10 ∧ u1.t.nat (next 4 2) = 0 ∧ (w1.vf 0).bindt.getLsbD 0 = false ∧ (bound.vf 0).bindt.getLsbD 0 = true ∧
    (w1.bindsPending 0 = 0 ∧ ringSize (bound.vf 0).bindt = 2 ∧ bound.bindsPending 0 < bound.bindsFree 0 ∧ binding.bindsFree 0 ≤ binding.bindsPending 0 + 1) ∧
    (let t := (curOf (mk (regs [(6, 128)]))).t; t.nat (next 4 3) = 0 ∧ (t.pair 4).toNat % 128 = 0 ∧ t.nat (next 4 2) = 128) ∧
    (binding.pend.find? (fun x => x.id == 9) = some (pend1 9 (.bind 0 0x100 0x80 128 0)) ∧ binding.block? 0 = some u1.b ∧ u1.b.thread? 0 = some u1.t ∧
      (binding.bindEntry 0 1).1 = 0) ∧ binding.pend.find? (fun x => x.id == 10) = some (pend1 10 (.bind 0 0x100 0x80 128 2)) := by
  refine ⟨ready ?_, ?_⟩
  all_goals decide +kernel

def fenced : State := mk fun t => { t with park := .fence .acqrel .dev false }
def barred : State := mk fun t => { t with park := .bar }
theorem clear_fenced : (curOf fenced).b.clear := by unfold Block.clear; decide +kernel
theorem test_witness_ordering : (∀ k ∈ [noOperands], Ready w1 u1 c7 k) ∧ (u1.b.clear ∧ (curOf fenced).b.clear) ∧ u1.b.shape.det = false ∧
    (u1.t.pred c7.pg).ty = .P ∧ w1.inReplay u1.b = false ∧ (curOf (mk id fun b => { b with shape := { b.shape with det := true } })).b.shape.det = true ∧
    acquires .acqrel = true ∧ ((curOf (mk fun t => { t with preds := t.preds.set 0 ⟨true, .A⟩ })).t.pred 0).ty = .A ∧
    fenced.block? 0 = some (curOf fenced).b ∧ (curOf fenced).b.thread? 0 = some (curOf fenced).t ∧ (curOf fenced).t.park = .fence .acqrel .dev false ∧
    fenced.idle 0 0 = true ∧ fenced.inReplay (curOf fenced).b = false ∧ barred.block? 0 = some (curOf barred).b ∧
    barred.barReady (curOf barred).b = true ∧ (curOf barred).t.life = .live :=
  ⟨ready (by decide +kernel), ⟨clear1, clear_fenced⟩, by decide +kernel⟩

/-- A commit in progress over two entries of different lines. -/
def committing (k : EKind) : State :=
  let c : Commit := { cid := 9, scope := .sys, explicit := true, set := some [7, 8], cont := .exit 0 }
  mk id fun b => { b with share := [ent k 7 [1, 2, 3, 4], { ent .store 8 [1] with va := 0x208, pa := 0x40000208 }], commits := [c] }
theorem test_witness_commit : ∀ k ∈ ([.store, .red .add .n32, .ltag true false] : List EKind), let s := committing k
    let b := (curOf s).b
    s.block? 0 = some b ∧ b.commits.map (·.set) = [some [7, 8]] ∧ b.share.find? (fun x => x.eid == 7) = some (ent k 7 [1, 2, 3, 4]) ∧
    s.mayPerform b (ent k 7 [1, 2, 3, 4]) [7, 8] = true ∧ b.trailing = false ∧ b.shape.det = false ∧
    b.lineOf (ent k 7 [1, 2, 3, 4]) = [ent k 7 [1, 2, 3, 4]] ∧
    nearBy s (acc1 s ld4 4 .P 1 0 0 |> fun a => { a with pa := some 0x40000108 }) [] .P = true ∧
    (s.reach (dieOf b.core) 0x40000108).1 = true ∧ s.tag 0x40000108 = .P := by decide +kernel

/-! ### Witnesses: futures and engines -/

/-- An engine's control with a handle. -/
def eng : Eng := { hw := true, h := 1, acq := false, rel := false, sc := .dev }
def stat (n : Nat) (st : Option Byte) : Stat := { serial := n, status := st, rel := false, cmd := 40, lines := [] }
/-- A block whose command 4 is in flight, with the handles of its thread pending, complete and idle. -/
def handles (st : Option Byte) : State :=
  let hs : List Handle := [.pending 4 40, .complete 0 (stat 3 (some 0)), .complete 2 (stat 2 (some 2)), .idle] ++ List.replicate 4 .idle
  mk (fun t => { t with hands := hs }) fun b => { b with serial := 5, stats := [stat 4 st] }
theorem test_witness_futures : (∀ k ∈ [precise [(0, 1)] [] [], precise [(0, 1)] [(2, 1)] [], precise [] [(2, 1)] [], noOperands], Ready w1 u1 c7 k) ∧
    u1.t.hand 1 = .idle ∧ (let t := (curOf (handles none)).t
      t.hand 0 = .pending 4 40 ∧ t.hand 1 = .complete 0 (stat 3 (some 0)) ∧ t.hand 2 = .complete 2 (stat 2 (some 2))) ∧
    (curOf (handles none)).b.stat? 4 = some (stat 4 none) ∧
    (∀ st ∈ [none, some 0, some (2 : Byte)], (curOf (handles st)).b.resolve 0x80000004#32 = some (stat 4 st)) ∧
    (0x80000004#32).getLsbD 31 = true ∧ (0x80000004#32).toNat / 2 ^ 26 % 32 = (curOf (handles none)).b.ridx % 32 ∧
    u1.b.resolve 0x80000004#32 = none ∧ (0#32).getLsbD 31 = false := ⟨ready (by decide +kernel), by decide +kernel⟩

theorem engine_ready {s : State} {e : Eng} {r : List (G × Nat)} (h : fits s [precise [] r []] = true) (ha : e.acq = false) :
    engineReady s (curOf s) c7 e r := ⟨ready h _ (by simp), fun _ h => absurd h (by rw [ha]; decide)⟩
theorem test_witness_engines : engineReady w1 u1 c7 eng [] ∧ engineReady w1 u1 c7 eng [(2, 1), (4, 1)] ∧ engineReady w1 u1 c7 eng [(2, 1)] ∧
    (∀ n cmd, u1.t.hand 1 ≠ .pending n cmd) ∧ u1.b.partner = none ∧ u1.b.shape.det = false ∧ (curOf (handles none)).t.hand 0 = .pending 4 40 ∧
    (curOf (mk id fun b => { b with shape := { b.shape with det := true } })).b.shape.det = true ∧
    recSpace ((curOf (mk id fun b => { b with shape := { b.shape with det := true } })).t.buf 6) = 2 := by
  refine ⟨engine_ready ?_ rfl, engine_ready ?_ rfl, engine_ready ?_ rfl, fun n cmd => ?_, ?_⟩
  case refine_4 =>
    rw [show u1.t.hand 1 = .idle by decide +kernel]
    exact fun h => by cases h
  all_goals decide +kernel

/-- A command of the matrix engine in block 0, with parameters or elements at position 0 of an 8 KiB bank. -/
def mcmd (k : MCmdK) (rows : Word) (acc : Bool) (off : Int := 0) : MCmd :=
  { id := 40, bid := 0, tid := 0, kind := k, e := eng, img := rec 1 0 8192, off := off, rows := rows, serial := 4, flag := none, site := ⟨0, 0⟩,
    accepted := acc, tab := [], know := Know.none, cancel := false, after := [], par := none, range := [], took := [], refused := false,
    started := none, team := [(0, 0)] }
/-- The block with a 8 KiB bank whose first 64 bytes are the parameters of a product of 32 by 32 by 32 signed bytes. -/
def matrixState (m : MCmd) (w : Nat) (held : List (Nat × Nat × List Word) := []) : State :=
  (mk id fun b => { b with
    shape := { b.shape with pscr := 64 }
    scr := (List.range 64).map fun i => (i, (bytesOf 64 w).getD i 0) }).modCore 0 fun k => { k with mq := [m], rows := held }
def product : Nat := 1024 + 2048 * 2 ^ 32 + 32 * 2 ^ 128 + 32 * 2 ^ 144 + 32 * 2 ^ 160 + Ty.s8.code.toNat * 2 ^ 192 + Ty.s8.code.toNat * 2 ^ 200
theorem test_witness_matrix_accept : ∀ a ∈ [false, true], let m := mcmd .azr 0 a
    (matrixState m 0).matrixCmd? 40 = some (0, m) ∧ (matrixState m 0).block? 0 = some (curOf (matrixState m 0)).b ∧
    ((matrixState m 0).core 0).canAccept m = !a ∧ (matrixState m 0).canRun 0 m = a := by decide +kernel
theorem test_witness_matrix : ∀ k ∈ ([.mop, .azr, .ald .f32, .ast .f32 false .rne] : List MCmdK), let m := mcmd k 0x00010000#32 true
    let s := matrixState m product
    let b := (curOf s).b
    s.matrixCmd? 40 = some (0, m) ∧ s.canRun 0 m = true ∧ b.hist = [] ∧ s.injCtl.getLsbD 0 = false ∧ m.cancel = false ∧ rowRange m.rows = some (0, 2) ∧
    m.place b 64 = some 0 ∧ m.place b (2 * 16 * 32) = some 0 ∧ (s.core 0).badElems = [] ∧ b.killed = false ∧ m.bid = b.bid ∧
    ((readParams (b.bank 0 64)).map fun p => m.mopStatus p (s.core 0) b) = some 0 ∧ (s.core 0).rowsTaken 0 0 2 = false ∧
    (matrixState m product [(0, 0, []), (1, 0, [])] |>.core 0).rowsMissing 0 0 2 = false ∧ (s.core 0).rowsMissing 0 0 2 = true := by decide +kernel
theorem test_witness_matrix_faults : (mcmd .mop 0 true 32).place (curOf (matrixState (mcmd .mop 0 true) 0)).b 64 = none ∧
    readParams ((curOf (matrixState (mcmd .mop 0 true) 0)).b.bank 0 64) = none ∧ rowRange 0x80000000#32 = none ∧
    (matrixState (mcmd .azr 0 true) 0 [(0, 9, [])] |>.core 0).rowsTaken 0 0 1 = true ∧
    ((readParams (bytesOf 64 product)).map fun p => (mcmd .mop 0 true).mopStatus p Core.reset u1.b) = some 0x41 := by decide +kernel

/-- A transfer command of block 0. -/
def xcmd (k : XK) (acc : Bool) (ls : List XLine) (aw : Nat := 0) : XCmd :=
  { id := 40, bid := 0, tid := 0, kind := k, e := eng, drec := rec 1 0 8192, srec := rec 1 0 8192, aw := aw, serial := 4, flag := none, site := ⟨0, 0⟩, addr := 0,
    accepted := acc, gen := 0, globalDst := false, lines := ls, orphan := false, poison := false, cancel := false, ended := none, after := [], turn := false,
    know := Know.none, pkt := 0, twin := none, got := [], paid := 0, bad := none, team := [(0, 0)] }
def xline (landed : Bool) : XLine :=
  { idx := 0, moves := [(.scr 0 0x400, .byte 0x200 (.scr 0 0x200)), (.scr 0 0x401, .pad 7)], landed := landed, held := false, failed := false, lost := [] }
def copying (c : XCmd) : State := { (mk id fun b => { b with shape := { b.shape with pscr := 64 } }) with xq := [c] }
theorem test_witness_copies : let c := xcmd (.lin 1024 0 128 0) false []
    let d := xcmd (.lin 1024 0 128 0) true [xline false]
    (copying c).xq.find? (fun x => x.id == 40) = some c ∧ (copying c).block? 0 = some (curOf (copying c)).b ∧ (curOf (copying c)).b.partner = none ∧
    (copying c).canAcceptX c = true ∧ (match (State.plan (copying c) (curOf (copying c)).b c).1 with | .ok ls => ls != [] | .error _ => false) = true ∧
    (match (State.plan (copying c) (curOf (copying c)).b (xcmd (.lin (2 ^ 14) 0 128 0) false [])).1 with | .ok _ => false | .error e => e == 0x50) = true ∧
    (copying d).canAcceptX d = false ∧ d.lines.find? (fun x => x.idx == 0) = some (xline false) ∧ (copying d).canLand d (xline false) = true ∧
    ((copying d).takeToken 0 0).isSome = true ∧ (curOf (copying d)).b.hist = [] ∧ d.got = [] ∧ ((xline false).moves.map (·.1)).Nodup ∧
    (∀ x ∈ (xline false).reads, ∀ y ∈ (xline false).reads, x.1 = y.1 → x.2 = y.2) ∧ 0x200 < (curOf (copying d)).b.pbytes := by decide +kernel
theorem test_witness_copy_ends : let d := xcmd (.lin 1024 0 128 0) true [xline false]
    let e := xcmd (.lin 1024 0 128 0) true [xline true]
    let ends (c : XCmd) : Bool := (copying c).canEndX c
    ends d = false ∧ ends e = true ∧ e.ended = none ∧ ends { e with ended := some 1 } = true ∧ ends { d with cancel := true } = true ∧
    d.lines.any (fun l => !l.landed) = true := by decide +kernel
/-- A rotation takes its place in its round, be its plan good or not. -/
theorem test_witness_rotations : let c := xcmd (.rot 0x400 128 3 5) false []
    let d := xcmd (.rot 0x4000 128 3 5) false []
    (copying c).canAcceptX c = true ∧ (copying d).canAcceptX d = true ∧ c.kind.joins 0 = true ∧ d.kind.joins 0 = true ∧
    (match (State.plan (copying d) (curOf (copying d)).b d).1 with | .ok _ => false | .error _ => true) = true := by decide +kernel

/-- Two blocks of one launch on cores 0 and 1 of cluster 0, with a ring of 128-byte tiles. -/
def ring : State :=
  let c := xcmd (.rot 0x400 128 3 5) true [] 0
  let s := mk id fun b => { b with shape := { b.shape with pscr := 64 } }
  let b := (curOf s).b
  { s with blocks := [b, { b with bid := 1, core := 1 }], xq := [c, { c with id := 41, bid := 1 }] }
theorem test_witness_ring : let c := xcmd (.rot 0x400 128 3 5) true [] 0
    let ms := [c, { c with id := 41, bid := 1 }]
    ring.ringReady 0 3 5 = some ms ∧ (∀ c ∈ ms, c.kind.tile.2 = 128 ∧ c.bad = none) ∧ ms.map (fun c => ring.block? c.bid) = ring.blocks.map some ∧
    (ms.map (·.bid)).Nodup ∧ (∀ b ∈ ring.blocks, b.partner = none ∧ b.hist = [] ∧ c.kind.tile.1 + 128 ≤ b.pbytes ∧ (ring.vf b.vf).refill = 0) ∧
    c.aw + 8 ≤ c.kind.tile.1 := by decide +kernel
def bucket : State := w1.setVf 0 { w1.vf 0 with xbkt := 0x0000400000000010#64 }
theorem test_witness_refill : (List.range 96).filter (fun f => (bucket.vfs.any (fun p => p.1 == f)) && (bucket.vf f).refill != 0) = [0] := by decide +kernel

/-- A collective over one rank: its group straddles the first two pages, SRC and DST stand in the next two. -/
def ccmd (desc : List Byte) (cancel held : Bool) : CCmd :=
  { id := 40, bid := 0, tid := 0, kind := .ar, op := .add, t := .n32, e := eng, desc := desc, serial := 4, site := ⟨0, 0⟩, cancel := cancel, held := held,
    ended := none, after := [], twin := none, out := none }
def goodDesc : List Byte := bytesOf 8 0x400000 ++ bytesOf 8 0x600000 ++ bytesOf 8 0x1FFFF8 ++ bytesOf 8 1 ++ List.replicate 32 0
def reducing (c : CCmd) : State := { w1 with ccols := [c], memo := some { leaves := [], copies := [], seen := [] } }
/-- What the good descriptor says. -/
def theDesc : CDesc := { src := 0x400000, dst := 0x600000, group := 0x1FFFF8, count := 1, k := 0 }
def headMap : Except (Nat × Nat × Bool) (List (Nat × Nat)) × State :=
  State.xlate ioDie 0 ((runLines theDesc.group 8).map (fun l => (l, false))) (reducing (ccmd goodDesc false false))
def bodyMap : Except (Nat × Nat × Bool) (List (Nat × Nat)) × State :=
  State.xlate ioDie 0 ((distinct (runLines (theDesc.group + 8) 2 ++ runLines theDesc.src 4)).map (fun l => (l, false))
    ++ (runLines theDesc.dst 4).map (fun l => (l, true))) headMap.2
def lastMap : Except (Nat × Nat × Bool) (List (Nat × Nat)) × State :=
  State.xlate ioDie 0 ((runLines theDesc.dst 4).map (fun l => (l, true))) bodyMap.2
def ok? (e : Except (Nat × Nat × Bool) (List (Nat × Nat))) : Bool := match e with | .ok _ => true | .error _ => false
def okMap (e : Except (Nat × Nat × Bool) (List (Nat × Nat))) : List (Nat × Nat) := match e with | .ok m => m | .error _ => []
theorem test_witness_collectives : (∀ c ∈ [ccmd goodDesc true false, ccmd goodDesc false true, ccmd [] false false, ccmd goodDesc false false],
      (reducing c).ccols.find? (fun x => x.id == 40) = some c ∧ (reducing c).block? 0 = some u1.b ∧ c.ended = none ∧ c.out = none ∧
      (reducing c).linesAway 40 = false ∧ c.e.acq = false) ∧ u1.b.commits = [] ∧ u1.b.partner = none := by decide +kernel
set_option exponentiation.threshold 600 in
theorem test_witness_collective_descriptors : ccolDesc .ar [] = none ∧ ccolDesc .ar goodDesc = some theDesc := ⟨rfl, rfl⟩
theorem test_witness_collective_ends : ok? headMap.1 = true ∧ ok? bodyMap.1 = true ∧ ok? lastMap.1 = true ∧
    headMap.2.localRun (okMap headMap.1) theDesc.group 8 = true ∧
    groupHead (ofBytes (headMap.2.gather (okMap headMap.1) theDesc.group 8)) = some (1, 0) ∧ Machine.ccolOk .ar 1 1 0 = true ∧
    bodyMap.2.localRun (okMap bodyMap.1) theDesc.src 4 = true ∧ lastMap.2.localRun (okMap lastMap.1) theDesc.dst 4 = true ∧
    (bodyMap.2.gather (okMap bodyMap.1) theDesc.src 4).length = 4 ∧ Memory.wf (reducing (ccmd goodDesc false false)).mem = true ∧
    ccolBytes .ar .n32 1 1 0 = 4 ∧ (let place (i : Nat) := physLine (okMap lastMap.1) ((theDesc.dst + i) / 128) * 128 + (theDesc.dst + i) % 128
      ∀ i ∈ List.range 4, ∀ j ∈ List.range 4, place i = place j → i = j) := by decide +kernel

/-! ### Witnesses: exceptions, system registers, launches -/

/-- Function 0 with its handler enabled at 0x1000. -/
def handled (s : State) : State := s.setVf 0 { s.vf 0 with xvec := 0x1001#64 }
def inTrap : State := handled (mk fun t => { t with mode := .trap, xpc := 0x8000000000000040#64 })
def waiting : State := handled (mk fun t => { t with fault := some { code := 0x12, addr := 64, last := false, site := ⟨0, 0⟩ } })
theorem test_witness_exceptions : w1.cur = some u1 ∧ (handled w1).cur.isSome = true ∧ ((handled w1).vf u1.b.vf).xvec.getLsbD 0 = true ∧ u1.t.mode ≠ .trap ∧
    u1.t.slot < 8 ∧ (w1.vf u1.b.vf).xvec.getLsbD 0 = false ∧ u1.b.phase ≠ .gone ∧ (curOf inTrap).t.mode = .trap ∧ inTrap.cur.isSome = true ∧
    (curOf waiting).t.fault.isSome = true ∧ waiting.cur.isSome = true ∧ w1.pktFaults = [] := by
  refine ⟨cur1, by decide +kernel⟩
theorem test_witness_traps : (∀ k ∈ [noOperands], Ready w1 u1 c7 k) ∧ (∀ k ∈ [noOperands], Ready (handled w1) (curOf (handled w1)) c7 k) ∧
    (∀ k ∈ [noOperands], Ready inTrap (curOf inTrap) c7 k) ∧ (let x := (curOf inTrap).t.xpc
      x.toNat / 2 ^ 61 % 4 = 0 ∧ x.toNat % 8 = 0 ∧ x.getLsbD 63 = true ∧ x.toNat / 2 ^ 57 % 8 = 0) ∧ (w1.cluster (clusterOf u1.b.core)).bken = false ∧
    ((w1.setCluster 0 { Cluster.reset with bken := true }).cluster (clusterOf u1.b.core)).bken = true ∧
    (let x := (curOf (mk fun t => { t with mode := .trap })).t.xpc; x.getLsbD 63 = false ∧ x.toNat / 2 ^ 57 % 8 = 0) :=
  ⟨ready (by decide +kernel), ready (by decide +kernel), ready (by decide +kernel), by decide +kernel⟩
theorem test_witness_system_registers : (∀ k ∈ [precise [(0, 2)] [] [], precise [] [(2, 2)] []], Ready w1 u1 c7 k) ∧
    (∀ k ∈ [precise [(0, 2)] [] [], precise [] [(2, 2)] []], Ready inTrap (curOf inTrap) c7 k) ∧ (0x10001 : Nat) / 2 ^ 16 = 1 ∧ (0x17F#26).toNat % 2 ^ 16 = 0x17F ∧
    u1.b.shape.det = false := ⟨ready (by decide +kernel), ready (by decide +kernel), by decide +kernel⟩

/-- A counter that runs. -/
def ctr (lv : Level) (num : Nat) (v : Word := 0) (st : CState := .running) : Counter :=
  { vf := 0, level := lv, num := num, value := v, left := 2, state := st, cancel := false, parent := none, counted := false }
/-- The launch record of 5 blocks of one thread, and its bytes. -/
def launchBytes : List Byte :=
  bytesOf 64 (0x100 + 8 * 2 ^ 280 + 2 ^ 288 + 2 ^ 256 + 128 * 2 ^ 362 + 5 * 2 ^ 384 + 2 ^ 405 + 2 ^ 426)
def shape5 : Shape := (launchShape launchBytes).getD Shape.one
/-- A launch of the block's, numbered n. -/
def lnch (n : Nat) (sh : Shape := Shape.one) : Launch :=
  { obj := n, vf := 0, ctr := 0, graph := 50, node := none, shape := sh, next := 1, turn := 0, wdog := 32, count := 0, slack := 256, retry := 0, pin := 0,
    born := 0, runSum := 0, runCnt := 0 }
def grph : Graph := { obj := 50, vf := 0, ctr := some 3, phase := 51, va := 0x200, nodes := [(0x1000, 0, .due)] }
/-- The block with its launch, its graph and their counters, and launch records in memory. -/
def launched : State :=
  { (w1.writeMem 0x40001000 launchBytes) with launches := [lnch 1], graphs := [grph], counters := [ctr .launch 0, ctr .graph 3] }
/-- The same about to launch the record at 0x1000, with n launch counters in use. -/
def launching (n : Nat) : State :=
  { launched.modThread 0 0 (regs [(2, 0x1000)]) with counters := ctr .graph 3 :: (List.range n).map (ctr .launch) }
theorem test_witness_launch_issue : (∀ k ∈ [precise [(0, 1)] [(2, 2)] [], precise [] [(2, 1)] [], precise [] [(2, 1), (4, 1)] []], Ready w1 u1 c7 k) ∧
    (let s := launching 1
     let u := curOf s
     Ready s u c7 (precise [(0, 1)] [(2, 2)] []) ∧ Goes s { s.lnchAcc u 0 2 with a := 0x1000 } ∧ (u.t.pair 2).toNat = 0x1000 ∧ s.due = [] ∧
      s.lnchNext u.lnchDue = true ∧ 0 < s.freeCount .launch ∧ u.b.partner = none) ∧
    (let s := launching (capOf .launch)
     let u := curOf s
     Ready s u c7 (precise [(0, 1)] [(2, 2)] []) ∧ Goes s { s.lnchAcc u 0 2 with a := 0x1000 } ∧ s.lnchNext u.lnchDue = false) ∧
    w1.prepare u1.b { w1.lnchAcc u1 0 2 with a := 0 } = .fault 0x70 ∧
    w1.handle? 0 (u1.t.val 2) = none ∧ u1.b.shape.det = false := by
  refine ⟨ready ?_, ⟨ready1 ?_, goes_near ?_, ?_⟩, ⟨ready1 ?_, goes_near ?_, ?_⟩, faults_with ?_, ?_⟩
  all_goals decide +kernel
theorem test_witness_launch_control : let u := curOf launched
    (∀ k ∈ [precise [] [(2, 1)] [], precise [] [(2, 1), (4, 1)] []], Ready launched u c7 k) ∧ launched.handle? 0 (u.t.val 2) = some (ctr .launch 0) ∧
    handleLevel (u.t.val 2) = .launch ∧ launched.launches.find? (fun l => l.vf == 0 && l.ctr == handleNum (u.t.val 2)) = some (lnch 1) ∧
    launched.launch? 1 = some (lnch 1) ∧ launched.runs 0 .launch 0 = true ∧
    ({ launched with launches := [] } : State).launches.find? (fun l => l.vf == 0 && l.ctr == handleNum (u.t.val 2)) = none ∧
    launched.inReplay u.b = false := ⟨ready (by decide +kernel), by decide +kernel⟩
theorem clear_launched : (curOf launched).b.clear := by unfold Block.clear; decide +kernel
/-- A thread that waits on counter 0 for a value, or for its end. -/
def counting (p : Park) (k : Counter) : State := { mk (fun t => { t with park := p }) with counters := [k] }
theorem test_witness_counter_waits : ∀ k ∈ [ctr .launch 0 5, ctr .launch 0 (-1), ctr .launch 0 (-1) .cancelled, ctr .launch 0 0 .done],
    ∀ p ∈ [Park.cwtVal 1 0 0 false .dev, Park.cwtDone 1 0], let s := counting p k
    s.block? 0 = some (curOf s).b ∧ (curOf s).b.thread? 0 = some (curOf s).t ∧ s.handle? 0 0 = some k ∧ (curOf s).t.park = p := by decide +kernel
theorem test_witness_launch_start : let p := pend1 9 (.lnch 0 0x1000 launchBytes)
    let s := { launched with pend := [p] }
    s.pend.find? (fun x => x.id == 9) = some p ∧ s.block? 0 = some (curOf s).b ∧ (curOf s).b.thread? 0 = some (curOf s).t ∧
    launchShape launchBytes = some shape5 ∧ s.launch? (curOf s).b.launch = some (lnch 1) ∧ s.graph? 50 = some grph ∧ s.counter? 0 .graph 3 = some (ctr .graph 3) ∧
    (({ s with counters := [ctr .graph 3] } : State).freeNum .launch).1.isSome = true ∧ shape5.nx = 5 := by decide +kernel

theorem test_witness_voltages : (∀ k ∈ [precise [] [(2, 1)] [], noOperands], Ready w1 u1 c7 k) ∧ u1.b.rising = none ∧ (u1.t.val 2).toNat = 0 ∧
    ((curOf (mk (regs [(2, 450)]))).t.val 2).toNat = 450 ∧ 450 ≤ u1.b.volt ∧ u1.b.shape.det = false ∧ u1.b.resident = true :=
  ⟨ready (by decide +kernel), by decide +kernel⟩
/-- The block with a request of v mV, on a rail of 450. -/
def requesting (v : Nat) (r : Option (Nat × List (Nat × Nat × Option Nat))) : State :=
  (mk id fun b => { b with volt := v, rising := r }).modCore 0 fun k => { k with rail := 450 }
theorem test_witness_voltages_climb : (curOf (requesting 700 (some (700, [(9, 0, none)])))).b.rising = some (700, [(9, 0, none)]) ∧
    (curOf (requesting 700 (some (700, [(9, 0, none)])))).b.volt = 700 ∧ (curOf (requesting 450 none)).b.volt < 750 ∧
    ((requesting 450 none).core (curOf (requesting 450 none)).b.core).rail < 750 := by decide +kernel
theorem test_witness_rail : let s := requesting 750 (some (750, []))
    (s.core 0).rail < 700 ∧ 700 ≤ s.request 0 ∧ s.block? 0 = some (curOf s).b ∧ (curOf s).b.resident = true ∧ (curOf s).b.core = 0 ∧
    (curOf s).b.rising = some (750, []) := by decide +kernel

/-! ### Witnesses: dispatcher, quarters, errors -/

theorem test_witness_submission : (95 : Nat) < 96 ∧ State.reset.ready = true ∧ (0x1C0#64).toNat % 64 = 0 ∧ (State.reset.queued 95).length < 64 ∧
    (0x1C4#64).toNat % 64 ≠ 0 ∧ 64 ≤ (({ State.reset with jobs := List.replicate 64 (Job.queuedAt 0 5 0x40) } : State).queued 5).length := by decide +kernel
/-- A job whose record, first phase, graph and node stand in memory: the record at 0x40, its phases at 0x200, their graphs' addresses at 0x300. -/
def jobs : State :=
  let s := (w1.writeMem 0x40000040 (bytesOf 8 0x200 ++ bytesOf 2 1 ++ bytesOf 2 0 ++ bytesOf 4 77 ++ bytesOf 8 0)).writeMem 0x40000200 (bytesOf 8 0x300 ++ bytesOf 2 1)
  let s := s.writeMem 0x40000300 (bytesOf 8 0x3FFFF0)
  { s.writeMem 0x40001000 launchBytes with jobs := [Job.queuedAt 20 0 0x40] }
def okRead (e : Except (Nat × Nat) (List Byte)) : Option (List Byte) := match e with | .ok b => some b | .error _ => none
theorem test_witness_job_start : jobs.queued 0 = [Job.queuedAt 20 0 0x40] ∧ jobs.waitsRead (.jobRec 20) = false ∧ jobs.activeCount 0 < 8 ∧ jobs.vfRuns 0 = true ∧
    ((okRead (jobs.dispRead (.jobRec 20) 0 0x40 64).1).bind jobFields) = some (0, 77, 1, 0x200) ∧
    (((jobs.dispRead (.jobRec 20) 0 0x40 64).2.freeNum .job).1).isSome = true ∧ jobs.hasFree .job = true := by decide +kernel
def dueOf (w : DRead) : Due := { id := 30, vf := 0, what := w, held := false, since := 0 }
def dueFor (w : DRead) : State :=
  { jobs with
    jobs := [{ Job.queuedAt 20 0 0x40 with active := true, ctr := some 0, phases := 0x200, nph := 1 }]
    phases := [{ obj := 21, vf := 0, ctr := 0, job := 20, idx := 0, ngr := 1 }]
    graphs := [{ obj := 22, vf := 0, ctr := some 3, phase := 21, va := 0x300, nodes := [(0x1000, 0, .due)] }]
    due := [dueOf w], memo := some { leaves := [], copies := [], seen := [] } }
theorem test_witness_level_start : ∀ w ∈ [DRead.phase 21, .graph 22, .node 22 0], let s := dueFor w
    let p := s.dispRead (.phase 21) 0 0x200 16
    let n := s.dispRead (.node 22 0) 0 0x1000 64
    s.due.find? (fun e => e.id == 30) = some (dueOf w) ∧ s.dueNext (dueOf w) = true ∧ (s.phase? 21).isSome = true ∧ (s.job? 20).isSome = true ∧
    (s.graph? 22).map (·.ctr) = some (some 3) ∧ (s.graph? 22).map (·.nodes) = some [(0x1000, 0, NState.due)] ∧
    ((okRead p.1).bind phaseFields) = some (0x300, 1) ∧ (p.2.freeNum .phase).1.isSome = true ∧
    ((okRead n.1).bind launchShape) = some shape5 ∧ (n.2.freeNum .launch).1.isSome = true := by decide +kernel
theorem test_witness_graph_start : let s := dueFor (.graph 22)
    let r : DRead := .graph 22
    let p1 := s.dispRead r 0 0x300 8
    let p2 := p1.2.dispRead r 0 0x3FFFF0 16
    let p3 := p2.2.dispRead r 0 0x400000 16
    (okRead p1.1).map ofBytes = some 0x3FFFF0 ∧ (okRead p2.1).bind graphCount = some 1 ∧ (okRead p3.1).bind (graphNodes 1) = some [(0, 0)] ∧
    (p3.2.freeNum .graph).1.isSome = true := by decide +kernel

/-- A launch whose next block is waiting for a core, as a pair or not. -/
def placing (pair : Bool) : State := { mapped with launches := [{ lnch 1 { shape5 with pair := pair } with next := 0 }] }
theorem test_witness_placing : ∀ p ∈ [false, true], (placing p).chosen 47 = some (0, .fresh 1) ∧
    (placing p).launch? 1 = some { lnch 1 { shape5 with pair := p } with next := 0 } := by decide +kernel
/-- A block that has been stopped, and the two copies of one. -/
def stopped : State := { (mk id fun b => { b with phase := .stopped 3, slots := [] }) with launches := [lnch 1] }
def pair (s : State) (f : Block → Block) : State :=
  let b := (curOf s).b
  let b0 := f { b with partner := some 1 }
  { s with blocks := [b0, { b0 with bid := 1, core := 4, partner := some 0, trailing := true }], launches := [lnch 1 { shape5 with pair := true }] }
def stoppedPair : State := pair w1 fun b => { b with phase := .stopped 3, slots := [] }
theorem test_witness_restore : stopped.chosen 5 = some (0, .again 0) ∧ stopped.block? 0 = stopped.blocks.head? ∧ (stopped.blocks.map (·.partner)) = [none] ∧
    (stopped.cands 0) ≠ [] ∧ stopped.vfPart 0 = stopped.partOf 7 ∧ w1.chosen 5 = none ∧ stoppedPair.chosen 5 = some (0, .again 0) ∧
    stoppedPair.blocks.map (·.partner) = [some 1, some 0] ∧ (stoppedPair.launch? 1).map (·.shape.pair) = some true := by decide +kernel
theorem test_witness_packets : ∃ p, ({ w1 with arbiter := [{ vf := some 0, port := 1, age := 65535 }] } : State).arbiter[0]? = some p := ⟨_, rfl⟩
/-- A block whose thread has exited, with its launch. -/
def ending : State := { (mk fun t => { t with life := .exited }) with launches := [lnch 1], counters := [ctr .launch 0] }
/-- The two copies of such a block. -/
def endingPair : State := { pair (mk id) fun b => { b with threads := b.threads.map fun t => { t with life := .exited } } with counters := [ctr .launch 0] }
theorem over_of {s : State} {b : Block} (h : (b.phase == .resident && b.threads.all (fun t => t.life != .live) && b.commits.isEmpty && b.exits == 0 &&
    !s.homeWaits b.bid && b.handed.isEmpty && !s.hasCommands b && !b.shape.det) = true) : s.Over b := by
  simp only [Bool.and_eq_true, List.all_eq_true, Bool.not_eq_true', beq_iff_eq, bne_iff_ne, List.isEmpty_iff] at h
  obtain ⟨⟨⟨⟨⟨⟨⟨h1, h2⟩, h3⟩, h4⟩, h5⟩, h6⟩, h7⟩, h8⟩ := h
  exact ⟨h1, ⟨h2, h3, h4⟩, h5, h6, h7, fun h => absurd h (by rw [h8]; decide)⟩
theorem test_witness_completion : (∀ s ∈ [ending, endingPair], ∃ b, s.block? 0 = some b ∧ s.Over b ∧ (s.launch? b.launch).isSome = true ∧
    s.counter? 0 .launch 0 = some (ctr .launch 0)) ∧ (∃ b, endingPair.block? 1 = some b ∧ endingPair.Over b) ∧
    (ending.blocks.map (·.partner) = [none] ∧ (endingPair.block? 0).map (·.partner) = some (some 1)) ∧ u1.t.life = .live := by
  have h (s : State) (n : Nat) (i : (s.block? n).isSome = true) (g : (s.block? n).all (fun b => b.phase == .resident &&
      b.threads.all (fun t => t.life != .live) && b.commits.isEmpty && b.exits == 0 && !s.homeWaits b.bid && b.handed.isEmpty && !s.hasCommands b &&
      !b.shape.det && (s.launch? b.launch).isSome) = true) : ∃ b, s.block? n = some b ∧ s.Over b ∧ (s.launch? b.launch).isSome = true := by
    obtain ⟨b, hb⟩ := Option.isSome_iff_exists.1 i
    rw [hb, Option.all_some, Bool.and_eq_true] at g
    exact ⟨b, hb, over_of g.1, g.2⟩
  refine ⟨fun s hs => ?_, ?_, by decide +kernel⟩
  · simp only [List.mem_cons, List.mem_nil_iff, or_false] at hs
    rcases hs with rfl | rfl
    · obtain ⟨b, h1, h2, h3⟩ := h ending 0 (by decide +kernel) (by decide +kernel)
      exact ⟨b, h1, h2, h3, by decide +kernel⟩
    · obtain ⟨b, h1, h2, h3⟩ := h endingPair 0 (by decide +kernel) (by decide +kernel)
      exact ⟨b, h1, h2, h3, by decide +kernel⟩
  · obtain ⟨b, h1, h2, _⟩ := h endingPair 1 (by decide +kernel) (by decide +kernel)
    exact ⟨b, h1, h2⟩
/-- A block in a deterministic launch, with one store handed over. -/
def turning : State :=
  { (mk (fun t => { t with life := .exited }) fun b => { b with shape := { b.shape with det := true }, handed := [ent .store 7 [1, 2]] }) with
    launches := [lnch 1], counters := [ctr .launch 0] }
theorem test_witness_turn : ∃ b, turning.blocks.find? (fun b => b.launch == 1 && b.lin == 0 && !b.trailing) = some b ∧ turning.block? b.bid = some b ∧
    b.shape.det = true ∧ b.killed = false ∧ (b.threads.all (fun t => t.life != .live) = true ∧ b.commits = [] ∧ b.exits = 0) ∧ b.phase = .resident ∧
    turning.launch? 1 = some (lnch 1) ∧ turning.counter? 0 .launch 0 = some (ctr .launch 0) ∧ (ctr .launch 0).state ≠ .cancelled ∧
    b.handed = [ent .store 7 [1, 2]] ∧ turning.tag 0x40000108 = .P ∧ turning.waitsHome b.bid 7 = false ∧
    (turning.reach (dieOf b.core) 0x40000108).1 = true ∧
    nearBy turning (acc1 turning ld4 4 .P 1 0 0 |> fun a => { a with pa := some 0x40000108 }) [] .P = true :=
  ⟨(turning.block? 0).get (by decide +kernel), by decide +kernel⟩
theorem test_witness_no_turn : (∃ b, (turning.modBlock 0 fun b => { b with killed := true }).block? 0 = some b ∧ b.killed = true) ∧
    (ctr .launch 0 0 .cancelled).state = .cancelled ∧ turning.launch? 9 = none :=
  ⟨⟨((turning.modBlock 0 fun b => { b with killed := true }).block? 0).get (by decide +kernel), by decide +kernel⟩, by decide +kernel⟩

/-- The block with no packet in issue, so that its quarter may issue one. -/
def idle : State := { w1 with issue := [], launches := [lnch 1] }
theorem test_witness_quarter : idle.issue = [] ∧ ((idle.modCore 0 fun k => { k with clk := k.clk + 1 }).readyOn 0 1).isEmpty = true ∧
    (let s1 := idle.modCore 0 fun k => { k with clk := k.clk + 1 }
     (pickLead (s1.readyOn 0 0) ((idle.core 0).quarters.get Quarter.reset 0) (s1.clkOf 0)).isSome = true) ∧
    ((idle.core 0).quarters.get Quarter.reset 0).queue.length ≤ 32 ∧
    (let s := idle.modCore 0 fun k => { k with quarters := k.quarters.set 0 { Quarter.reset with queue := [(0, 0)] } }
     s.injCtl.getLsbD 0 = false ∧ ((s.core 0).quarters.get Quarter.reset 0).queue = [(0, 0)]) := by decide +kernel
/-- The block whose code line has left the instruction cache, which has held another version of it. -/
def fetching : State := (mk fun t => { t with pc := 0, slot := 0 }).modCore 0 fun k =>
  { k with ic := [], icOld := [{ vf := 0, key := 1, line := 0, ty := .P, data := List.replicate 128 7 }] }
theorem test_witness_fetch : let u := curOf fetching
    fetching.block? 0 = some u.b ∧ u.b.thread? 0 = some u.t ∧ u.b.phase = .resident ∧ u.t.life = .live ∧ fetching.waitsFetch 0 0 = false ∧
    (distinct ((fetching.clauseOf u.b u.t).map (fun a => a.toNat / 128))).filter (fun l => (fetching.codeLine u.b (BitVec.ofNat 57 (128 * l))).isNone) = [0] ∧
    (match (fetching.translate 0 0 0 .fetch).1 with | .ok pa => pa == 0x40000000 | .error _ => false) = true ∧
    ((fetching.core 0).icOld.filter (fun x => x.isCode u.b 0)).map (·.data) = [List.replicate 128 7] := by decide +kernel
theorem test_witness_fetch_near : (fetching.translate 0 0 0 .fetch).2.near 0x40000000 := fun p w o e => by
  rw [show (fetching.translate 0 0 0 .fetch).2.target 0x40000000 = .hbm 0 by decide +kernel] at e
  cases e
theorem test_witness_timeouts : ∀ t ∈ [fun t : Thread => { t with mode := .demoted, spin := { t.spin with since := 0 } }, fun t => { t with park := .rjw 3 1 0 },
      fun t => { t with park := .sleep 0 }, fun t => { t with park := .sleep 9 }, fun t => { t with haltReq := true, park := .running, rehdr := true, pc := 0x4000 }],
    (mk t).block? 0 = some (curOf (mk t)).b ∧ (curOf (mk t)).b.thread? 0 = some (curOf (mk t)).t := by
  intro t ht
  simp only [List.mem_cons, List.mem_nil_iff, or_false] at ht
  rcases ht with rfl | rfl | rfl | rfl | rfl <;> decide +kernel
theorem test_witness_timeouts_due : (let s := { mk (fun t => { t with mode := .demoted }) with refClk := 4096 }
      let t := (curOf s).t
      t.mode = .demoted ∧ t.spin.since + 4096 ≤ s.clkOf 0) ∧ w1.clkOf 0 < u1.t.spin.since + 4096 ∧
    (let s := { mk (fun t => { t with haltReq := true, pc := 0x4000, slot := 0 }) with refClk := 1024 }
      let t := (curOf s).t
      t.haltReq = true ∧ t.still = false ∧ s.canIssue (curOf s).b 0 t = false ∧ t.last + 1024 ≤ s.clkOf 0 ∧ t.askedAt + 1024 ≤ s.clkOf 0) := by
  decide +kernel

/-- The block at a region start of its own commit, with its image, and its launch. -/
def region (idem : Bool) : State :=
  { (mk id fun b => { b with byCommit := true, shape := { b.shape with idem := idem }, image := { b.image with threads := b.threads } }) with
    launches := [lnch 1] }
theorem test_witness_errors : (∀ i ∈ [false, true], let s := region i
      let b := (curOf s).b
      s.block? 0 = some b ∧ b.killed = false ∧ b.phase = .resident ∧ b.partner = none ∧ s.islErr = [] ∧ b.errs = [] ∧ b.committing = [] ∧ s.agenda = [] ∧
      s.restartable b = true ∧ s.xq = [] ∧ (s.core b.core).mq = [] ∧ b.shape.idem = i ∧ 1 < s.fenceAt) ∧
    ({ w1 with launches := [lnch 1] } : State).restartable u1.b = false ∧ (({ w1 with launches := [lnch 1] } : State).launch? u1.b.launch).isSome = true := by
  decide +kernel
/-- The two copies of a block at a restart point. -/
def regionPair : State :=
  { pair w1 fun b => { b with ckpt := { b.ckpt with threads := b.threads } } with launches := [{ lnch 1 { shape5 with pair := true } with retry := 1 }] }
theorem test_witness_paired_errors : let s := regionPair
    s.blocks.map (·.bid) = [0, 1] ∧ s.blocks.map (·.partner) = [some 1, some 0] ∧ s.blocks.map (·.trailing) = [false, true] ∧
    (∀ b ∈ s.blocks, s.block? b.bid = some b ∧ s.restartable b = true ∧ b.killed = false ∧ b.phase = .resident ∧ b.errs = [] ∧ b.committing = [] ∧
      b.retries = 0 ∧ b.launch = 1) ∧ (s.launch? 1).map (·.retry) = some 1 ∧ s.islErr = [] ∧ s.agenda = [] ∧ s.xq = [] ∧ 1 < s.fenceAt ∧
    (s.core 0).mq = [] ∧ (s.core 4).mq = [] := by decide +kernel

/-! ### Witnesses: pre-emption, replies, debug -/

/-- As shape5, with a latency bound of one unit. -/
def shape1 : Shape := { shape5 with latb := 1 }
def want (sh : Shape) : Launch := { lnch 2 sh with vf := 1, next := 0 }
/-- Function 1, of priority p, in a partition without dies, with a launch that no core can take. -/
def rival (p : Nat) (s : State) : State :=
  let q : DWord := BitVec.ofNat 64 (1 + 256 * p)
  let r : DWord := 0x20001#64
  { (s.setVf 1 { Vf.reset with part := 3, qos := q, qosIn := [(0, q)] }).setVf 0 { s.vf 0 with qos := r, qosIn := [(0, r)] } with
    launches := [lnch 1, want shape1] }
/-- Cluster 0 owned by function 1, which wants it. -/
def owned (s : State) : State :=
  { s.setCluster 0 { Cluster.reset with clown := 0x181#64 } with launches := [lnch 1, want shape1] }
theorem test_witness_slices : (let s := rival 0 (region false)
      let b := (curOf s).b
      s.block? 0 = some b ∧ b.stoppable = true ∧ b.partner = none ∧ s.sliceOver 0 0 = true ∧ s.flushable b = true ∧ b.committing = [] ∧
      (∀ l ∈ s.launches, s.mustYield b l = false) ∧ s.xq = [] ∧ (s.core b.core).mq = []) ∧
    (let s := rival 0 w1
      let b := (curOf s).b
      s.sliceOver b.vf b.core = true ∧ s.flushable b = false ∧ (∀ l ∈ s.launches, s.mustYield b l = false)) ∧ w1.sliceOver 0 0 = false := by decide +kernel
theorem test_witness_priorities : (let s := rival 1 w1
      let b := (curOf s).b
      s.block? 0 = some b ∧ s.launch? 2 = some (want shape1) ∧ s.mustYield b (want shape1) = true ∧ s.priorityStop b 1 = .save ∧
      s.priorityStop b 0 = .drain) ∧
    (let s := rival 1 (region false)
      let b := (curOf s).b
      s.mustYield b (want shape1) = true ∧ s.priorityStop b 1 = .flush ∧ b.committing = []) ∧
    (w1.launch? 1).isSome = false ∧ ({ w1 with launches := [lnch 1] } : State).mustYield u1.b (lnch 1) = false := by decide +kernel
theorem test_witness_reclaims : (let s := owned w1
      let b := (curOf s).b
      s.borrows b = true ∧ s.reclaims (clusterOf b.core) = true ∧ b.stoppable = true ∧ s.block? 0 = some b ∧ b.partner = none) ∧
    ((w1.setVf 0 { w1.vf 0 with migctl := 0x10 }).vf 0).migState = 1 := by decide +kernel
theorem test_witness_saving : let s := mk id fun b => { b with phase := .saving 0 }
    let b := (curOf s).b
    s.block? 0 = some b ∧ b.phase = .saving 0 ∧ b.partner = none ∧ s.canSave b = true ∧ s.xq = [] := by decide +kernel
theorem test_witness_watchdog : let l := { lnch 1 with wdog := 20, count := 2 ^ 20 }
    let s := { w1.setVf 0 { w1.vf 0 with flbase := 0x5071#64 } with launches := [l] }
    s.launch? l.obj = some l ∧ l.wdog ≠ 0 ∧ 2 ^ l.wdog ≤ l.count ∧ (s.vf 0).flbase.getLsbD 0 = true ∧
    ((s.vf 0).fltail.toNat + 2 ^ 31 - (s.vf 0).flhead.toNat) % 2 ^ 31 ≠ ringSize (s.vf 0).flbase % 2 ^ 31 ∧ s.block? 0 = some (curOf s).b ∧
    (curOf s).b.launch = l.obj ∧ (curOf s).b.phase ≠ .gone ∧ (lnch 1).count < 2 ^ (lnch 1).wdog := by decide +kernel

/-- A load of the thread waits on record 4 of function 0. -/
def faulted : State :=
  { w1 with oplog := [{ id := 5, vf := 0, seq := 4, core := 0, acc := some (acc1 w1 ld4 4 .P 1 8 0x108), waiter := .access 5, replay := false, bad := false }] }
theorem test_witness_replies : faulted.ignores 0 4 = false ∧ (faulted.oplog.map (fun o => o.id)).Nodup ∧ faulted.ignores 0 9 = true ∧
    faulted.attached 0 4 = faulted.oplog ∧ (acc1 w1 ld4 4 .P 1 8 0x108).eid = none ∧ (acc1 w1 ld4 4 .P 1 8 0x108).sig = none ∧ faulted.block? 0 = some u1.b ∧
    u1.b.partner = none ∧ u1.b.commits = [] ∧ u1.b.thread? 0 = some u1.t ∧ u1.t.fault = none := by decide +kernel
theorem test_witness_invalidation : let s := w1.setVf 0 { w1.vf 0 with busy := true, inval := [some 0x1000, none] }
    (s.vf 0).busy = true ∧ ((s.vf 0).inval.all fun i => !s.inFlight 0 i) = true ∧
    (let t := (mk id fun b => { b with share := [ent .store 7 [1]] }).setVf 0 (s.vf 0)
     ((t.vf 0).inval.any fun i => t.inFlight 0 i) = true) := by decide +kernel
theorem test_witness_cxl : let a := { acc1 w1 ld4 4 .P 1 0 0 with pa := some (2 ^ 50 + 8) }
    let s := { w1 with cxl := [(0, 0x101#64)], pend := [{ pend1 9 .nothing with acc := some a }] }
    s.target (2 ^ 50 + 8) = .cxl 0 ∧ a.kind.recKind = 0 ∧ (s.block? a.bid).isSome = true := by decide +kernel

def hit (wp : Nat) : Hit := { wp := wp, kind := 2, iblk := 0, ictr := 0, ispo := 0, core := 0, ret := false, bkn := 0 }
def hits (stop : Bool) : State := w1.setCluster 0 { Cluster.reset with hits := [hit 7, hit 3, hit 3], stop := stop }
theorem test_witness_stops : firstHit [hit 7, hit 3, hit 3] = some (hit 3) ∧ ((hits false).cluster 0).stop = false ∧ ((hits true).cluster 0).stop = true ∧
    ((hits true).cluster 0).recorded = false ∧
    (let s := (mk fun t => { t with halted := true }).setCluster 0 ((hits true).cluster 0)
     ∀ b ∈ s.blocks, b.resident = true ∧ ∀ t ∈ b.threads, t.still = true) ∧
    (∃ b ∈ (hits true).blocks, b.resident = true ∧ clusterOf b.core = 0 ∧ ∃ t ∈ b.threads, t.still = false) := by decide +kernel
/-- A thread halted in a stopped cluster. -/
def halted : State := (mk fun t => { t with halted := true }).setCluster 0 { Cluster.reset with stop := true }
theorem test_witness_steps : (0x8000#64).getLsbD 15 = true ∧ (halted.cluster 0).stop = true ∧ (halted.cluster 0).stepping = none ∧
    halted.atIndex (4 * 0 + bitsOf 0x8000#64 11 10) (bitsOf 0x8000#64 9 5) = some (curOf halted).b ∧ bitsOf 0x8000#64 4 0 < (curOf halted).b.shape.gangs ∧
    (curOf halted).b.thread? (32 * 0 + 0) = some (curOf halted).t ∧ (curOf halted).t.halted = true ∧ (curOf halted).t.park = .running := by decide +kernel
theorem test_witness_debug_access : let u := curOf halted
    halted.block? u.b.bid = some u.b ∧ u.b.thread? 0 = some u.t ∧ halted.inSlot (4 * 0 + bitsOf 0x8000#64 11 10) (bitsOf 0x8000#64 9 8) (bitsOf 0x8000#64 7 3) (bitsOf 0x8000#64 2 0)
      = some (u.b, 0, u.t) ∧ halted.selected 0 = some (u.b, 0, u.t) ∧ shCls (halted.cluster 0).shsel = 0 ∧ u.t.regs[shIdx (halted.cluster 0).shsel]? = some ⟨0, .P⟩ ∧
    (halted.setCluster 1 { Cluster.reset with stop := true }).selected 1 = none ∧ w1.selected 0 = some (u1.b, 0, u1.t) ∧ u1.t.halted = false ∧
    shCls 0x00100000#64 = 1 ∧ shCls 0x00200000#64 = 2 ∧ shCls 0x00600000#64 = 6 := by decide +kernel

/-! ### Witnesses: management, migration, links, the whole machine -/

/-- The host's mailbox with a call of a target, and its argument. -/
def calls (code target : Nat) (arg : DWord) (s : State) : State :=
  { s with monHost := { Mailbox.reset with call := BitVec.ofNat 64 (0x100 + code * 2 ^ 32 + target * 2 ^ 48), arg := arg } }
def asks (code target : Nat) (arg : DWord) (s : State) : State :=
  { s with fwBox := { Mailbox.reset with call := BitVec.ofNat 64 (0x100 + code * 2 ^ 32 + target * 2 ^ 48), arg := arg } }
theorem test_witness_calls : (∀ p ∈ [(0x01, 7, 8), (0x02, 95, 96), (0x03, 7, 8), (0x04, 1, 2), (0x05, 65535, 65536), (0x06, 0, 1), (0x07, 7, 8)],
      let m := (calls p.1 p.2.1 5 w1).mon false
      m.go = true ∧ m.code = p.1 ∧ m.reserved = false ∧ m.target = p.2.1 ∧ p.2.1 < p.2.2) ∧
    w1.runsOn 0 = true ∧ w1.runsOn 7 = false ∧ w1.activeCount 95 = 0 ∧ (∀ b ∈ w1.blocks, b.vf = 95 → b.resident = false) ∧
    (∀ e ∈ List.range 8, ((0xFF#64).getLsbD e = true ↔ w1.partOf e = w1.partOf 7)) ∧ (0xFE#64).getLsbD 0 = false ∧
    w1.namesTest 1 = false ∧ ((w1.setDie 0 { Die.reset with reg := 8 }).namesTest 0x0000010000000001#64) = true ∧ w1.ready = true ∧
    w1.diesOf 0 ≠ [] ∧ w1.diesOf 5 = [] ∧ (∃ b ∈ w1.blocks, b.vf = 0 ∧ b.resident = true) ∧ (∀ b ∈ w1.blocks, b.vf ≠ 7) ∧
    (∀ e, e < 8 → e ≠ 7 → (w1.setDie 7 { Die.reset with reg := 2 }).partOf e ≠ (w1.setDie 7 { Die.reset with reg := 2 }).partOf 7) ∧
    w1.tripped.contains 1 = false ∧ ((calls 0x01 8 5 w1).mon false).target = 8 ∧
    ({ w1 with jobs := [{ Job.queuedAt 20 95 0x40 with active := true }] } : State).activeCount 95 ≠ 0 := by decide +kernel
/-- A job of partition 0 whose DONEW lies in host memory. -/
def presetJob : Job := { Job.queuedAt 20 0 0x40 with active := true, donew := some 0x200008, tag := 77 }
def presetting : State := { w1 with jobs := [presetJob] }
theorem test_witness_preset : presetting.jobs.filter (fun x => (presetting.vfsOf 0).contains x.vf) = [presetJob] ∧ presetJob.active = true ∧
    presetJob.donew = some 0x200008 ∧ 0x200008 % 8 = 0 ∧
    (match ((presetting.setUp 0 false).dispLines 0 0x200008 8 true).1 with
     | .ok q => physLine q (0x200008 / 128) * 128 + 0x200008 % 128 == 2 ^ 51 + 8 | .error _ => false) = true ∧
    presetting.inStacks 0 (2 ^ 51 + 8) = false ∧ presetting.target (2 ^ 51 + 8) = .host ∧ Memory.wf presetting.mem = true := by decide +kernel
theorem test_witness_calls_to_firmware : (∀ p ∈ [(0x10, 95, 96), (0x11, 95, 96), (0x12, 0, 65536), (0x13, 65535, 65536)],
      let m := (asks p.1 p.2.1 5 w1).fwBox
      m.go = true ∧ m.code = p.1 ∧ m.reserved = false ∧ m.target = p.2.1 ∧ p.2.1 < p.2.2) ∧ (5#64).toNat % 16 ≠ 0 ∧ (0x10#64).toNat % 16 = 0 ∧
    w1.vfPart 5 = w1.partOf (95 / 12) ∧ w1.vfPart 5 ≠ (w1.setDie 7 { Die.reset with reg := 2 }).partOf (95 / 12) ∧ w1.evlog.length ≤ 0 ∧
    (∃ r, ({ w1 with evlog := [⟨3, 4, 5, 6, []⟩] } : State).evlog[0]? = some r) := by
  exact ⟨by decide +kernel, by decide +kernel, by decide +kernel, by decide +kernel, by decide +kernel, by decide +kernel, ⟨_, rfl⟩⟩
theorem test_witness_package : 20 ≤ (40#64).toNat % 64 ∧ 0 < (19#64).toNat % 64 ∧ (19#64).toNat % 64 < 20 ∧ ringTakes 0x5071#64 = true ∧ ringTakes 0x5061#64 = false ∧
    (let s := { State.reset with tsCtl := 0x1001#64 }
     s.tsCtl.getLsbD 0 = true ∧ (s.die 7).tsNext = s.refClk ∧ s.refClk + 1 ≠ (s.die 7).tsNext ∧ (∀ i ∈ keyIslands 7 8, i ∉ s.islFence) ∧
       counted 8 = true ∧ keyIslands 7 8 ≠ [] ∧ ((s.die 7).tsTail.toNat + 2 ^ 31 - (s.die 7).tsHead.toNat) % 2 ^ 31 ≠ ringSize (s.die 7).tsRing ∧
     (let t := s.setDie 7 { Die.reset with tsTail := 1 }
      ((t.die 7).tsTail.toNat + 2 ^ 31 - (t.die 7).tsHead.toNat) % 2 ^ 31 = ringSize (t.die 7).tsRing)) ∧
    (let s := { w1 with launches := [lnch 1] }
     s.block? 0 = some (curOf s).b ∧ (curOf s).b.resident = true ∧ s.partOf (dieOf (curOf s).b.core) = s.partOf (991 / 124) ∧
       (s.launch? (curOf s).b.launch).isSome = true) ∧ State.reset.bootFails < 3 := by decide +kernel

/-- Function 0 in a state of migration, and the state that arrives. -/
def migrating (n : Nat) : State := w1.setVf 0 { w1.vf 0 with migctl := BitVec.ofNat 64 (n * 16 + 9 * 2 ^ 36) }
def arriving : State :=
  let e : ExecState := { vf := 3, blocks := [{ u1.b with bid := 60, phase := .stopped 0 }], counters := [ctr .launch 2], launches := [lnch 61], graphs := [],
                         phases := [], jobs := [], due := [], oplog := [], xq := [], binds := [], regs := Vf.reset, ids := 62 }
  { w1.setVf 0 { w1.vf 0 with armed := true } with inbox := [e] }
theorem test_witness_migration : (3#64).toNat % 16 = 3 ∧ ((migrating 0).vf 0).migState = 0 ∧ ((migrating 3).vf 0).migState = 3 ∧ (mapped.vf 0).migState = 0 ∧ mapped.blocks = [] ∧
    (arriving.vf 0).armed = true ∧ (∃ e, arriving.inbox[0]? = some e ∧ e.oplog = []) ∧ (w1.vf 0).armed = false ∧ w1.block? 0 = some u1.b ∧ u1.b.stoppable = true := by
  refine ⟨?_, ?_, ?_, ?_, ?_, ?_, ⟨_, rfl, ?_⟩, ?_, ?_, ?_⟩
  all_goals decide +kernel
/-- The target of a migration, whose third page is still at the source and has a record that waits. -/
def pullTarget : State :=
  let s := (migrating 4).writeMem 0x4010 (bytesOf 8 (0x4040000F + 2 ^ 54))
  s.setVf 0 { s.vf 0 with frecs := [{ seq := 1, page := 0x400000, cause := 5, kind := 0, lanes := 1, spo := 0, where_ := 0, launch := 0, written := false, answered := false }] }
theorem test_witness_pulls : (pullTarget.pteAt 0 0x400000).map (fun p => (p.1, p.2.1, pteOwn p.2.2)) = some (0x4010, 2, 1) ∧ (pullTarget.vf 0).migState = 4 ∧
    pullTarget.cut.contains (pullTarget.vf 0).peer = false ∧ pullTarget.pulling 0 0x400000 = false ∧ pullTarget.pageRecords 0 0x400000 (levelSize 2) = [1] ∧
    ((migrating 3).pteAt 0 0x400000).map (fun p => pteOwn p.2.2) = some 0 ∧ ((migrating 3).vf 0).migState = 3 ∧ ((migrating 3).vf 0).peer = 9 ∧
    0x400000 % levelSize 2 = 0 ∧
    (let x : Pull := { vf := 0, va := 0x400000, level := 2, from_ := 9, tag := 3 }
     let s := { migrating 3 with pulls := [x] }
     x ∈ s.pulls ∧ x ∉ (migrating 3).pulls ∧ (s.pteAt 0 0x400000).map (fun p => p.2.1) = some 2 ∧ s.cut.contains 9 = false) ∧
    (let s := { pullTarget with awaits := [{ tag := 0, peer := 9, what := .pull 0 0x600000 }] }
     s.pulling 0 0x600000 = true ∧ (s.pteAt 0 0x600000).isSome = true ∧ s.pageRecords 0 0x600000 (levelSize 2) = []) := by
  decide +kernel
def msg (op : Nat) (resp : Bool) (addr : Nat) : Msg :=
  { op := op, src := 9, dst := 0, tag := 4, addr := BitVec.ofNat 64 addr, data := [], vf := 0, ndata := 0, resp := resp, stat := 0, aTag := false, peer := 0, bad := false }
/-- A window of this package onto function 0 (page 0), and a load of the thread that waits for package 9. -/
def windowed (moved : Option (BitVec 12)) : State :=
  { w1.setVf 0 { w1.vf 0 with moved := moved } with windows := [(0, some (0, 0))] }
/-- That window onto a page whose entry is at the source (OWN 0), being transferred (2) or gone (3), or whose frame is elsewhere. -/
def leafAt (own : Nat) : State := (windowed none).writeMem 0x4000 (bytesOf 8 (0x4000000F + own * 2 ^ 54))
def ownAt (own : Nat) : Option Nat := match (State.leafOf (leafAt own) ioDie 0 0x108).1 with | .ok e => some e.own | .error _ => none
theorem test_witness_windows : [0, 2, 3].map ownAt = [some 0, some 2, some 3] ∧ (leafAt 2).windows.get none 0 = some (0, 0) ∧ ((leafAt 2).vf 0).moved = none ∧
    (windowed none).target 0x40000108 = .hbm 0 := by decide +kernel
def awaiting : State :=
  { w1 with oplog := [{ id := 5, vf := 0, seq := 4, core := 0, acc := some (acc1 w1 ld4 4 .P 1 8 0x108), waiter := .access 5, replay := false, bad := false }],
            awaits := [{ tag := 4, peer := 9, what := .access 5 }] }
theorem test_witness_links : (msg 1 false 0x108).dst = w1.pkg ∧ w1.cut.contains 9 = false ∧ (1 : BitVec 7) = opLoad ∧ w1.windows.get none (0x108 / 2 ^ 32) = none ∧
    (windowed (some 9)).windows.get none (0x108 / 2 ^ 32) = some (0, 0) ∧ ((windowed (some 9)).vf 0).moved = some 9 ∧ ((windowed none).vf 0).moved = none ∧
    (match (State.leafOf (windowed none) ioDie 0 0x108).1 with
     | .ok e => e.own == 0 && e.w && e.pa == 0x40000000 && ((State.leafOf (windowed none) ioDie 0 0x108).2.reach ioDie 0x40000108).1
     | .error _ => false) = true ∧ 0x40000108 % 8 = 0 ∧ (msg 1 true 0).dst = awaiting.pkg ∧
    awaiting.awaits.find? (fun a => a.tag == (msg 1 true 0).tag && a.peer == (msg 1 true 0).src) = some { tag := 4, peer := 9, what := .access 5 } ∧
    (awaiting.oplog.find? (fun e => e.id == 5)).isSome = true ∧ (awaiting.block? 0).isSome = true ∧ (acc1 w1 ld4 4 .P 1 8 0x108).homed = false ∧ ([7] : List Byte) ≠ [] ∧ 2 ^ 40 - 1 + [7].length ≤ 2 ^ 40 := by
  decide +kernel

theorem test_witness_storage : u1.t.seen = [] ∧ (254#8).toNat < u1.t.regs.length ∧ (253#8).toNat + 1 < u1.t.regs.length ∧ u1.t.preds.length = 7 ∧
    Memory.wf mapped.mem = true ∧ (∃ i : Instr, i.wf = true ∧ i.isEvent = false) :=
  ⟨by decide +kernel, by decide +kernel, by decide +kernel, by decide +kernel, by decide +kernel, ⟨.yld c7, by decide +kernel⟩⟩

/-- The state after the ticks of a step at MOVI g9, 1; at the header before it; and at the word 0. -/
def atMovi : State := (State.reset.withFetchWord 64 0x033827FC00000004).tick
def atHeader : State := ((State.reset.withFetchWord 64 0x033827FC00000004).modThread 0 0 fun t => { t with pc := 0, slot := 0 }).tick
def atZero : State := (State.reset.withFetchWord 64 0).tick
theorem test_witness_steps_decoded : (let u := curOf atMovi
      atMovi.cur = some u ∧ u.t.fault = none ∧ u.t.slot ≠ 0 ∧ u.t.rehdr = false ∧ u.t.early = [] ∧ atMovi.codeWord u.b u.t.pc = some 0x033827FC00000004#64 ∧
      atMovi.codeA u.b u.t.pc = false) := by
  refine ⟨cur_of (by decide +kernel), by decide +kernel⟩
theorem test_witness_decodes : (match (curOf atMovi).t.decodes 0x033827FC00000004#64 with | .ok i => i == .movi c7 9 1 | .error _ => false) = true ∧
    (match (curOf atZero).t.decodes 0 with | .ok _ => false | .error _ => true) = true ∧ atZero.codeWord (curOf atZero).b (curOf atZero).t.pc = some 0 := by
  decide +kernel
theorem test_witness_headers : let u := curOf atHeader
    atHeader.cur.isSome = true ∧ u.t.fault = none ∧ u.t.slot = 0 ∧ u.t.early = [] ∧ u.t.rpt = none ∧ (atHeader.codeWord u.b u.t.pc).isSome = true ∧
    ((atHeader.codeWord u.b u.t.pc).map fun h => (Header.unpack h).ok && (clauseWords u.t.pc (Header.unpack h).cnt.toNat).all fun a => !atHeader.codeA u.b a) = some true ∧
    atHeader.codeWord u.b (u.t.pc + 8) = some 0x033827FC00000004#64 := by decide +kernel
theorem test_witness_agenda : State.reset.tick.issue = [] ∧ State.reset.tick.agenda = [] ∧
    (let s := { State.reset with agenda := [.watchpointMatch 0] }
     s.tick.issue = [] ∧ s.tick.agenda = [.watchpointMatch 0] ∧ (Instr.watchpointMatch 0).isEvent = true) := by decide +kernel

/-- A guard that is false, one that is A-typed, and A-typed sources. -/
def guards (p : PReg) : State := mk fun t => { t with preds := t.preds.set 0 p }
theorem test_witness_checks : w1.cur.isSome = true ∧ u1.t.has (254, 2) = false ∧ u1.t.has (253, 2) = true ∧ ((curOf (guards ⟨false, .A⟩)).t.pred 0).ty = .A ∧
    ((curOf (guards ⟨false, .P⟩)).t.pred 0).ty = .P ∧ (curOf (guards ⟨false, .P⟩)).t.guard { c7 with pg := 0 } = false ∧ u1.t.guard c7 = true ∧
    (curOf tagged).t.tainted (0, 1) = true ∧ (guards ⟨false, .A⟩).cur.isSome = true ∧ tagged.cur.isSome = true := by decide +kernel
theorem test_witness_safe : ∃ s', Safe State.reset ∧ step (State.reset.withFetchWord 64 0) = .next s' := by
  have h : (match step (State.reset.withFetchWord 64 0) with | .next _ => true | _ => false) = true := by decide +kernel
  cases e : step (State.reset.withFetchWord 64 0) <;> rw [e] at h <;> simp at h
  exact ⟨_, by unfold Safe; decide +kernel, rfl⟩

/-! ### Decoding: every row's word, written from the field tables of R76 to R92 and of each instruction's own rule -/

/-- R76: op, ty, sp, pg, pn, of an unguarded word. -/
def lead (op : BitVec 8) (ap : Bool) : BitVec 14 := op ++ BitVec.ofBool ap ++ 0#1 ++ 7#3 ++ 0#1
/-- R81. -/
def R (op d a b c : BitVec 8) (dt : BitVec 5 := 0x1F#5) (st : BitVec 5 := 0x1F#5) (sub : BitVec 5 := 0) (md : BitVec 3 := 0) (ap : Bool := false) : DWord :=
  lead op ap ++ d ++ a ++ b ++ c ++ dt ++ st ++ sub ++ md
/-- R82. -/
def C (op d a c : BitVec 8) (ty : BitVec 5) (fold : BitVec 3) (excl ms : BitVec 1) (lsz : BitVec 3) (first : BitVec 5) (ap : Bool := false) : DWord :=
  lead op ap ++ d ++ a ++ 0xFF#8 ++ c ++ ty ++ fold ++ excl ++ ms ++ lsz ++ first
/-- R83 and R85. -/
def I (op d a : BitVec 8) (imm : BitVec 32) (m : BitVec 2 := 0) (ap : Bool := false) : DWord := lead op ap ++ d ++ a ++ imm ++ m
/-- R84, the plain and the atomic layout. -/
def M (op d a b c : BitVec 8) (cache : BitVec 2) (disp : BitVec 16) (ap : Bool := false) : DWord := lead op ap ++ d ++ a ++ b ++ c ++ cache ++ disp
def A (op d a b c : BitVec 8) (aop : BitVec 4) (ord : BitVec 2) (sc : BitVec 3) (ty : BitVec 5) : DWord :=
  lead op false ++ d ++ a ++ b ++ c ++ aop ++ ord ++ sc ++ ty ++ 0#4
/-- R86, and R87. -/
def E (op : BitVec 8) (hw : BitVec 1) (h : BitVec 3) (acq rel : BitVec 1) (sc : BitVec 3) (cmd : BitVec 41) : DWord :=
  lead op false ++ hw ++ h ++ acq ++ rel ++ sc ++ cmd
def S (op d a b : BitVec 8) (imm : BitVec 26) : DWord := lead op false ++ d ++ a ++ b ++ imm
/-- The word decodes to the instruction. -/
def reads (w : DWord) (i : Instr) : Bool := match decode w with | .ok j => j == i | .error _ => false

theorem test_decode_moves :
    reads 0x013BFFFFFFFC3500#64 (.rpt 3 1 1 0 0) ∧ reads (R 0x02 0x21 0x43 0xFF 0xFF 0x03) (.mov c7 0x21 0x43 true) ∧
    reads 0x033827FC00000004#64 (.movi c7 9 1) ∧ reads (R 0x04 0x21 0x43 0x65 0x05) (.sel c7 0x21 5 0x43 0x65 false) ∧
    reads (I 0x05 0x21 0x05 0x89ABCDEF) (.selI c7 0x21 5 0x89ABCDEF) ∧ reads (R 0x06 0x21 0x18 0xFF 0xFF 0x03) (.srd c7 0x21 0x18 true) ∧
    reads (R 0x07 0x27 0x43 0xFF 0xFF) (.swr c7 0x43) ∧ reads 0x083804080C1FFFC0#64 (.plop c7 1 2 3 7 0xC0) ∧
    reads 0x093810081FFC6610#64 (.lea c7 4 2 7 .n64s32 2) ∧ reads (I 0x0A 0x21 0x43 5 3) (.leaI c7 0x21 0x43 5 .s64) := by decide +kernel

theorem test_decode_integer :
    reads (R 0x10 0x21 0x43 0x65 0xFF 0x06 0x1F 0 1) (.add c7 0x21 0x43 0x65 .s32 true) ∧ reads (I 0x20 0x21 0x43 7 1) (.addI c7 0x21 0x43 7 .s32) ∧
    reads 0x11382C0410245F00#64 (.addc c7 11 1 1 4 (some 1)) ∧ reads (R 0x12 0x21 0x43 0x65 0xFF 0x07) (.sub c7 0x21 0x43 0x65 .s64 false) ∧
    reads (I 0x22 0x21 0x43 7 2) (.subI c7 0x21 0x43 7 .n64) ∧ reads (R 0x14 0x21 0x43 0x65 0xFF 0x02) (.mul c7 0x21 0x43 0x65 .n32) ∧
    reads (I 0x24 0x21 0x43 7 0) (.mulI c7 0x21 0x43 7 .n32) ∧ reads (R 0x15 0x21 0x43 0x65 0xFF 0x06) (.mulh c7 0x21 0x43 0x65 .s32) ∧
    reads (R 0x16 0x21 0x43 0x65 0x87 0x02) (.mad c7 0x21 0x43 0x65 0x87 .n32) ∧ reads (I 0x26 0x21 0x43 7 3) (.madI c7 0x21 0x43 7 .s64) ∧
    reads (R 0x17 0x21 0x43 0x65 0xFF 0x06) (.min c7 0x21 0x43 0x65 .s32) ∧ reads (I 0x27 0x21 0x43 7 1) (.minI c7 0x21 0x43 7 .s32) ∧
    reads (R 0x18 0x21 0x43 0x65 0xFF 0x03) (.max c7 0x21 0x43 0x65 .n64) ∧ reads (I 0x28 0x21 0x43 7 0) (.maxI c7 0x21 0x43 7 .n32) ∧
    reads (R 0x19 0x21 0x43 0xFF 0xFF 0x07 0x1F 0 1) (.abs c7 0x21 0x43 .s64 true) ∧ reads 0x1A3828080FFC5F00#64 (.cmp c7 2 .ne 2 3 .n32) ∧
    reads 0x2A38040000000080#64 (.cmpI c7 1 .eq 0 32 .n32) := by decide +kernel

theorem test_decode_logic :
    reads (R 0x30 0x21 0x43 0x65 0xFF 0x02) (.and c7 0x21 0x43 0x65 .n32) ∧ reads (I 0x40 0x21 0x43 7 3) (.andI c7 0x21 0x43 7 .s64) ∧
    reads (R 0x31 0x21 0x43 0x65 0xFF 0x03) (.or c7 0x21 0x43 0x65 .n64) ∧ reads (I 0x41 0x21 0x43 7 0) (.orI c7 0x21 0x43 7 .n32) ∧
    reads 0x323830142BFC5F00#64 (.xor c7 12 5 10 .n32) ∧ reads (I 0x42 0x21 0x43 7 2) (.xorI c7 0x21 0x43 7 .n64) ∧
    reads (R 0x33 0x21 0x43 0xFF 0xFF 0x06) (.not c7 0x21 0x43 .s32) ∧ reads (R 0x34 0x21 0x43 0x65 0xFF 0x02) (.shl c7 0x21 0x43 0x65 .n32) ∧
    reads (I 0x44 0x21 0x43 0xFF 1) (.shlI c7 0x21 0x43 0xFF .s32) ∧ reads (R 0x35 0x21 0x43 0x65 0xFF 0x07) (.shr c7 0x21 0x43 0x65 .s64) ∧
    reads (I 0x45 0x21 0x43 9 0) (.shrI c7 0x21 0x43 9 .n32) ∧ reads (R 0x36 0x21 0x43 0x65 0xFF 0x03) (.rol c7 0x21 0x43 0x65 true) ∧
    reads (I 0x46 0x21 0x43 9 0) (.rolI c7 0x21 0x43 9 false) ∧ reads (R 0x37 0x21 0x43 0x65 0xFF 0x02) (.ror c7 0x21 0x43 0x65 false) ∧
    reads (I 0x47 0x21 0x43 9 2) (.rorI c7 0x21 0x43 9 true) ∧ reads (R 0x38 0x21 0x43 0x65 0x87 0x06) (.bfx c7 0x21 0x43 0x65 0x87 true) ∧
    reads (I 0x48 0x21 0x43 0x3F1F 0) (.bfxI c7 0x21 0x43 31 63 false) ∧ reads (R 0x39 0x21 0x43 0x65 0x87 0x02) (.bfi c7 0x21 0x43 0x65 0x87) ∧
    reads (I 0x49 0x21 0x43 0x0804 0) (.bfiI c7 0x21 0x43 4 8) ∧ reads (R 0x3A 0x21 0x43 0xFF 0xFF 0x02) (.popc c7 0x21 0x43 false) ∧
    reads (R 0x3B 0x21 0x43 0xFF 0xFF 0x03) (.clz c7 0x21 0x43 true) ∧ reads (R 0x3C 0x21 0x43 0xFF 0xFF 0x02) (.brev c7 0x21 0x43 false) := by decide +kernel

theorem test_decode_generator :
    reads 0x503BFC0BFFFFFF00#64 (.rngs c7 2) ∧ reads (R 0x51 0x21 0xFF 0xFF 0xFF) (.rng c7 0x21) ∧ reads 0x523BFC0FFFFFFF00#64 (.rngj c7 3) ∧
    reads (R 0x54 0x21 0x43 0x65 0xFF 0x08) (.kmax c7 0x21 0x43 0x65 .f32) ∧ reads (R 0x55 0x21 0x43 0x65 0xFF 0x0A) (.kmin c7 0x21 0x43 0x65 .bf16) ∧
    reads (R 0x56 0x05 0x43 0x65 0xFF 0x06 0x1F 1) (.kcmp c7 5 true 0x43 0x65 .s32) := by decide +kernel

theorem test_decode_scalar_floats :
    reads 0x60B81C141BFD3F00#64 (.fadd c7 true 7 5 6 .f16 .rne) ∧ reads (I 0x70 0x21 0x43 0x3C00 1 true) (.faddI c7 true 0x21 0x43 0x3C00 .f16) ∧
    reads (R 0x61 0x21 0x43 0x65 0xFF 0x08 0x1F 2) (.fsub c7 false 0x21 0x43 0x65 .f32 .rdn) ∧ reads 0x62B80C080BFD3F00#64 (.fmul c7 true 3 2 2 .f16 .rne) ∧
    reads 0x72381010FC000000#64 (.fmulI c7 false 4 4 0x3F000000 .f32) ∧ reads 0x633810040C011F01#64 (.ffma c7 false 4 1 3 0 .f32 .rne true) ∧
    reads (I 0x73 0x21 0x43 0x3F80 2) (.ffmaI c7 false 0x21 0x43 0x3F80 .bf16) ∧ reads (R 0x64 0x21 0x43 0x65 0xFF 0x0A) (.fmin c7 false 0x21 0x43 0x65 .bf16) ∧
    reads (R 0x65 0x21 0x43 0x65 0xFF 0x09 0x1F 0 0 true) (.fmax c7 true 0x21 0x43 0x65 .f16) ∧ reads 0x6639440007FD1F00#64 (.fcmp c7 false 1 .lt true 0 1 .f32) ∧
    reads (I 0x76 0x3A 0x43 0 0) (.fcmpI c7 false 2 .nan false 0x43 0 .f32) ∧ reads (R 0x67 0x21 0x43 0xFF 0xFF 0x09) (.fcls c7 0x21 0x43 .f16) ∧
    reads (R 0x68 0x21 0x43 0xFF 0xFF 0x08 0x1F 4) (.frnd c7 0x21 0x43 .f32 .rna) ∧ reads (R 0x69 0x21 0x43 0x65 0xFF 0x0A 0x1F 3) (.fscl c7 0x21 0x43 0x65 .bf16 .rup) ∧
    reads 0x80380807FFFD1F00#64 (.frcp c7 2 1 .f32 .rne) ∧ reads (R 0x81 0x21 0x43 0xFF 0xFF 0x09 0x1F 1) (.fsqrt c7 0x21 0x43 .f16 .rz) ∧
    reads (R 0x82 0x21 0x43 0xFF 0xFF 0x08) (.frsq c7 0x21 0x43 .f32) ∧ reads (R 0x83 0x21 0x43 0xFF 0xFF 0x09) (.fex2 c7 0x21 0x43 .f16) ∧
    reads (R 0x84 0x21 0x43 0xFF 0xFF 0x08) (.flg2 c7 0x21 0x43 .f32) ∧ reads (R 0x85 0x21 0x43 0xFF 0xFF 0x08) (.fsin c7 0x21 0x43 .f32) ∧
    reads (R 0x86 0x21 0x43 0xFF 0xFF 0x08) (.fcos c7 0x21 0x43 .f32) ∧ reads (R 0x87 0x21 0x43 0xFF 0xFF 0x09) (.ftnh c7 0x21 0x43 .f16) := by decide +kernel

theorem test_decode_packed_and_conversions :
    reads (R 0x88 0x21 0x43 0x65 0xFF 0x09 0x1F 1) (.hadd2 c7 false 0x21 0x43 0x65 .f16 .rz) ∧ reads (R 0x89 0x21 0x43 0x65 0xFF 0x0A 0x1F 0 0 true) (.hsub2 c7 true 0x21 0x43 0x65 .bf16 .rne) ∧
    reads (R 0x8A 0x21 0x43 0x65 0xFF 0x09 0x1F 3) (.hmul2 c7 false 0x21 0x43 0x65 .f16 .rup) ∧ reads (R 0x8B 0x21 0x43 0x65 0x87 0x09 0x1F 0 1) (.hfma2 c7 false 0x21 0x43 0x65 0x87 .f16 .rne true) ∧
    reads (I 0x9B 0x21 0x43 0x3C003C00 1) (.hfma2I c7 false 0x21 0x43 0x3C003C00 .f16) ∧ reads (R 0x8C 0x21 0x43 0x65 0xFF 0x0A) (.hmin2 c7 false 0x21 0x43 0x65 .bf16) ∧
    reads (R 0x8D 0x21 0x43 0x65 0xFF 0x09) (.hmax2 c7 false 0x21 0x43 0x65 .f16) ∧ reads (R 0x8E 0x21 0x43 0x65 0xFF 0x09 0x1F 0x0A) (.hcmp2 c7 false 0x21 0x43 0x65 .f16 .lt true) ∧
    reads (R 0x8F 0x21 0x43 0x65 0x87 0x08 0x0A) (.hdot2 c7 false 0x21 0x43 0x65 0x87 .f32 .bf16 .rne) ∧ reads 0x90380807FFFCC809#64 (.cvt c7 false 2 1 .s32 .f32 .rz true) ∧
    reads (R 0x91 0x21 0x43 0x65 0xFF 0x0C 0x08 5 5) (.cvtn c7 false 0x21 0x43 0x65 .e4m3 .rs true 1) ∧ reads (R 0x92 0x21 0x43 0xFF 0xFF 0x09 0x0F 0 7) (.cvtw c7 false 0x21 0x43 .f16 .e2m1 7) ∧
    reads 0x9338281014210C60#64 (.sdot c7 10 4 5 8 .e4m3 .e4m3 0) ∧ reads (R 0x94 0x21 0x43 0xFF 0xFF 0x04 0x10) (.cbx c7 0x21 0x43 0xFF .s8) := by decide +kernel

theorem test_decode_control :
    reads 0xA01BFFFFFFFFFFF0#64 (.bra { c7 with pg := 3 } 0xFFFFFFFC) ∧ reads (I 0xA1 0xFF 0x43 0x20 2) (.brx c7 0x43 0x20 2) ∧
    reads (I 0xA2 0xFF 0xFF 0x10) (.call c7 0x10) ∧ reads (I 0xA3 0xFF 0x43 0) (.callr c7 0x43) ∧ reads (I 0xA4 0xFF 0xFF 0) (.ret c7) ∧
    reads 0xA53BFFFC00000000#64 (.exit c7) ∧ reads 0xA63BFC03FFFFFFFC#64 (.rjp c7 0 0xFFFFFFFF) ∧ reads (I 0xA6 0xFF 0x0F 0x43 1) (.rjpReg c7 15 0x43) ∧
    reads (I 0xA7 0xFF 0x05 0) (.rjw c7 5) ∧ reads 0xA83BFFFC00000008#64 (.brk c7 2) ∧ reads (S 0xA9 0xFF 0xFF 0xFF 0) (.yld c7) ∧
    reads (S 0xAA 0xFF 0xFF 0xFF 0x3FFFFFF) (.sleep c7 0x3FFFFFF) := by decide +kernel

theorem test_decode_collectives :
    reads (R 0xB0 0xFF 0xFF 0xFF 0x87) (.rdv c7 0x87) ∧ reads (I 0xB1 0xFF 0xFF 0x0F) (.rdvI c7 0x0F) ∧
    reads (R 0xB2 0x21 0x43 0x65 0x87 0x02 0x1F 0 7) (.gshf c7 0x21 0x43 0x65 0x87 false 7) ∧ reads (R 0xB3 0x21 0x43 0x65 0x87 0x03 0x1F 0 2) (.gshx c7 0x21 0x43 0x65 0x87 true 2) ∧
    reads (R 0xB4 0x21 0x43 0x65 0x87 0x02 0x1F 0 0) (.gshu c7 0x21 0x43 0x65 0x87 false 0) ∧ reads (R 0xB5 0x21 0x43 0x65 0x87 0x02 0x1F 0 1) (.gshd c7 0x21 0x43 0x65 0x87 false 1) ∧
    reads (R 0xB6 0x21 0x05 0xFF 0x87) (.gbal c7 0x21 5 0x87) ∧ reads 0xB7380C07FFFFFFFC#64 (.gbalI c7 3 1 0xFFFFFFFF) ∧ reads (R 0xB8 0x02 0x05 0xFF 0x87) (.gany c7 2 5 0x87) ∧
    reads (I 0xB9 0x02 0x05 3) (.ganyI c7 2 5 3) ∧ reads (R 0xBA 0x02 0x05 0xFF 0x87) (.gall c7 2 5 0x87) ∧ reads (I 0xBB 0x02 0x05 3) (.gallI c7 2 5 3) ∧
    reads 0xBC382827FFFC41A0#64 (.gred c7 false 10 9 .n32 .add (.run 5 0)) ∧ reads 0xBCB8100FFFFD2160#64 (.gred c7 true 4 3 .f16 .add (.run 3 0)) ∧
    reads (C 0xBD 0x21 0x43 0x87 0x06 2 1 0 0 0) (.gscn c7 false 0x21 0x43 .s32 .max true (.reg 0x87)) ∧
    reads (C 0xBE 0x21 0x43 0xFF 0x03 0 0 1 2 4) (.gmat c7 0x21 0x43 true (.run 2 4)) := by decide +kernel

theorem test_decode_memory :
    reads 0xC038103C14400080#64 (.ld c7 4 15 5 .n32 .v1 .normal 0x80) ∧ reads 0xC1B81C3C0D206000#64 (.st c7 true 7 15 3 .f16 .v1 .normal 0x6000) ∧
    reads (M 0xC1 0x21 0x03 0x65 0x34 2 0xFFFC) (.st c7 false 0x21 3 0x65 .s32 .v4 .nl1 0xFFFC) ∧ reads 0xC238200FFC000000#64 (.bset c7 8 3) ∧ reads 0xC3380037FC000010#64 (.bget c7 0 13 0xFF 0x10) ∧
    reads 0xC4380C0008400004#64 (.bchk c7 3 0 2 .n32 .v1 4) ∧ reads 0xC53BFC03FC040000#64 (.ltag c7 0 0xFF true 0) ∧ reads 0xC63BFC0008040100#64 (.pref c7 0 2 true 0x100) ∧
    reads 0xC80212F001001000#64 (.xcp { c7 with pg := 0 } { hw := true, h := 0, acq := false, rel := true, sc := .blk } 15 0 1 0 8 0 0) ∧
    reads 0xC803784F00207008#64 (.xcp { c7 with pg := 0 } { hw := true, h := 5, acq := true, rel := true, sc := .dev } 4 15 0 32 0x38 1 0) ∧
    reads (E 0xC8 0 0 0 0 0 (1#1 ++ 3#4 ++ 4#4 ++ 0x123#12 ++ 9#6 ++ 4#3 ++ 0#11)) (.xcpDesc c7 { hw := false, h := 0, acq := false, rel := false, sc := .thread } 3 4 0x123 9 4) ∧
    reads 0xC93A41E0800A8400#64 (.xln c7 { hw := true, h := 1, acq := false, rel := false, sc := .thread } 15 4 0 5 1 2) ∧
    reads (E 0xCA 1 2 1 1 1 (0x43#8 ++ 0x801#12 ++ 0x7F#8 ++ 0xF#4 ++ 3#6 ++ 5#3)) (.xrot c7 { hw := true, h := 2, acq := true, rel := true, sc := .blk } 0x43 0x801 0x7F 15 3 5) ∧
    reads 0xCB03FC3C00000400#64 (.ainit { c7 with pg := 0 } 15 0 0xFF 256 false) ∧ reads 0xCC3BFC3C00000200#64 (.aarv c7 15 0 0xFF 128) ∧
    reads 0xCD78043FFFFC0000#64 (.awt { c7 with sp := true } 1 15 0xFF 0xFF 0) := by decide +kernel

theorem test_decode_ordering :
    reads 0xD0381800080C3820#64 (.atom c7 6 0 2 3 .add .acqrel .dev .n32) ∧ reads 0xD13BFC00080E8080#64 (.red c7 0 2 3 .fadd .f32) ∧ reads 0xD2381007FE000000#64 (.acq c7 4 1 0xFF .dev 0) ∧
    reads 0xD3381807FE400000#64 (.rel c7 6 1 0xFF .dev true 0) ∧ reads 0xD4382007FC000000#64 (.bind c7 8 1 0xFF 0) ∧ reads 0xD53BFFFFFC00001C#64 (.fence c7 .acqrel .dev) ∧
    reads 0xD63BFFFFFC000000#64 (.bar c7) ∧ reads 0xD703FFFFFC000004#64 (.cmt { c7 with pg := 0 } .dev) ∧
    reads 0xD842E3FFE0041FFF#64 (.mop { c7 with pg := 0, sp := true } { hw := true, h := 3, acq := true, rel := false, sc := .blk } ⟨15, 0xFF, 2⟩) ∧
    reads (E 0xD9 1 1 0 0 0 (2#4 ++ 0x65#8 ++ 0xFFF#12 ++ 0#1 ++ 0#3 ++ 0x87#8 ++ 0x08#5)) (.ald c7 { hw := true, h := 1, acq := false, rel := false, sc := .thread } ⟨2, 0x65, 0xFFF⟩ 0x87 .f32) ∧
    reads 0xDA0313FFE080A10C#64 (.ast { c7 with pg := 0 } { hw := true, h := 4, acq := false, rel := true, sc := .blk } ⟨15, 0xFF, 64⟩ false .rs 8 .e4m3) ∧
    reads 0xDB3A801FE000013F#64 (.azr c7 { hw := true, h := 2, acq := false, rel := false, sc := .thread } 9) ∧ reads 0xDC7BFFFFFC000000#64 (.ckpt { c7 with sp := true }) ∧
    reads 0xDD3BBA0400180000#64 (.ccol c7 { hw := true, h := 6, acq := true, rel := true, sc := .sys } .ar .add .f32 3) := by decide +kernel

theorem test_decode_system :
    reads (S 0xE0 0x05 0x02 0x65 0) (.ftst c7 5 2 0x65) ∧ reads 0xE1000C03FC000000#64 (.fwt { c7 with pg := 0 } 3 0) ∧ reads (S 0xE1 0x21 0x43 0xFF 1) (.fwtToken c7 0x21 0x43) ∧
    reads (S 0xE2 0xFF 0x07 0xFF 0) (.fcan c7 7) ∧ reads (S 0xE2 0xFF 0x43 0xFF 1) (.fcanToken c7 0x43) ∧ reads (S 0xE4 0xFF 0xFF 0xFF 0x2ABCDEF) (.trap c7 0x2ABCDEF) ∧
    reads (S 0xE5 0xFF 0xFF 0xFF 0) (.tret c7) ∧ reads (0xE67BFFFFFC000007#64) (.bkpt { c7 with sp := true } 7) ∧ reads 0xE73817FFFC010001#64 (.sysr c7 5 0x10001) ∧
    reads (S 0xE8 0xFF 0x43 0xFF 0x20100) (.sysw c7 0x43 0x20100) ∧ reads 0xE938180BFC000000#64 (.lnch c7 6 2) ∧ reads (S 0xEA 0xFF 0x43 0xFF 0) (.cncl c7 0x43) ∧
    reads (S 0xEB 0xFF 0x43 0x65 0x0C) (.csig c7 0x43 0x65 true .dev) ∧ reads (S 0xEC 0x05 0x43 0x65 0) (.cwtVal c7 5 0x43 0x65 false .thread) ∧
    reads 0xEC380413FC00001C#64 (.cwtDone c7 1 4 true .dev) ∧ reads 0xF03BFC0BFFFFFF00#64 (.avset c7 2) ∧ reads 0xF13BFFFC000009B0#64 (.avsetI c7 620) ∧
    reads 0xF238201FFFFFFF00#64 (.endr c7 8 7 false) ∧ reads 0xF2380C07FFFFFF01#64 (.endrPred c7 3 1) ∧ reads 0xF3382420282D9F00#64 (.endrc c7 9 8 10 11 .e4m3) ∧
    reads (R 0x13 0x21 0x43 0x65 0x13 0x02) (.subb c7 0x21 2 0x43 0x65 (some 3)) := by decide +kernel

/-! ### Ill-formed terms, one for each check of WellFormed.lean -/

/-- An engine part without a handle, and one with an acquire but no scope (R86). -/
def e0 : Eng := { hw := false, h := 0, acq := false, rel := false, sc := .thread }

theorem test_wf_special_index : (Instr.srd c7 1 0x0D#8 false).wf = false ∧ (Instr.srd c7 1 0x00#8 true).wf = false ∧ (Instr.srd c7 1 0x1A#8 true).wf = true := by decide +kernel
theorem test_wf_abs : (Instr.abs c7 1 2 .n32 false).wf = false := by decide +kernel
theorem test_wf_key_type : (Instr.kmax c7 1 2 3 .e4m3).wf = false ∧ (Instr.kcmp c7 1 true 2 3 .s64).wf = false := by decide +kernel
theorem test_wf_float_type : (Instr.fadd c7 false 1 2 3 .e5m2 .rne).wf = false ∧ (Instr.fcls c7 1 2 .n32).wf = false := by decide +kernel
theorem test_wf_rounding : (Instr.fadd c7 false 1 2 3 .f32 .rna).wf = false ∧ (Instr.frnd c7 1 2 .f32 .rs).wf = false := by decide +kernel
theorem test_wf_approximate : (Instr.fadd c7 true 1 2 3 .f32 .rne).wf = false ∧ (Instr.fmul c7 true 1 2 3 .f16 .rz).wf = false := by decide +kernel
theorem test_wf_immediate : (Instr.faddI c7 false 1 2 0x10000 .f16).wf = false ∧ (Instr.fcmpI c7 false 1 .num true 2 0 .f32).wf = false := by decide +kernel
theorem test_wf_unordered : (Instr.fcmp c7 false 1 .nan true 2 3 .f32).wf = false ∧ (Instr.hcmp2 c7 false 1 2 3 .f16 .num true).wf = false := by decide +kernel
theorem test_wf_transcendental : (Instr.frcp c7 1 2 .bf16 .rne).wf = false ∧ (Instr.fex2 c7 1 2 .bf16).wf = false := by decide +kernel
theorem test_wf_packed : (Instr.hadd2 c7 false 1 2 3 .f32 .rne).wf = false ∧ (Instr.hdot2 c7 false 1 2 3 4 .f32 .f32 .rne).wf = false := by decide +kernel
theorem test_wf_conversions : (Instr.cvt c7 false 1 2 .n32 .s32 .rz false).wf = false ∧ (Instr.cvt c7 false 1 2 .n32 .f32 .rs false).wf = false := by decide +kernel
theorem test_wf_narrow : (Instr.cvtn c7 false 1 2 3 .f32 .rne false 0).wf = false ∧ (Instr.cvtn c7 false 1 2 3 .e4m3 .rne false 2).wf = false := by decide +kernel
theorem test_wf_widen : (Instr.cvtw c7 false 1 2 .f16 .bf16 0).wf = false ∧ (Instr.cvtw c7 false 1 2 .f32 .e4m3 4).wf = false := by decide +kernel
theorem test_wf_sdot : (Instr.sdot c7 1 2 3 4 .e2m1 .e4m3 0).wf = false := by decide +kernel
theorem test_wf_cbx : (Instr.cbx c7 1 2 3 .n32).wf = false ∧ (Instr.cbx c7 1 2 3 .f32).wf = false := by decide +kernel
theorem test_wf_rejoin : (Instr.rjpReg c7 1 0xFF#8).wf = false ∧ (Instr.brk c7 0).wf = false ∧ (Instr.brk c7 9).wf = false := by decide +kernel
theorem test_wf_mask_run : (Instr.gmat c7 1 2 false (.run 6 0)).wf = false ∧ (Instr.gmat c7 1 2 false (.run 2 2)).wf = false := by decide +kernel
theorem test_wf_folds : (Instr.gred c7 false 1 2 .f32 .xor (.reg 3)).wf = false ∧ (Instr.gscn c7 true 1 2 .f32 .add false (.reg 3)).wf = false := by decide +kernel
theorem test_wf_access_type : (Instr.ld c7 1 2 3 .e2m1 .v1 .normal 0).wf = false ∧ (Instr.bchk c7 1 2 3 .lq2 .v1 0).wf = false := by decide +kernel
theorem test_wf_engine_part :
    (Instr.mop c7 { e0 with h := 1 } ⟨0, 0, 0⟩).wf = false ∧ (Instr.mop c7 { e0 with acq := true } ⟨0, 0, 0⟩).wf = false ∧
    (Instr.mop c7 { e0 with rel := true, sc := .blk } ⟨0, 0, 0⟩).wf = false := by decide +kernel
theorem test_wf_copies : (Instr.xcp c7 e0 1 2 0 0 1 0 5).wf = false ∧ (Instr.xln c7 e0 1 2 3 4 3 0).wf = false ∧ (Instr.xrot c7 e0 1 0 0 3 0 0).wf = false := by decide +kernel
theorem test_wf_arrival_target : (Instr.ainit c7 1 0 2 0 false).wf = false := by decide +kernel
theorem test_wf_atomics : (Instr.atom c7 1 2 3 4 .inc .rlx .thread .s32).wf = false ∧ (Instr.red c7 2 3 4 .exch .n32).wf = false := by decide +kernel
theorem test_wf_orderings : (Instr.atom c7 1 2 3 4 .add .acq .thread .n32).wf = false ∧ (Instr.fence c7 .rlx .blk).wf = false ∧ (Instr.cmt c7 .thread).wf = false := by decide +kernel
theorem test_wf_matrix : (Instr.ald c7 e0 ⟨0, 0, 0⟩ 1 .n64).wf = false ∧ (Instr.ast c7 e0 ⟨0, 0, 0⟩ true .rs 1 .s32).wf = false := by decide +kernel
theorem test_wf_ccol : (Instr.ccol c7 e0 .ag .max .f32 0).wf = false ∧ (Instr.ccol c7 e0 .ar .and .f32 0).wf = false := by decide +kernel
theorem test_wf_system : (Instr.sysr c7 1 0x20180).wf = false ∧ (Instr.sysw c7 1 0x10003).wf = false ∧ (Instr.bkpt c7 1).wf = false := by decide +kernel
theorem test_wf_signals : (Instr.csig c7 1 2 true .thread).wf = false ∧ (Instr.cwtVal c7 1 2 3 false .dev).wf = false := by decide +kernel
theorem test_wf_voltage : (Instr.avsetI c7 445).wf = false ∧ (Instr.avsetI c7 501).wf = false ∧ (Instr.endrc c7 1 2 3 4 .f32).wf = false := by decide +kernel

/-! ### Words the decoder refuses, and words near a limit -/

/-- Why a word is refused, when it is. -/
def refusal (w : DWord) : Option Reject := match decode w with | .ok _ => none | .error e => some e
/-- An instruction's own word decodes to it. -/
def round (i : Instr) : Bool := match encode i with | some w => reads w i | none => false

theorem test_refused_words :
    refusal 0 = some .unassigned ∧ refusal (R 0x0B 1 2 3 4) = some .unassigned ∧
    refusal (R 0x10 1 2 3 0xFF 0 0x1F 0 0 true) = some .notApproximate ∧ (refusal (R 0x10 1 2 3 4 0)).isSome ∧
    (refusal (I 0xF1 0xFF 0xFF 445)).isSome ∧ (refusal (S 0xE7 5 0xFF 0xFF 0x20180)).isSome := by decide +kernel
theorem test_limits_round :
    round (.sysr c7 5 0x10000) ∧ round (.sysr c7 5 0x2017F) ∧ round (.avsetI c7 450) ∧ round (.avsetI c7 750) ∧
    round (.brk c7 8) ∧ round (.xcp c7 e0 15 15 0xFF 0xFF 0x7F 63 4) ∧ round (.gmat c7 1 2 true (.run 5 0)) := by decide +kernel
theorem test_table_word : decodeTableWord 64 0xE73817FFFC010001 = some (.sysr c7 5 0x10001) ∧ decodeTableWord 64 0 = none := by decide +kernel

/-! ### The spec's worked results -/

/-- The registers after an instruction, from the thread's first state with some registers set: none if it stopped. -/
def gives (i : Instr) (s : State) (out : List (Nat × Word)) : Bool :=
  match exec i s with
  | .next s' => out.all fun p => ((s'.block? 0).bind fun b => b.thread? 0).any fun t => t.regs[p.1]? == some ⟨p.2, .P⟩
  | _ => false

/-- "Address arithmetic" worked example (section 07). -/
theorem test_lea_worked : gives (.lea c7 4 2 7 .n64s32 2) (mk (regs [(2, 0xF00), (3, 0x10), (7, 0xFFFFFFFC)])) [(4, 0xEF0), (5, 0x10)] := by decide +kernel
/-- R150's worked example: a table entry 0xE4E4 at 5, index 0x0605. -/
def tabled : State :=
  (mk (regs [(6, 0x605), (7, 127)])).modCore 0 fun c => { c with lqt := c.lqt.set 1 0xE4E40000#64 }
theorem test_cbx_worked : gives (.cbx c7 12 6 0xFF .n32) tabled [(12, 0x753175DF)] ∧
    gives (.cbx c7 12 6 7 .f16) tabled [(12, 0xBE00B800), (13, 0x43004100), (14, 0x3E003800), (15, 0x43004100)] := by decide +kernel
/-- R149's worked example, on lane 9. -/
theorem test_sdot_worked : sdotValue .e4m3 .e4m3 9 0 0x44B04038 0x38403038 0x8000 0x7E00 (decodeF .f32 0x3FC00000) = 0x40B00000 := by decide +kernel
/-- The conversion table of section 11. -/
theorem test_cvt_table : gives (.cvt c7 false 4 2 .f16 .f32 .rne false) (mk (regs [(2, 0x41980000)])) [(4, 0x4CC0)] ∧
    gives (.cvt c7 false 4 2 .e5m2 .f32 .rne false) (mk (regs [(2, 0x43F00000)])) [(4, 0x60)] ∧
    gives (.cvt c7 false 4 2 .e4m3 .f32 .rne true) (mk (regs [(2, 0x43F00000)])) [(4, 0x7E)] ∧
    gives (.cvt c7 false 4 2 .e4m3 .f32 .rz false) (mk (regs [(2, 0x41980000)])) [(4, 0x59)] := by decide +kernel
theorem test_cvt_table_small : gives (.cvt c7 false 4 2 .e4m3 .f32 .rne false) (mk (regs [(2, 0xBA800000)])) [(4, 0x80)] ∧
    gives (.cvt c7 false 4 2 .e2m3 .f32 .rne false) (mk (regs [(2, 0x3DCCCCCD)])) [(4, 1)] ∧
    gives (.cvt c7 false 4 2 .e2m1 .f32 .rne false) (mk (regs [(2, 0x7F800000)])) [(4, 7)] := by decide +kernel
/-- R324's worked example. -/
def ended (a : Word) : State := mk fun t => regs [(8, a), (10, 0x5830), (11, 0x38)] t
theorem test_endrc_worked : gives (.endrc c7 9 8 10 11 .e4m3) (ended 0x59) [(9, 0x58)] ∧ gives (.endrc c7 9 8 10 11 .e4m3) (ended 0x80) [(9, 0x30)] ∧
    gives (.endrc c7 9 8 10 11 .e4m3) (ended 0x7F) [(9, 0x38)] ∧ gives (.endrc c7 9 8 10 11 .e4m3) (ended 0x40) [(9, 0x40)] := by decide +kernel
/-- The step after withFetchWord runs the placed instruction: MOVI g9, 1 writes the register and advances by its two slots. -/
theorem test_step_fetched : (match step (State.reset.withFetchWord 64 0x033827FC00000004) with
    | .next s => ((s.block? 0).bind fun b => b.thread? 0).any fun t => t.regs[9]? == some ⟨1, .P⟩ && t.slot == 2
    | _ => false) = true := by decide +kernel
end Sys2Proof.Tests
end

section
/-! SUPPORT. R5, R77, R107, R288: the read-after-write rules of registers, pairs, predicates and memory. -/

namespace Sys2Proof.Machine

/-! ### Registers and pairs (R77, R107) -/

@[simp] theorem Thread.reg_gz (t : Thread) : t.reg 0xFF#8 = ⟨0, .P⟩ := rfl
@[simp] theorem Thread.setReg_gz (t : Thread) (r : Reg) : t.setReg 0xFF#8 r = t := rfl

theorem Thread.setReg_regs {g : G} (hg : g ≠ 0xFF#8) (t : Thread) (r : Reg) :
    (t.setReg g r).regs = t.regs.set g.toNat r := by
  simp [Thread.setReg, hg]

/-- A thread that sees no old value (R47) reads what its register file holds. -/
theorem Thread.reg_eq_getD {t : Thread} {g : G} (hs : t.seen = []) (hg : g ≠ 0xFF#8) :
    t.reg g = t.regs.getD g.toNat ⟨0, .P⟩ := by
  simp [Thread.reg, hs, hg]

theorem Thread.reg_setReg_same {t : Thread} {g : G} (hs : t.seen = []) (hg : g ≠ 0xFF#8) (hl : g.toNat < t.regs.length)
    (r : Reg) : (t.setReg g r).reg g = r := by
  rw [Thread.reg_eq_getD (by simpa using hs) hg, Thread.setReg_regs hg]
  simp [hl]

theorem Thread.reg_setReg_ne {t : Thread} {g h : G} (hs : t.seen = []) (hne : h ≠ g) (r : Reg) :
    (t.setReg g r).reg h = t.reg h := by
  by_cases hg : g = 0xFF#8
  · rw [hg, Thread.setReg_gz]
  by_cases hh : h = 0xFF#8
  · rw [hh, Thread.reg_gz, Thread.reg_gz]
  have hn : g.toNat ≠ h.toNat := fun e => hne (BitVec.eq_of_toNat_eq e.symm)
  rw [Thread.reg_eq_getD (by simpa using hs) hh, Thread.reg_eq_getD hs hh, Thread.setReg_regs hg]
  simp [hn]

theorem next_one {g : G} (hg : g ≠ 0xFF#8) : next g 1 = g + 1 := by
  simp [next, hg]

/-- The halves of a 64-bit value joined give it back (R107). -/
theorem joinPair_lowWord_highWord (v : DWord) : joinPair (lowWord v) (highWord v) = v := by
  apply BitVec.eq_of_getLsbD_eq
  intro i hi
  rw [joinPair, BitVec.getLsbD_append]
  by_cases h : i < 32
  · simp [lowWord, h]
  · simp [highWord, h, show 32 + (i - 32) = i by omega, show i - 32 < 32 by omega]

section Pair
variable {t : Thread} {g : G} (hs : t.seen = []) (hg : g ≠ 0xFF#8)
include hs hg

theorem Thread.reg_setPair_ne {h : G} (h0 : h ≠ g) (h1 : h ≠ g + 1) (v : DWord) : (t.setPair g v).reg h = t.reg h := by
  rw [Thread.setPair, next_one hg, Thread.reg_setReg_ne (by simpa using hs) h1, Thread.reg_setReg_ne hs h0]

variable (hl : g.toNat + 1 < t.regs.length)
include hl

theorem Thread.val_setPair_low (v : DWord) : (t.setPair g v).val g = lowWord v := by
  have hne : g ≠ g + 1 := by bv_omega
  rw [Thread.val, Thread.setPair, next_one hg, Thread.reg_setReg_ne (by simpa using hs) hne,
    Thread.reg_setReg_same hs hg (by omega)]

variable (hg' : g ≠ 0xFE#8)
include hg'

theorem Thread.val_setPair_high (v : DWord) : (t.setPair g v).val (g + 1) = highWord v := by
  have hn : g + 1 ≠ 0xFF#8 := by bv_omega
  have hlen : (g + 1).toNat < (t.setReg g ⟨lowWord v, .P⟩).regs.length := by
    rw [Thread.setReg_regs hg, List.length_set]
    bv_omega
  rw [Thread.val, Thread.setPair, next_one hg, Thread.reg_setReg_same (by simpa using hs) hn hlen]

theorem Thread.pair_setPair (v : DWord) : (t.setPair g v).pair g = v := by
  rw [Thread.pair, next_one hg, Thread.val_setPair_low hs hg hl, Thread.val_setPair_high hs hg hl hg',
    joinPair_lowWord_highWord]
end Pair

/-! ### Predicates (R77) -/

@[simp] theorem Thread.pred_p7 (t : Thread) : t.pred 7#3 = ⟨true, .P⟩ := rfl
@[simp] theorem Thread.setPred_p7 (t : Thread) (r : PReg) : t.setPred 7#3 r = t := rfl

theorem Thread.setPred_preds {p : PF} (hp : p ≠ 7#3) (t : Thread) (r : PReg) :
    (t.setPred p r).preds = t.preds.set p.toNat r := by
  simp [Thread.setPred, hp]

/-- A thread that sees no old value (R48) reads what its predicates hold. -/
theorem Thread.pred_eq_getD {t : Thread} {p : PF} (hs : t.seen = []) (hp : p ≠ 7#3) :
    t.pred p = t.preds.getD p.toNat ⟨false, .P⟩ := by
  simp [Thread.pred, hs, hp]

theorem Thread.pred_setPred_same {t : Thread} {p : PF} (hs : t.seen = []) (hp : p ≠ 7#3) (hl : t.preds.length = 7)
    (r : PReg) : (t.setPred p r).pred p = r := by
  have hlt : p.toNat < t.preds.length := by bv_omega
  rw [Thread.pred_eq_getD (by simpa using hs) hp, Thread.setPred_preds hp]
  simp [hlt]

theorem Thread.pred_setPred_ne {t : Thread} {p q : PF} (hs : t.seen = []) (hne : q ≠ p) (r : PReg) :
    (t.setPred p r).pred q = t.pred q := by
  by_cases hp : p = 7#3
  · rw [hp, Thread.setPred_p7]
  by_cases hq : q = 7#3
  · rw [hq, Thread.pred_p7, Thread.pred_p7]
  have hn : p.toNat ≠ q.toNat := fun e => hne (BitVec.eq_of_toNat_eq e.symm)
  rw [Thread.pred_eq_getD (by simpa using hs) hq, Thread.pred_eq_getD hs hq, Thread.setPred_preds hp]
  simp [hn]

/-! ### Memory (R288) -/

theorem readBytes_writeBytes (m : List Host.Cell) (a : Nat) (bs : List Byte) (h : Memory.wf m = true) :
    readBytes (writeBytes m a bs) a bs.length = bs := by
  apply List.ext_getElem
  · simp [readBytes]
  · intro i _ hi
    simp [readBytes, readByte_writeBytes bs m a h, hi]

theorem readByte_writeBytes_outside (m : List Host.Cell) (a : Nat) (bs : List Byte) (h : Memory.wf m = true) (x : Nat)
    (hx : x < a ∨ a + bs.length ≤ x) : readByte (writeBytes m a bs) x = readByte m x := by
  rw [readByte_writeBytes bs m a h, if_neg (by omega)]

/-- Memory in canonical form lists its first address because it does not read as unlisted: another memory that reads alike does not
begin above it. -/
theorem not_above_of_readByte_eq {c : Host.Cell} {m n : List Host.Cell} (hm : Memory.wf (c :: m) = true)
    (h : ∀ a, readByte (c :: m) a = readByte n a) : ¬ ∀ d ∈ n, c.1 < d.1 := by
  intro hlt
  obtain ⟨hc, -, -⟩ := (wf_cons c m).1 hm
  have hr := h c.1
  rw [readByte_cons, if_pos rfl, readByte_above n c.1 hlt] at hr
  exact hc hr

/-- With the same first cell, memories that read alike have tails that read alike. -/
theorem readByte_tail_eq {c : Host.Cell} {m n : List Host.Cell} (hm : ∀ d ∈ m, c.1 < d.1) (hn : ∀ d ∈ n, c.1 < d.1)
    (h : ∀ a, readByte (c :: m) a = readByte (c :: n) a) (a : Nat) : readByte m a = readByte n a := by
  by_cases ha : c.1 = a
  · rw [← ha, readByte_above m _ hm, readByte_above n _ hn]
  · simpa [readByte_cons, ha] using h a

/-- The canonical form is unique: memories that read alike are equal. -/
theorem eq_of_readByte_eq {m n : List Host.Cell} (hm : Memory.wf m = true) (hn : Memory.wf n = true)
    (h : ∀ a, readByte m a = readByte n a) : m = n := by
  induction m generalizing n with
  | nil =>
    cases n with
    | nil => rfl
    | cons d n => exact absurd (by simp) (not_above_of_readByte_eq hn fun a => (h a).symm)
  | cons c m ih =>
    cases n with
    | nil => exact absurd (by simp) (not_above_of_readByte_eq hm h)
    | cons d n =>
      obtain ⟨-, hcm, hm'⟩ := (wf_cons c m).1 hm
      obtain ⟨-, hdn, hn'⟩ := (wf_cons d n).1 hn
      have hcd : ¬ c.1 < d.1 := fun hlt => not_above_of_readByte_eq hm h
        (List.forall_mem_cons.2 ⟨hlt, fun x hx => Nat.lt_trans hlt (hdn x hx)⟩)
      have hdc : ¬ d.1 < c.1 := fun hlt => not_above_of_readByte_eq hn (fun a => (h a).symm)
        (List.forall_mem_cons.2 ⟨hlt, fun x hx => Nat.lt_trans hlt (hcm x hx)⟩)
      have haddr : c.1 = d.1 := by omega
      have hval : c.2 = d.2 := by simpa [readByte_cons, haddr] using h c.1
      obtain rfl : c = d := Prod.ext haddr hval
      rw [ih hm' hn' (readByte_tail_eq hcm hdn h)]

/-- Settles O54: the read-after-write rule of each kind of storage, and the uniqueness of memory's canonical form. -/
theorem storageReads : Obligations.StorageReads := by
  refine ⟨fun t g h r hs => ⟨⟨t.setReg_gz r, t.reg_gz⟩, fun hg hl => Thread.reg_setReg_same hs hg hl r,
      fun hne => Thread.reg_setReg_ne hs hne r⟩,
    fun t g v hs hg hg' hl => ⟨Thread.pair_setPair hs hg hl hg' v, Thread.val_setPair_low hs hg hl v,
      Thread.val_setPair_high hs hg hl hg' v, fun h h0 h1 => Thread.reg_setPair_ne hs hg h0 h1 v⟩,
    fun t p q r hs hl => ⟨t.setPred_p7 r, t.pred_p7, fun hp => Thread.pred_setPred_same hs hp hl r,
      fun hne => Thread.pred_setPred_ne hs hne r⟩,
    fun m a bs hm => ⟨writeBytes_wf bs m a hm, readBytes_writeBytes m a bs hm, readByte_writeBytes_outside m a bs hm⟩,
    fun m n hm hn h => eq_of_readByte_eq hm hn h⟩

end Sys2Proof.Machine
end

section
/-! SUPPORT. R304: BAR parks its thread whatever its guard says, so a false guard does not make it only go on (R105). -/

namespace Sys2Proof.Machine

@[simp] theorem Thread.advance_park (t : Thread) : t.advance.park = t.park := by
  unfold Thread.advance
  split
  · split <;> rfl
  · rfl

/-- Going on changes no thread's parked state. -/
theorem GoesOn.park {c : Ctl} {t t' : Thread} (h : GoesOn c t t') : t'.park = t.park :=
  (congrArg Thread.park h.1 : t'.bare.park = t.advance.bare.park).trans t.advance_park

/-- The thread that a ThreadOnly step leaves in the issuing thread's place. -/
theorem ThreadOnly.thread {P : Thread → Prop} {n : Nat} {s s' : State} {u : Cur} (h : ThreadOnly P n s s' u)
    (hc : s.cur = some u) : ∃ t, P t ∧ s'.thread? u.b.bid u.tid = some t := by
  obtain ⟨hb, ht⟩ := State.cur_block hc
  obtain ⟨t, hP, hb'⟩ := h.block hb
  obtain ⟨hlt, -⟩ := List.getElem?_eq_some_iff.1 ht
  exact ⟨t, hP, by simp [State.thread?, hb', Block.thread?, hlt]⟩

theorem exec_bar (c : Ctl) (s : State) : exec (.bar c) s = execPark c s .bar := rfl

/-- BAR with a P-typed guard of either value parks its thread (R304, log 91). -/
theorem exec_bar_parks {s : State} {u : Cur} {c : Ctl} (hc : s.cur = some u) (hp : (u.t.pred c.pg).ty = .P) :
    Completes c s u 0 (exec (.bar c) s) { u.t.busy with park := .bar } := by
  have he : exec (.bar c) s = .next (s.done u c 1 { u.t.busy with park := .bar }) := by
    simp [exec_bar, execPark, hc, Checks.guardBad, precise, hp]
  exact ⟨_, he, s.done_completes u c 1 _⟩

/-- A running thread's BAR does not leave the thread as it was. -/
theorem exec_bar_not_off {s : State} {u : Cur} {c : Ctl} (hc : s.cur = some u) (hp : (u.t.pred c.pg).ty = .P)
    (hr : u.t.park = .running) : ¬ Completes c s u 0 (exec (.bar c) s) u.t := by
  rintro ⟨s', he, hoff⟩
  obtain ⟨s'', he', hbar⟩ := exec_bar_parks hc hp
  obtain rfl : s' = s'' := by simpa [he] using he'
  obtain ⟨t, ht, hst⟩ := hoff.thread hc
  obtain ⟨t', ht', hst'⟩ := hbar.thread hc
  obtain rfl : t = t' := by simpa [hst] using hst'
  have hpark : u.t.park = .bar := ht.park.symm.trans ht'.park
  rw [hr] at hpark
  cases hpark

/-- The control fields of an instruction guarded by p0. -/
def ctlP0 : Ctl := { pg := 0, pn := false, sp := false }

/-- A thread placed after reset at `(p0) BAR`: its predicates are false. -/
def atGuardedBar : State := State.reset.withFetchWord 64 0xD603FFFFFC000000

/-- The thread of atGuardedBar issues, the word it stands at is its BAR, its guard is P-typed and false, and it is not parked. -/
theorem atGuardedBar_cur : encode (.bar ctlP0) = some 0xD603FFFFFC000000#64 ∧
    ∃ u, atGuardedBar.cur = some u ∧ atGuardedBar.codeWord u.b u.t.pc = some 0xD603FFFFFC000000#64 ∧
      (u.t.pred ctlP0.pg).ty = .P ∧ u.t.guard ctlP0 = false ∧ u.t.park = .running := by
  refine ⟨by decide +kernel, _, rfl, ?_⟩
  decide +kernel

/-- Refutes O58: its clause for BAR. The thread of atGuardedBar, whose guard is P-typed and false, does not only go on: it parks and
arrives, as R304 says. -/
theorem not_issueChecks : ¬ Obligations.IssueChecks := by
  intro h
  obtain ⟨-, u, hc, -, hp, hg, hr⟩ := atGuardedBar_cur
  obtain ⟨-, -, -, -, -, -, hfalse, -⟩ := h atGuardedBar u ctlP0 0 0 0 .n32 .f32 .rne false hc
  obtain ⟨-, -, hbar⟩ := hfalse hp hg
  exact exec_bar_not_off hc hp hr hbar

end Sys2Proof.Machine
end

section
/-! SUPPORT. R12, R90, R229, R249, R250, R287: ST. The rules of the operations that a store uses (the block found after an update, the
flags of a thread, the share after an entry, the bank after a write), the bytes a store takes, and what its issue does. -/

namespace Sys2Proof.Machine

/-! ### The block found after an update -/

theorem State.block?_bid {s : State} {w : Nat} {b : Block} (h : s.block? w = some b) : b.bid = w := by
  simpa using List.find?_some h

theorem State.block?_congr {s s' : State} (h : s'.blocks = s.blocks) (w : Nat) : s'.block? w = s.block? w := by
  simp [State.block?, h]

/-- An update of every block that keeps their numbers. -/
theorem State.block?_map (s : State) {f : Block → Block} (hf : ∀ b, (f b).bid = b.bid) (w : Nat) :
    ({ s with blocks := s.blocks.map f } : State).block? w = (s.block? w).map f := by
  have hbid : (fun b : Block => b.bid == w) ∘ f = fun b => b.bid == w := funext fun b => congrArg (· == w) (hf b)
  show (s.blocks.map f).find? (fun b => b.bid == w) = (s.blocks.find? (fun b => b.bid == w)).map f
  rw [List.find?_map, hbid]

theorem State.block?_modBlock {s : State} {w : Nat} {b : Block} (h : s.block? w = some b) (bid : Nat) {f : Block → Block}
    (hf : ∀ b, (f b).bid = b.bid) : (s.modBlock bid f).block? w = some (if w = bid then f b else b) := by
  have hkeep (x : Block) : (if x.bid == bid then f x else x).bid = x.bid := by split <;> simp [hf]
  rw [State.modBlock, s.block?_map hkeep, h]
  simp [State.block?_bid h]

theorem State.block?_modThread {s : State} {w : Nat} {b : Block} (h : s.block? w = some b) (bid tid : Nat) (f : Thread → Thread) :
    (s.modThread bid tid f).block? w = some (if w = bid then b.modThread tid f else b) :=
  State.block?_modBlock h bid fun _ => rfl

/-- A late effect on a thread changes, of its block, that thread and the images alone (R341). -/
theorem State.block?_modBoth {s : State} {bid : Nat} {b : Block} (h : s.block? bid = some b) (tid oid : Nat) (f : Thread → Thread) :
    ∃ i k, (s.modBoth bid tid oid f).block? bid = some { b.modThread tid f with image := i, ckpt := k } := by
  rw [State.modBoth, State.block?_modBlock h bid (fun x => by dsimp only; (repeat' split) <;> rfl), if_pos rfl]
  dsimp only
  split <;> split <;> exact ⟨_, _, rfl⟩

/-! ### Memory, tags and pending operations -/

/-- What a store leaves alone as it issues: memory, the tags and the pending operations. -/
def State.data (s : State) : List Host.Cell × List Nat × List Pend := (s.mem, s.tags, s.pend)

theorem State.data_eq {s s' : State} (h : s'.data = s.data) : s'.mem = s.mem ∧ s'.tags = s.tags ∧ s'.pend = s.pend := by
  simpa [State.data] using h

@[simp] theorem State.modBlock_data (s : State) (n : Nat) (f : Block → Block) : (s.modBlock n f).data = s.data := rfl
@[simp] theorem State.modThread_data (s : State) (n i : Nat) (f : Thread → Thread) : (s.modThread n i f).data = s.data := rfl
@[simp] theorem State.entered_data (s : State) (a : Acc) : (s.entered a).data = s.data := rfl
@[simp] theorem State.promote_data (s : State) (vf : Nat) (l : Nat × Nat) (b t : Nat) (o : Option Nat) :
    (s.promote vf l b t o).data = s.data := rfl
@[simp] theorem State.overwritten_data (s : State) (sp a n : Nat) : (s.overwritten sp a n).data = s.data := rfl
@[simp] theorem State.overwritten_blocks (s : State) (sp a n : Nat) : (s.overwritten sp a n).blocks = s.blocks := rfl

@[simp] theorem State.count_data (s : State) (d k n : Nat) : (s.count d k n).data = s.data := by
  unfold State.count; split <;> rfl
@[simp] theorem State.count_blocks (s : State) (d k n : Nat) : (s.count d k n).blocks = s.blocks := by
  unfold State.count; split <;> rfl

@[simp] theorem State.watchScr_data (s : State) (bit kind : Nat) (o : Block) (p n : Nat) (b : Block) (l : List (Nat × Nat))
    (x : Site) : (s.watchScr bit kind o p n b l x).data = s.data := by
  unfold State.watchScr State.watch; split <;> rfl
@[simp] theorem State.watchScr_blocks (s : State) (bit kind : Nat) (o : Block) (p n : Nat) (b : Block) (l : List (Nat × Nat))
    (x : Site) : (s.watchScr bit kind o p n b l x).blocks = s.blocks := by
  unfold State.watchScr State.watch; split <;> rfl

/-! ### The flags of a thread (R46) -/

/-- The flags of a thread of a block. -/
def Block.flagsOf (b : Block) (tid : Nat) : Option (List Nat) := (b.thread? tid).map Thread.flags

theorem State.thread?_of_flagsOf {s : State} {bid tid : Nat} {b : Block} {l : List Nat} (hb : s.block? bid = some b)
    (hf : b.flagsOf tid = some l) : ∃ t, s.thread? bid tid = some t ∧ t.flags = l := by
  simpa [State.thread?, hb, Block.flagsOf] using hf

/-- A flag counted and counted down again stands as it stood. -/
theorem Thread.endFlag_flags {t t' : Thread} {f : Option Nat} (h : t'.flags = (t.addFlag f).flags) : (t'.endFlag f).flags = t.flags := by
  cases f with
  | none => exact h
  | some i =>
    apply List.ext_getElem?
    intro j
    by_cases hj : i = j
    · simp [Thread.endFlag, h, Thread.addFlag, hj, Function.comp_def]
    · simp [Thread.endFlag, h, Thread.addFlag, hj]

theorem Block.flagsOf_endFlag {b : Block} {tid : Nat} {t : Thread} {f : Option Nat} {g : Thread → Thread}
    (hg : ∀ x, (g x).flags = (x.endFlag f).flags) (h : b.flagsOf tid = some (t.addFlag f).flags) :
    (b.modThread tid g).flagsOf tid = some t.flags := by
  obtain ⟨x, hx, hf⟩ := Option.map_eq_some_iff.1 h
  have hm : (b.modThread tid g).thread? tid = some (g x) := by
    rw [Block.thread?] at hx ⊢
    simp [hx]
  simp [Block.flagsOf, hm, hg, Thread.endFlag_flags hf]

@[simp] theorem Thread.advance_flags (t : Thread) : t.advance.flags = t.flags := by
  unfold Thread.advance
  split
  · split <;> rfl
  · rfl

/-- Going on changes no flag of a thread. -/
theorem GoesOn.flags {c : Ctl} {t t' : Thread} (h : GoesOn c t t') : t'.flags = t.flags :=
  (congrArg Thread.flags h.1 : t'.bare.flags = t.advance.bare.flags).trans t.advance_flags

/-- A promotion (R55) changes threads alone, and no flag of them. -/
theorem State.block?_promote {s : State} {w : Nat} {b : Block} (h : s.block? w = some b) (vf : Nat) (l : Nat × Nat) (bb bt : Nat)
    (own : Option Nat) : ∃ ts, (s.promote vf l bb bt own).block? w = some { b with threads := ts } ∧
      ∀ i, ({ b with threads := ts } : Block).flagsOf i = b.flagsOf i := by
  rw [State.promote, s.block?_map (fun x => by split <;> rfl), h, Option.map_some]
  split
  · refine ⟨_, rfl, fun i => ?_⟩
    simp only [Block.flagsOf, Block.thread?, List.getElem?_mapIdx, Option.map_map]
    congr 1
    funext t
    simp only [Function.comp]
    split <;> rfl
  · exact ⟨_, rfl, fun _ => rfl⟩

/-! ### The thread that has issued its access -/

/-- In s1 the issuing thread has gone on with flag f counted, and its block is else as it was. -/
def Started (s1 : State) (u : Cur) (f : Option Nat) : Prop :=
  ∃ t, s1.block? u.b.bid = some (u.b.setThread u.tid t) ∧ (u.b.setThread u.tid t).flagsOf u.tid = some (u.t.addFlag f).flags

theorem ThreadOnly.started {c : Ctl} {n : Nat} {s s1 : State} {u : Cur} {f : Option Nat}
    (h : ThreadOnly (GoesOn c (u.t.addFlag f)) n s s1 u) (hb : s.block? u.b.bid = some u.b) (ht : u.b.thread? u.tid = some u.t) :
    Started s1 u f := by
  obtain ⟨t, hg, hb1⟩ := h.block hb
  obtain ⟨hlt, -⟩ := List.getElem?_eq_some_iff.1 ht
  exact ⟨t, hb1, by simp [Block.flagsOf, Block.thread?, hlt, hg.flags]⟩

/-- No bank changes as a thread goes on. -/
theorem ThreadOnly.bank {P : Thread → Prop} {n : Nat} {s s1 : State} {u : Cur} {w : Nat} {x : Block} (h : ThreadOnly P n s s1 u)
    (hw : s.block? w = some x) : ∃ o, s1.block? w = some o ∧ ∀ i, o.bankByte i = x.bankByte i := by
  obtain ⟨t, -, -, he⟩ := h
  have hs : (s.setThread u.b.bid u.tid t).block? w = some (if w = u.b.bid then x.setThread u.tid t else x) :=
    State.block?_modBlock hw _ fun _ => rfl
  exact ⟨_, (State.block?_congr (congrArg State.blocks he) w).trans hs, fun i => by split <;> rfl⟩

theorem Started.noEffect {s1 : State} {u : Cur} {f : Option Nat} (h : Started s1 u f) :
    NoEffect u s1 (s1.modThread u.b.bid u.tid (fun t => t.endFlag f)) := by
  obtain ⟨t, hb, hf⟩ := h
  have hb2 := State.block?_modThread hb u.b.bid u.tid (fun t => t.endFlag f)
  rw [if_pos rfl] at hb2
  obtain ⟨t2, ht2, hfl⟩ := State.thread?_of_flagsOf hb2 (Block.flagsOf_endFlag (fun _ => rfl) hf)
  exact ⟨_, t2, hb2, rfl, rfl, ht2, hfl, rfl, rfl, rfl⟩

/-! ### The share (R248, R287) -/

theorem mem_takeWhile_or_mem_drop {α : Type} {p : α → Bool} {x : α} (hp : p x = true) {l : List α} (hx : x ∈ l) :
    x ∈ l.takeWhile p ∨ x ∈ l.drop ((l.takeWhile p).length + 1) := by
  induction l with
  | nil => cases hx
  | cons y l ih =>
    by_cases hy : p y = true
    · rcases List.mem_cons.1 hx with rfl | hx
      · simp [hy]
      · simpa [hy] using (ih hx).imp_left Or.inr
    · have hxl : x ∈ l := (List.mem_cons.1 hx).resolve_left fun e => hy (e ▸ hp)
      simp [hy, hxl]

/-- An entry as it stands filled in the share: merged when an LTAG of the block to its line stands before it (R254). -/
def Block.standing (b : Block) (e : Entry) : Entry :=
  { e with merged := (b.handed ++ b.share.takeWhile (fun x => x.eid != e.eid)).any (fun x => x.tags e.pa), filled := true }

/-- The share once an entry stands in it. -/
def Block.shareWith (b : Block) (e : Entry) : List Entry :=
  let front := b.share.takeWhile (fun x => x.eid != e.eid)
  front ++ b.standing e :: (b.share.drop (front.length + 1)).map fun x =>
    if x.filled && (b.standing e).tags x.pa then { x with merged := true } else x

theorem Block.standing_mem_shareWith (b : Block) (e : Entry) : b.standing e ∈ b.shareWith e :=
  List.mem_append_right _ List.mem_cons_self

/-- Every other entry of the share stays, merged or not. -/
theorem Block.mem_shareWith_of_ne {b : Block} {e x : Entry} (hx : x ∈ b.share) (hne : x.eid ≠ e.eid) :
    ∃ m, { x with merged := m } ∈ b.shareWith e := by
  rcases mem_takeWhile_or_mem_drop (p := fun y => y.eid != e.eid) (by simpa using hne) hx with h | h
  · exact ⟨x.merged, List.mem_append_left _ h⟩
  · by_cases ht : (x.filled && (b.standing e).tags x.pa) = true
    · exact ⟨true, List.mem_append_right _ (List.mem_cons_of_mem _ (List.mem_map.2 ⟨x, h, if_pos ht⟩))⟩
    · exact ⟨x.merged, List.mem_append_right _ (List.mem_cons_of_mem _ (List.mem_map.2 ⟨x, h, if_neg ht⟩))⟩

theorem State.sign_of_none (s : State) (b : Block) {e : Entry} (h : e.sig = none) : s.sign b e = s := by
  simp [State.sign, h]

/-- An entry with no signature to give enters: it stands in the share, and its line's watchers in the block are promoted (R55, R287). -/
theorem State.enter_eq {s : State} {bid : Nat} {b : Block} {e : Entry} (hb : s.block? bid = some b) (hsig : e.sig = none) :
    s.enter bid e = (s.modBlock bid fun x => { x with share := b.shareWith e }).promote b.vf (0, e.va / 128) bid e.tid (some bid) := by
  simp only [State.enter, hb]
  exact State.sign_of_none _ b (e := b.standing e) hsig

theorem State.block?_enter {s : State} {bid : Nat} {b : Block} {e : Entry} (hb : s.block? bid = some b) (hsig : e.sig = none) :
    ∃ ts, (s.enter bid e).block? bid = some { b with share := b.shareWith e, threads := ts } ∧
      ∀ i, ({ b with share := b.shareWith e, threads := ts } : Block).flagsOf i = b.flagsOf i := by
  have hm := State.block?_modBlock hb bid (f := fun x => { x with share := b.shareWith e }) fun _ => rfl
  rw [if_pos rfl] at hm
  rw [State.enter_eq hb hsig]
  exact State.block?_promote hm b.vf (0, e.va / 128) bid e.tid (some bid)

theorem State.enter_data {s : State} {bid : Nat} {b : Block} {e : Entry} (hb : s.block? bid = some b) (hsig : e.sig = none) :
    (s.enter bid e).data = s.data := by
  rw [State.enter_eq hb hsig]; rfl

/-- With no commit of the block under way nothing goes on by itself. -/
theorem State.advance_of_no_commits {s : State} {bid : Nat} {b : Block} (hb : s.block? bid = some b) (hc : b.commits = []) (n : Nat) :
    State.advance bid n s = s := by
  cases n with
  | zero => rfl
  | succ n =>
    have hw : s.commitAct b = .wait := by simp [State.commitAct, hc]
    simp [State.advance, hb, hw]

/-- The room an entry takes depends on its line alone. -/
theorem Block.overflows_congr (b : Block) {e e' : Entry} (h : e'.line? = e.line?) : b.overflows e' = b.overflows e := by
  simp only [Block.overflows, Block.used, List.filterMap_append, List.filter_append, List.filterMap_cons, List.filter_cons, h,
    ← List.append_assoc, List.length_append]
  cases e.line? <;> rfl

/-- An access that has entered counts its flag down; of its block it changes the thread and the images alone. -/
theorem State.block?_entered {s : State} {acc : Acc} {b : Block} (h : s.block? acc.bid = some b) :
    ∃ f i k, (s.entered acc).block? acc.bid = some { b.modThread acc.tid f with image := i, ckpt := k } ∧
      ∀ x, (f x).flags = (x.endFlag acc.flag).flags := by
  obtain ⟨i, k, hb⟩ := State.block?_modBoth h acc.tid acc.wid _
  exact ⟨_, i, k, hb, fun x => by dsimp only; split <;> rfl⟩

/-- An entry that finds room in its block's share enters it as its thread goes on (R248, R287). -/
theorem Started.buffers {s s1 : State} {u : Cur} {acc : Acc} {e : Entry} (h : Started s1 u acc.flag) (halone : u.b.alone)
    (hroom : u.b.overflows e = false) (hbid : acc.bid = u.b.bid) (htid : acc.tid = u.tid) (hsig : e.sig = none) (heid : e.eid = s.ids)
    (hetid : e.tid = u.tid) : Buffers s u e.kind e.va e.pa e.bytes s1 (s1.store acc e) := by
  obtain ⟨t, hb, hf⟩ := h
  obtain ⟨ts, hb1, hf1⟩ := State.block?_enter (e := e) hb hsig
  rw [← hbid] at hb1
  obtain ⟨g, i, k, hb2, hg⟩ := State.block?_entered hb1
  have hfl : (Block.modThread { u.b with share := u.b.shareWith e, threads := ts } u.tid g).flagsOf u.tid = some u.t.flags :=
    Block.flagsOf_endFlag hg ((hf1 u.tid).trans hf)
  have hroom1 : (u.b.setThread u.tid t).overflows e = false := hroom
  have hstore : s1.store acc e = (s1.enter acc.bid e).entered acc := by
    simp only [State.store, hbid ▸ hb, hroom1, Bool.and_false, Bool.false_and]
    exact State.advance_of_no_commits hb2 halone.2 _
  rw [hbid] at hb2 hstore
  rw [htid] at hb2
  obtain ⟨t2, ht2, hfl2⟩ := State.thread?_of_flagsOf hb2 hfl
  obtain ⟨hmem, htags, hpend⟩ := State.data_eq (State.enter_data hb hsig)
  rw [hstore]
  refine ⟨_, u.b.standing e, t2, hb2, u.b.standing_mem_shareWith e, heid, hetid, rfl, rfl, rfl, rfl, rfl,
    fun x hx hne => Block.mem_shareWith_of_ne hx (heid ▸ hne), rfl, ht2, hfl2, hmem, htags, hpend⟩

/-! ### The bank (R229, R249) -/

theorem Tab.get_set {α : Type} (t : Tab α) (d : α) (k j : Nat) (v : α) : (t.set k v).get d j = if j = k then v else t.get d j := by
  by_cases h : j = k
  · simp [Tab.get, Tab.set, h]
  · have hk : (k == j) = false := by simpa using Ne.symm h
    have hf : (t.filter fun p => p.1 != k).find? (fun p => p.1 == j) = t.find? (fun p => p.1 == j) := by
      rw [List.find?_filter]
      congr 1
      funext p
      by_cases hp : p.1 = j <;> simp [hp, h]
    simp [Tab.get, Tab.set, hk, hf, h]

/-- A write to a block's bank changes the bank and its history alone. -/
theorem Block.writeScr_eq (b : Block) (w : Writer) (wid pos : Nat) (bs : List Byte) :
    ∃ m h, b.writeScr w wid pos bs = { b with scr := m, hist := h } := by
  induction bs generalizing b pos with
  | nil => exact ⟨b.scr, b.hist, rfl⟩
  | cons v vs ih => exact ih (b.writeScr w wid pos [v]) (pos + 1)

@[simp] theorem Block.writeScr_bid (b : Block) (w : Writer) (wid pos : Nat) (bs : List Byte) :
    (b.writeScr w wid pos bs).bid = b.bid := by
  obtain ⟨m, h, he⟩ := b.writeScr_eq w wid pos bs
  rw [he]

@[simp] theorem Block.writeScr_flagsOf (b : Block) (w : Writer) (wid pos : Nat) (bs : List Byte) (i : Nat) :
    (b.writeScr w wid pos bs).flagsOf i = b.flagsOf i := by
  obtain ⟨m, h, he⟩ := b.writeScr_eq w wid pos bs
  rw [he]; rfl

/-- The bytes written stand in the bank, and every other byte as before. -/
theorem Block.bankByte_writeScr (b : Block) (w : Writer) (wid pos : Nat) (bs : List Byte) (i : Nat) :
    (b.writeScr w wid pos bs).bankByte i
      = if pos ≤ i ∧ i < pos + bs.length then bs.getD (i - pos) 0 else b.bankByte i := by
  induction bs generalizing b pos with
  | nil =>
    have hno : ¬ (pos ≤ i ∧ i < pos + ([] : List Byte).length) := by rw [List.length_nil]; omega
    rw [if_neg hno, Block.writeScr]
  | cons v vs ih =>
    have hv : (b.writeScr w wid pos [v]).bankByte i = if i = pos then v else b.bankByte i := Tab.get_set ..
    refine (ih (b.writeScr w wid pos [v]) (pos + 1)).trans ?_
    rw [hv, List.length_cons]
    by_cases h0 : i = pos
    · rw [if_neg (by omega), if_pos h0, if_pos (by omega), h0, Nat.sub_self, List.getD_cons_zero]
    · by_cases h1 : pos + 1 ≤ i ∧ i < pos + 1 + vs.length
      · rw [if_pos h1, if_pos (by omega), show i - pos = i - (pos + 1) + 1 by omega, List.getD_cons_succ]
      · rw [if_neg h1, if_neg h0, if_neg (by omega)]

/-- A write to the bank of block owner: the bytes stand there, no other bank changes, and no flag of a thread. -/
theorem State.block?_writeScr {s : State} {w : Nat} {b : Block} (hb : s.block? w = some b) (owner pos : Nat) (bs : List Byte)
    (wr : Writer) : ∃ y, (s.writeScr owner pos bs wr).block? w = some y ∧ (∀ i, y.flagsOf i = b.flagsOf i) ∧
      ∀ i, y.bankByte i = if w = owner ∧ pos ≤ i ∧ i < pos + bs.length then bs.getD (i - pos) 0 else b.bankByte i := by
  have hy := State.block?_modBlock (s := s.newId.2) hb owner (f := fun b => b.writeScr wr s.ids pos bs) fun x => x.writeScr_bid ..
  generalize hye : (if w = owner then b.writeScr wr s.ids pos bs else b) = y at hy
  have hfl (i : Nat) : y.flagsOf i = b.flagsOf i := by
    rw [← hye]
    split <;> simp
  have hbank (i : Nat) : y.bankByte i
      = if w = owner ∧ pos ≤ i ∧ i < pos + bs.length then bs.getD (i - pos) 0 else b.bankByte i := by
    by_cases ho : w = owner <;> simp [← hye, ho, Block.bankByte_writeScr]
  unfold State.writeScr
  dsimp only
  split
  · exact ⟨y, hy, hfl, hbank⟩
  · obtain ⟨ts, hp, hpf⟩ := State.block?_promote hy _ _ _ _ _
    exact ⟨_, hp, fun i => (hpf i).trans (hfl i), hbank⟩

@[simp] theorem State.writeScr_data (s : State) (owner pos : Nat) (bs : List Byte) (wr : Writer) :
    (s.writeScr owner pos bs wr).data = s.data := by
  unfold State.writeScr; dsimp only; split <;> rfl

/-- A store at a bank: counted (R375), written, watched (R358), its flag counted down. -/
theorem State.carryScr_store {s : State} {acc : Acc} {bs : List Byte} {ap : Bool} {o b : Block} (hk : acc.kind = .store bs ap)
    (ho : s.block? acc.owner = some o) (hb : s.block? acc.bid = some b) : ∃ s0 s1 : State, s0.blocks = s.blocks ∧ s0.data = s.data ∧
      s1.blocks = (s0.writeScr acc.owner acc.a bs (.thread acc.bid acc.tid)).blocks ∧ s1.data = s0.data ∧
      s.carryScr acc = (s1.modBlock acc.bid fun b => { b with regStore := true }).modThread acc.bid acc.tid
        (fun t => t.endFlag acc.flag) := by
  simp only [State.carryScr, ho, hb, hk]
  refine ⟨if acc.owner == acc.bid then s else s.count (dieOf b.core) (xKey (clusterOf b.core) 3) 1, _, ?_, ?_, ?_, ?_, rfl⟩
  · split <;> simp
  · split <;> simp
  · rw [State.watchScr_blocks, State.overwritten_blocks]
  · simp

/-- A store to a bank is performed at once as its thread goes on (R249). -/
theorem Started.banks {s1 : State} {u : Cur} {acc : Acc} {bs : List Byte} {ap : Bool} {x o : Block} (h : Started s1 u acc.flag)
    (hk : acc.kind = .store bs ap) (hbid : acc.bid = u.b.bid) (htid : acc.tid = u.tid) (ho : s1.block? acc.owner = some o)
    (hox : ∀ i, o.bankByte i = x.bankByte i) : Banks u acc.owner x acc.a bs s1 (s1.carryScr acc) := by
  obtain ⟨t, hb, hf⟩ := h
  obtain ⟨s2, s3, hb2, hd2, hb3, hd3, he⟩ := State.carryScr_store hk ho (hbid ▸ hb)
  rw [hbid, htid] at hb3 he
  have hin {w : Nat} {b : Block} (hw : s1.block? w = some b) := State.block?_writeScr ((State.block?_congr hb2 w).trans hw) acc.owner
    acc.a bs (.thread u.b.bid u.tid)
  obtain ⟨y, hy, -, hyb⟩ := hin ho
  obtain ⟨z, hz, hzf, -⟩ := hin hb
  have hout {w : Nat} {b : Block} (hw : (s2.writeScr acc.owner acc.a bs (.thread u.b.bid u.tid)).block? w = some b) :=
    State.block?_modThread (State.block?_modBlock ((State.block?_congr hb3 w).trans hw) u.b.bid
      (f := fun b => { b with regStore := true }) fun _ => rfl) u.b.bid u.tid (fun t => t.endFlag acc.flag)
  have hz2 := hout hz
  rw [if_pos rfl, if_pos rfl] at hz2
  obtain ⟨t2, ht2, hfl⟩ := State.thread?_of_flagsOf hz2 (Block.flagsOf_endFlag (t := u.t) (fun _ => rfl) ((hzf u.tid).trans hf))
  obtain ⟨hmem, htags, hpend⟩ := State.data_eq (hd3.trans hd2)
  rw [he]
  refine ⟨_, t2, hout hy, fun i => ?_, ht2, hfl, hmem, htags, hpend⟩
  rw [← hox i]
  refine Eq.trans ?_ ((hyb i).trans (by simp))
  split <;> rfl

/-! ### The bytes a store takes (R12, R250) -/

theorem getD_append_of_lt {l m : List Byte} {i : Nat} (h : i < l.length) : (l ++ m).getD i 0 = l.getD i 0 := by
  rw [List.getD_eq_getElem?_getD, List.getElem?_append_left h, ← List.getD_eq_getElem?_getD]

theorem getD_append_of_le {l m : List Byte} {i : Nat} (h : l.length ≤ i) : (l ++ m).getD i 0 = m.getD (i - l.length) 0 := by
  rw [List.getD_eq_getElem?_getD, List.getElem?_append_right h, ← List.getD_eq_getElem?_getD]

@[simp] theorem bytesOf_length (n v : Nat) : (bytesOf n v).length = n := by
  induction n generalizing v with
  | zero => rfl
  | succ n ih => simp [bytesOf, ih]

theorem bytesOf_getD {n j : Nat} (hj : j < n) (v : Nat) : (bytesOf n v).getD j 0 = BitVec.ofNat 8 (v / 256 ^ j) := by
  induction n generalizing v j with
  | zero => omega
  | succ n ih =>
    cases j with
    | zero => simp [bytesOf]
    | succ j => rw [bytesOf, List.getD_cons_succ, ih (by omega), Nat.div_div_eq_div_mul, Nat.pow_succ']

/-- The registers an element of a type takes (R107). -/
def elemRegs (t : Ty) : Nat := if t.bits == 64 then 2 else 1

/-- The register or pair an element of a type is taken from, as a number. -/
def Thread.element (th : Thread) (t : Ty) (g : G) : Nat := if t.bits == 64 then (th.pair g).toNat else th.nat g

theorem storeBytes_succ (th : Thread) (t : Ty) (n : Nat) (d : G) :
    storeBytes th t (n + 1) d = bytesOf t.bytes (th.element t d) ++ storeBytes th t n (next d (elemRegs t)) := rfl

@[simp] theorem storeBytes_length (th : Thread) (t : Ty) (n : Nat) (d : G) : (storeBytes th t n d).length = n * t.bytes := by
  induction n generalizing d with
  | zero => simp [storeBytes]
  | succ n ih => rw [storeBytes_succ, List.length_append, bytesOf_length, ih, Nat.succ_mul, Nat.add_comm]

/-- Registers count on within a range that ends below gz, and from gz stay at gz. -/
theorem next_next {d : G} {a : Nat} (h : d = 0xFF#8 ∨ d.toNat + a < 255) (b : Nat) : next (next d a) b = next d (a + b) := by
  by_cases hd : d = 0xFF#8
  · simp [next, hd]
  · have ha : d + BitVec.ofNat 8 a ≠ 0xFF#8 := by bv_omega
    simp [next, hd, ha, BitVec.ofNat_add, BitVec.add_assoc]

theorem next_range {d : G} {w n : Nat} (h : d = 0xFF#8 ∨ d.toNat + (w + n) ≤ 255) (hn : 0 < n) :
    next d w = 0xFF#8 ∨ (next d w).toNat + n ≤ 255 := by
  by_cases hd : d = 0xFF#8
  · simp [next, hd]
  · right
    rw [next, if_neg (by simpa using hd)]
    bv_omega

/-- Byte j of element i of a store. -/
theorem storeBytes_getD {th : Thread} {t : Ty} {n : Nat} {d : G} (hd : d = 0xFF#8 ∨ d.toNat + n * elemRegs t ≤ 255) {i j : Nat}
    (hi : i < n) (hj : j < t.bytes) : (storeBytes th t n d).getD (i * t.bytes + j) 0
      = BitVec.ofNat 8 (th.element t (next d (i * elemRegs t)) / 256 ^ j) := by
  induction n generalizing d i with
  | zero => omega
  | succ n ih =>
    rw [storeBytes_succ]
    cases i with
    | zero =>
      rw [Nat.zero_mul, Nat.zero_add, getD_append_of_lt (by rwa [bytesOf_length]), bytesOf_getD hj, Nat.zero_mul]
      congr 4
      simp [next]
    | succ i =>
      have hr : 0 < elemRegs t := by unfold elemRegs; split <;> decide
      have hd' : d = 0xFF#8 ∨ d.toNat + (elemRegs t + n * elemRegs t) ≤ 255 := by rwa [Nat.succ_mul, Nat.add_comm (n * _)] at hd
      have hpos : 0 < n * elemRegs t := Nat.mul_pos (by omega) hr
      rw [getD_append_of_le (by rw [bytesOf_length, Nat.succ_mul]; omega), bytesOf_length,
        show (i + 1) * t.bytes + j - t.bytes = i * t.bytes + j by rw [Nat.succ_mul]; omega,
        ih (next_range hd' hpos) (by omega), next_next (hd'.imp_right fun h => by omega),
        show (i + 1) * elemRegs t = elemRegs t + i * elemRegs t by rw [Nat.succ_mul, Nat.add_comm]]

/-! ### The issue of an access (R249, R250) -/

/-- A value in a register that the instruction does not admit: its fault, whatever the access (R78). -/
theorem execWith_valueFault {s : State} {u : Cur} {c : Ctl} {k : Cur → Checks} {act : Cur → State} {f : Nat}
    (h : Ready s u c { k u with fault := none }) (hf : (k u).fault = some f) :
    execWith c s k act = .next (s.syncFault u.b u.tid u.t f) := by
  obtain ⟨hc, hp⟩ := h
  simp only [Checks.pass, Checks.ranges, Checks.guardBad, Checks.tainted, Bool.and_eq_true, Bool.not_eq_true',
    Option.isNone_none, and_true] at hp
  obtain ⟨⟨⟨hr, hg⟩, hgd⟩, ht⟩ := hp
  simp [execWith, hc, State.gate, Checks.ranges, Checks.guardBad, Checks.tainted, hr, hg, hgd, ht, hf]

section Issue
variable {s : State} {u : Cur} {c : Ctl} {k : Cur → Checks} {place : Cur → Located} {acc : Cur → Acc}
  (h : Ready s u c { k u with fault := none })
include h

theorem execAccess_valueFault {f : Nat} (hk : (k u).fault = some f) :
    execAccess c s k place acc = .next (s.syncFault u.b u.tid u.t f) :=
  execWith_valueFault h (by simp only [hk])

theorem execAccess_accessFault {f : Nat} (hk : (k u).fault = none) (hf : s.accessFault u.b (acc u) (place u) = some f) :
    execAccess c s k place acc = .next (s.syncFault u.b u.tid u.t f) :=
  execWith_valueFault h (by simp only [hk, hf])

theorem execAccess_goes (hk : (k u).fault = none) (hf : s.accessFault u.b (acc u) (place u) = none) :
    execAccess c s k place acc = .next (s.access u c (acc u) (place u)) :=
  execWith_ready _ _ (by simpa only [hk, hf] using h)
end Issue

/-- What the checks let go is the access itself, at the physical address of its line. -/
def Prep.Locates (acc : Acc) : Prep → Prop
  | .go _ x _ _ => ∃ pa, x = { acc with pa := some pa }
  | _ => True

theorem State.typedHere_locates (s : State) (b : Block) (acc : Acc) (pa : Nat) : (s.typedHere b acc pa).Locates acc := by
  unfold State.typedHere
  dsimp only
  split
  · trivial
  · split
    case h_5 | h_7 =>
      split
      · trivial
      · exact ⟨pa, rfl⟩
    all_goals exact ⟨pa, rfl⟩

theorem State.typed_locates (s : State) (b : Block) (acc : Acc) (pa : Nat) : (s.typed b acc pa).Locates acc := by
  unfold State.typed
  split
  · trivial
  · split
    · split
      · exact ⟨pa, rfl⟩
      · split
        · exact ⟨pa, rfl⟩
        · trivial
    · exact s.typedHere_locates b acc pa

theorem State.prepare_locates (s : State) (b : Block) (acc : Acc) : (s.prepare b acc).Locates acc := by
  unfold State.prepare
  dsimp only
  split
  · split <;> trivial
  · exact State.typed_locates _ _ _ _

/-- The state in which the thread of an access has gone on: line is the line it reaches, if any (R46, R53 to R55). -/
def State.starts (s : State) (u : Cur) (c : Ctl) (acc : Acc) (line : Option (Nat × Nat)) : State :=
  (s.setThread u.b.bid u.tid (((u.t.noteAccess acc.flag acc.kind line).notePromote acc.kind line).countSig acc)).retire u.b u.tid
    (u.t.notePromote acc.kind line) c 1

theorem State.starts_only (s : State) (u : Cur) (c : Ctl) {acc : Acc} (hsig : acc.sig = none) (line : Option (Nat × Nat)) :
    ThreadOnly (GoesOn c (u.t.addFlag acc.flag)) 0 s (s.starts u c acc line) u := by
  have h := start_only s u c acc line
  rwa [Thread.countSig, hsig] at h

/-- An access to global memory that gives no signature and passes its checks is carried out as its thread has gone on (R249). -/
theorem State.access_global_go {s s1 : State} {u : Cur} {acc x : Acc} {a : Nat} {data : List Byte} {ty : TBit} (c : Ctl)
    (hsig : Acc.signs { acc with a := a } u.b u.t = { acc with a := a }) (hp : s.prepare u.b { acc with a := a } = .go s1 x data ty) :
    s.access u c acc (.global a)
      = ((s1.takes { acc with a := a }).starts u c { acc with a := a } (some (0, a / 128))).carry x data ty := by
  simp only [State.access, hsig, State.sendOff, hp]
  rfl

/-! ### A store's access -/

/-- A checked store is an entry for its bytes, at the physical address found (R249, R287). -/
theorem State.carry_store {s : State} {acc : Acc} {bs : List Byte} {ap : Bool} {b : Block} {pa : Nat} {e : Entry}
    (hk : acc.kind = .store bs ap) (hb : s.block? acc.bid = some b) (hpa : acc.pa = some pa)
    (he : acc.entry (acc.eid.getD acc.wid) = some e) (data : List Byte) (ty : TBit) :
    s.carry acc data ty = s.store acc e := by
  have hpe : { e with pa := pa } = e := by
    simp only [Acc.entry, hk, hpa] at he
    obtain rfl := Option.some.inj he
    rfl
  simp only [State.carry, hb, hpa, hk, he, hpe]

section StoreAccess
variable {s : State} {u : Cur} {c : Ctl} {bs : List Byte} {ap : Bool} {o : Int} {n : Nat} {lt : TBit} {img : Rec}

/-- A store out of bounds of a record that clamps does nothing (R233). -/
theorem access_store_clamped (hc : s.cur = some u) : GoesOnWith c s.issued u (u.t.addFlag u.t.flagOf)
    (.next (s.access u c (s.acc u (.store bs ap) o n lt img) .clamped)) (NoEffect u) := by
  obtain ⟨hb, ht⟩ := State.cur_block hc
  have hst := s.issued.starts_only u c (acc := s.acc u (.store bs ap) o n lt img) rfl none
  exact ⟨_, _, hst, (ThreadOnly.started hst hb ht).noEffect, rfl⟩

/-- A store to a bank (R229, R249). -/
theorem access_store_scr (hc : s.cur = some u) {w pos : Nat} {x : Block} (hw : s.block? w = some x) :
    let acc := { s.acc u (.store bs ap) o n lt img with space := 1, owner := w, a := pos }
    GoesOnWith c (s.takes acc) u (u.t.addFlag u.t.flagOf) (.next (s.access u c (s.acc u (.store bs ap) o n lt img) (.scr w pos)))
      (Banks u w x pos bs) := by
  intro acc
  obtain ⟨hb, ht⟩ := State.cur_block hc
  have hst := (s.takes acc).starts_only u c (acc := acc) rfl (some (1 + w, pos / 128))
  obtain ⟨y, hy, hyx⟩ := ThreadOnly.bank hst hw
  exact ⟨_, _, hst, (ThreadOnly.started hst hb ht).banks (acc := acc) rfl rfl rfl hy hyx, rfl⟩

/-- A store to global memory whose entry finds room in the share of a block by itself (R249, R287). -/
theorem access_store_global (hc : s.cur = some u) {a pa : Nat} {s1 : State} {x : Acc} {ty : TBit} {e : Entry} :
    let acc := { s.acc u (.store bs ap) o n lt img with a := a }
    s.prepare u.b acc = .go s1 x [] ty → x.pa = some pa → acc.entry acc.wid = some e → u.b.overflows e = false → u.b.alone →
    GoesOnWith c (s1.takes acc) u (u.t.addFlag u.t.flagOf)
      (.next (s.access u c (s.acc u (.store bs ap) o n lt img) (.global a))) (Buffers s u .store a pa bs) := by
  intro acc hp hpa he hroom halone
  obtain ⟨hb, ht⟩ := State.cur_block hc
  have hsigns : acc.signs u.b u.t = acc := by simp [Acc.signs, halone.1]; rfl
  have hblocks := s.prepare_blocks u.b acc
  have hloc := s.prepare_locates u.b acc
  rw [hp] at hblocks hloc
  obtain ⟨pa', rfl⟩ := hloc
  obtain rfl : pa' = pa := by simpa using hpa
  have hst := (s1.takes acc).starts_only u c (acc := acc) rfl (some (0, a / 128))
  have hstarted := ThreadOnly.started hst ((State.block?_congr hblocks _).trans hb) ht
  obtain ⟨e', hx, hline, hkind, hva, hepa, hbytes, hsig, heid, htid⟩ : ∃ e', ({ acc with pa := some pa' } : Acc).entry s.ids = some e' ∧
      e'.line? = e.line? ∧ e'.kind = .store ∧ e'.va = a ∧ e'.pa = pa' ∧ e'.bytes = bs ∧ e'.sig = none ∧ e'.eid = s.ids ∧
      e'.tid = u.tid := by
    obtain rfl := Option.some.inj he
    exact ⟨_, rfl, rfl, rfl, rfl, rfl, rfl, rfl, rfl, rfl⟩
  have hbuf := hstarted.buffers (acc := { acc with pa := some pa' }) halone ((u.b.overflows_congr hline).trans hroom) rfl rfl hsig
    heid htid
  rw [hkind, hva, hepa, hbytes] at hbuf
  refine ⟨_, _, hst, hbuf, ?_⟩
  obtain ⟨t, hb1, -⟩ := hstarted
  rw [State.access_global_go c hsigns hp]
  exact congrArg _ (State.carry_store (acc := { acc with pa := some pa' }) rfl hb1 rfl hx [] ty)
end StoreAccess

/-! ### The fault an access takes at issue (R233, R237, R388, R389) -/

section AccessFault
variable {s : State} {b : Block} {acc : Acc} (hd : b.detSpace acc.img = false)
include hd

theorem accessFault_fault (f : Nat) : s.accessFault b acc (.fault f) = some f := by
  simp [State.accessFault, hd]

theorem accessFault_clamped : s.accessFault b acc .clamped = none := by
  simp [State.accessFault, hd]

theorem accessFault_scr {w pos : Nat} {x : Block} (hx : s.block? w = some x) :
    s.accessFault b acc (.scr w pos) = scrFault acc.kind (x.posType pos) := by
  simp [State.accessFault, hd, hx]

theorem accessFault_global_fault {a f : Nat} (hp : s.prepare b { acc with a := a } = .fault f) :
    s.accessFault b acc (.global a) = some f := by
  simp [State.accessFault, hd, hp]

theorem accessFault_global_go {a : Nat} {s1 : State} {x : Acc} {data : List Byte} {ty : TBit} {e : Entry}
    (hp : s.prepare b { acc with a := a } = .go s1 x data ty) (he : Acc.entry { acc with a := a } acc.wid = some e)
    (hroom : b.overflows e = false) : s.accessFault b acc (.global a) = none := by
  have hfull : b.detFull { acc with a := a } = false := by simp [Block.detFull, he, hroom]
  simp [State.accessFault, hd, hp, hfull]
end AccessFault

theorem scrFault_store_of_typed {bs : List Byte} {ap : Bool} {ty : TBit} (h : ty = .A ↔ ap = true) :
    scrFault (.store bs ap) ty = none := by
  cases ap with
  | true => simp [scrFault, h.2 rfl]
  | false =>
    have hP : ty ≠ .A := fun e => absurd (h.1 e) (by decide)
    simp [scrFault, hP]

/-! ### ST -/

/-- What ST checks at issue but for the types of its data and its record (R90, R104, R250). -/
def stChecks (ap : Bool) (d b : G) (t : Ty) (n : VCnt) : Checks :=
  { uses := [(d, memRegs t n), (b, 1)], taint := if ap then [(b, 1)] else [(d, memRegs t n), (b, 1)], ptaint := [], ap := ap,
    fault := none }

/-- Whether ST.a finds data that is not A-typed, or a record of space 0 or 3 without A lines (R90). -/
def stRefused (u : Cur) (ap : Bool) (d : G) (k : BF) (t : Ty) (n : VCnt) : Bool :=
  let r := u.t.buf k
  ap && (!(List.range (memRegs t n)).all (fun i => (u.t.reg (next d i)).ty == .A)
    || ((recSpace r == 0 || recSpace r == 3) && !recA r))

theorem stRefused_eq_false {u : Cur} {ap : Bool} {d : G} {k : BF} {t : Ty} {n : VCnt} : stRefused u ap d k t n = false ↔
    (ap = true → (∀ i, i < memRegs t n → (u.t.reg (next d i)).ty = .A) ∧
      (recSpace (u.t.buf k) = 0 ∨ recSpace (u.t.buf k) = 3 → recA (u.t.buf k) = true)) := by
  cases ap with
  | false => simp [stRefused]
  | true => simp [stRefused, or_imp]

section St
variable {s : State} {u : Cur} {c : Ctl} {ap : Bool} {d : G} {k : BF} {b : G} {t : Ty} {n : VCnt} (cache : Cache) {disp : BitVec 16}
  (h : Ready s u c (stChecks ap d b t n))

/-- The access ST makes. -/
def stAcc (s : State) (u : Cur) (ap : Bool) (d : G) (k : BF) (b : G) (t : Ty) (n : VCnt) (disp : BitVec 16) : Acc :=
  let sz := n.num * t.bytes
  let low := storeBytes u.t t n.num d
  s.accOf u (.store (if (s.placeOf u k b disp sz sz).swaps sz then swapHalves low else low) ap) k b disp sz .P

/-- The place ST's access goes to. -/
def stPlace (s : State) (u : Cur) (k : BF) (b : G) (t : Ty) (n : VCnt) (disp : BitVec 16) : Located :=
  let sz := n.num * t.bytes
  (s.placeOf u k b disp sz sz).chunks sz

include h

theorem exec_st_refused (hb : stRefused u ap d k t n = true) :
    exec (.st c ap d k b t n cache disp) s = .next (s.syncFault u.b u.tid u.t 0x01) :=
  execAccess_valueFault h (if_pos hb)

section Located
variable (hb : stRefused u ap d k t n = false) {loc : Located} (hl : stPlace s u k b t n disp = loc)
include hb hl

theorem exec_st_fault {f : Nat} (hf : s.accessFault u.b (stAcc s u ap d k b t n disp) loc = some f) :
    exec (.st c ap d k b t n cache disp) s = .next (s.syncFault u.b u.tid u.t f) := by
  subst hl
  exact execAccess_accessFault h (if_neg (Bool.eq_false_iff.1 hb)) hf

theorem exec_st_goes (hf : s.accessFault u.b (stAcc s u ap d k b t n disp) loc = none) :
    exec (.st c ap d k b t n cache disp) s = .next (s.access u c (stAcc s u ap d k b t n disp) loc) := by
  subst hl
  exact execAccess_goes h (if_neg (Bool.eq_false_iff.1 hb)) hf
end Located
end St

/-- Settles O25: an ST whose checks pass faults by its place, or goes to the share, to a bank or, clamped, nowhere; the bytes are those of
`storeBytes_getD`. -/
theorem storeIssue : Obligations.StoreIssue := by
  intro s u c ap d k b t n cache disp sz place r o low bs acc data ready lines good
  have hgood : good ↔ stRefused u ap d k t n = false := stRefused_eq_false.symm
  refine ⟨fun hr hg hdet => ?_, fun hr hg => ?_, storeBytes_length .., fun hd ht i j hi hj => ?_, fun hd ht i j hi hj => ?_⟩
  · have hd : u.b.detSpace r = false := by simpa [Block.detSpace] using hdet
    have hc := hr.1
    rw [hgood] at hg
    refine ⟨fun f hf => ?_, fun a s1 x e ty pa ha hp hpa he hroom halone => ?_, fun a ha hp => ?_, fun hcl => ?_,
      fun w pos x hw hx hty => ?_, fun w pos x hw hx hty hap => ?_⟩
    · exact exec_st_fault cache hr hg (congrArg (Located.chunks sz) hf) (accessFault_fault hd f)
    · rw [show o = _ from exec_st_goes cache hr hg ha (accessFault_global_go hd hp he hroom)]
      exact access_store_global hc hp hpa he hroom halone
    · exact exec_st_fault cache hr hg ha (accessFault_global_fault hd hp)
    · rw [show o = _ from exec_st_goes cache hr hg (congrArg (Located.chunks sz) hcl) (accessFault_clamped hd)]
      exact access_store_clamped hc
    · rw [show o = _ from exec_st_goes cache hr hg hw ((accessFault_scr hd hx).trans (scrFault_store_of_typed hty))]
      exact access_store_scr hc hx
    · refine exec_st_fault cache hr hg hw ((accessFault_scr hd hx).trans ?_)
      rw [hty, hap]
      rfl
  · exact exec_st_refused cache hr (by simpa [hgood] using hg)
  · have hone : elemRegs t = 1 := by simp [elemRegs, ht]
    have hv := storeBytes_getD (th := u.t) hd hi hj
    rwa [hone, Nat.mul_one, Thread.element, if_neg (by simpa using ht)] at hv
  · have htwo : elemRegs t = 2 := by simp [elemRegs, ht]
    have hbytes : t.bytes = 8 := by simp [Ty.bytes, ht]
    have hv := storeBytes_getD (th := u.t) hd hi (hbytes ▸ hj)
    rwa [htwo, hbytes, Nat.mul_comm i 2, Thread.element, if_pos (by simpa using ht)] at hv

end Sys2Proof.Machine
end

section
/-! SUPPORT. R70 to R78, R346: what the front end makes of the thread at the head of the packet, and what a step does with it. -/

namespace Sys2Proof.Machine

/-! ### The issuing thread and its code after an update of a thread -/

theorem State.issue_of_cur {s : State} {u : Cur} (h : s.cur = some u) : ∃ x l, s.issue = x :: l := by
  cases hi : s.issue with
  | nil => simp [State.cur, hi] at h
  | cons x l => exact ⟨x, l, rfl⟩

theorem State.block?_setThread {s : State} {bid : Nat} {b : Block} (h : s.block? bid = some b) (tid : Nat) (t : Thread) :
    (s.setThread bid tid t).block? bid = some (b.setThread tid t) := by
  have hset := State.block?_modBlock h bid (f := fun b => b.setThread tid t) fun _ => rfl
  rwa [if_pos rfl] at hset

/-- The thread just set is the one found, when its place exists. -/
theorem State.thread?_setThread {s : State} {bid tid : Nat} {b : Block} (hb : s.block? bid = some b) (hl : tid < b.threads.length)
    (t : Thread) : (s.setThread bid tid t).thread? bid tid = some t := by
  simp [State.thread?, State.block?_setThread hb, Block.thread?, Block.setThread, hl]

theorem State.cur_tid_lt {s : State} {u : Cur} (h : s.cur = some u) : u.tid < u.b.threads.length :=
  (List.getElem?_eq_some_iff.1 (State.cur_block h).2).1

/-- An update of a thread leaves the instruction cache and its block's launch as they are, and so the code (R75). -/
theorem State.codeWord_setThread (s : State) (b : Block) (bid tid : Nat) (t : Thread) (va : Addr) :
    (s.setThread bid tid t).codeWord (b.setThread tid t) va = s.codeWord b va := rfl

theorem State.codeA_setThread (s : State) (b : Block) (bid tid : Nat) (t : Thread) (va : Addr) :
    (s.setThread bid tid t).codeA (b.setThread tid t) va = s.codeA b va := rfl

/-! ### A slot (R75, R78) -/

section Slot
variable {s : State} {u : Cur} {w : DWord} (hw : s.codeWord u.b u.t.pc = some w) (ha : s.codeA u.b u.t.pc = false)
  (he : u.t.early = [])
include hw ha he

/-- A word that decodes issues its instruction, when no early value is in question. -/
theorem State.frontSlot_decoded {i : Instr} (hi : u.t.decodes w = .ok i) :
    s.frontSlot u = .issue i (s.setThread u.b.bid u.tid u.t) := by
  simp [State.frontSlot, hw, ha, he, seeEarly, hi]

theorem State.frontSlot_rejected {r : Reject} (hr : u.t.decodes w = .error r) :
    s.frontSlot u = .ends ((s.setThread u.b.bid u.tid u.t).syncFault u.b u.tid u.t 0x01) := by
  simp [State.frontSlot, hw, ha, he, seeEarly, hr]
end Slot

/-! ### A clause entered at its header (R71, R73, R75) -/

/-- The thread inside the clause whose header h it has taken. -/
def Thread.entersClause (t : Thread) (h : DWord) : Thread := { t with hdr := h, rehdr := false, pc := t.pc + 8, slot := 1 }

/-- A clause has at least its header and one slot. -/
theorem mem_clauseWords {hdr : Addr} {cnt i : Nat} (hi : i < cnt + 2) : hdr + BitVec.ofNat 57 (8 * i) ∈ clauseWords hdr cnt :=
  List.mem_map.2 ⟨i, List.mem_range.2 hi, rfl⟩

/-- A good header off every A line is taken, and the clause's first slot is the thread's. -/
theorem State.frontHeader_enters {s : State} {u : Cur} {h : DWord} (hslot : u.t.slot = 0) (hh : s.codeWord u.b u.t.pc = some h)
    (hok : (Header.unpack h).ok = true) (ha : ∀ a ∈ clauseWords u.t.pc (Header.unpack h).cnt.toNat, s.codeA u.b a = false) :
    s.frontHeader u = (s.setThread u.b.bid u.tid (u.t.entersClause h)).frontSlot
      { u with t := u.t.entersClause h, b := u.b.setThread u.tid (u.t.entersClause h) } := by
  have hat : s.codeA u.b u.t.pc = false := by simpa using ha _ (mem_clauseWords (i := 0) (by omega))
  have hnone : (clauseWords u.t.pc (Header.unpack h).cnt.toNat).any (s.codeA u.b) = false := by simpa using ha
  simp [State.frontHeader, hslot, hh, hat, hok, hnone, Thread.entersClause]

/-! ### The front end and the step -/

theorem State.front_fault {s : State} {u : Cur} {f : AsyncFault} (hc : s.cur = some u) (hf : u.t.fault = some f) :
    s.front = .ends (s.asyncFault u.b u.tid u.t f).endPacket := by
  simp [State.front, hc, hf]

theorem State.front_slot {s : State} {u : Cur} (hc : s.cur = some u) (hf : u.t.fault = none) (hslot : u.t.slot ≠ 0)
    (hre : u.t.rehdr = false) : s.front = s.frontSlot u := by
  simp [State.front, hc, hf, hslot, hre]

theorem State.front_header {s : State} {u : Cur} (hc : s.cur = some u) (hf : u.t.fault = none) (hslot : u.t.slot = 0) :
    s.front = s.frontHeader u := by
  simp [State.front, hc, hf, hslot]

/-- The front end that enters a clause issues the instruction of its first slot, in a state in which the thread has taken the header. -/
theorem State.front_enters {s : State} {u : Cur} {h w : DWord} {i : Instr} (hc : s.cur = some u) (hf : u.t.fault = none)
    (hslot : u.t.slot = 0) (he : u.t.early = []) (hrpt : u.t.rpt = none) (hh : s.codeWord u.b u.t.pc = some h)
    (hok : (Header.unpack h).ok = true) (ha : ∀ a ∈ clauseWords u.t.pc (Header.unpack h).cnt.toNat, s.codeA u.b a = false)
    (hw : s.codeWord u.b (u.t.pc + 8) = some w) (hi : decode w = .ok i) :
    s.front = .issue i ((s.setThread u.b.bid u.tid (u.t.entersClause h)).setThread u.b.bid u.tid (u.t.entersClause h)) := by
  have hslotA : s.codeA u.b (u.t.pc + 8) = false := ha _ (mem_clauseWords (i := 1) (by omega))
  have hdec : (u.t.entersClause h).decodes w = .ok i := by
    have hr : (u.t.entersClause h).rpt = none := hrpt
    simp only [Thread.decodes, hr, hi]
  rw [State.front_header hc hf hslot, State.frontHeader_enters hslot hh hok ha]
  exact State.frontSlot_decoded (u := { u with t := u.t.entersClause h, b := u.b.setThread u.tid (u.t.entersClause h) })
    ((s.codeWord_setThread ..).trans hw) ((s.codeA_setThread ..).trans hslotA) he hdec

section Step
variable {s : State}

theorem step_of_ends {u : Cur} {s' : State} (hc : s.tick.cur = some u) (hf : s.tick.front = .ends s') : step s = .next s' := by
  obtain ⟨x, l, hi⟩ := State.issue_of_cur hc
  simp only [step, hi, hf]

theorem step_of_issue {u : Cur} {i : Instr} {s' : State} (hc : s.tick.cur = some u) (hf : s.tick.front = .issue i s') :
    step s = exec i s' := by
  obtain ⟨x, l, hi⟩ := State.issue_of_cur hc
  simp only [step, hi, hf]

theorem step_of_agenda {e : Instr} {rest : List Instr} (hi : s.tick.issue = []) (ha : s.tick.agenda = e :: rest)
    (he : e.isEvent = true) : step s = exec e { s.tick with agenda := rest } := by
  simp only [step, hi, ha, he, if_true]

theorem step_of_idle (hi : s.tick.issue = []) (ha : s.tick.agenda = []) : step s = exec s.tick.choose.1 s.tick.choose.2 := by
  simp only [step, hi, ha]

end Step

/-- Settles O57, by what the front end answers in each case. -/
theorem stepRunsDecoded : Obligations.StepRunsDecoded := by
  intro s s1
  refine ⟨fun u w i hc hf hslot hre he hw ha hi => ?_, fun u h w i hc hf hslot he hrpt hh hok ha hw hi => ?_,
    fun u w r hc hf hslot hre he hw ha hr => ?_, fun u f hc hf => step_of_ends hc (State.front_fault hc hf),
    fun e rest hi ha he => step_of_agenda hi ha he, fun hi ha => step_of_idle hi ha⟩
  · have hfront := (State.front_slot hc hf hslot hre).trans (State.frontSlot_decoded hw ha he hi)
    exact ⟨_, step_of_issue hc hfront, rfl, State.thread?_setThread (State.cur_block hc).1 (State.cur_tid_lt hc) _⟩
  · have hb := State.block?_setThread (State.cur_block hc).1 u.tid (u.t.entersClause h)
    have hl : u.tid < (u.b.setThread u.tid (u.t.entersClause h)).threads.length := by
      simpa [Block.setThread] using State.cur_tid_lt hc
    exact ⟨_, step_of_issue hc (State.front_enters hc hf hslot he hrpt hh hok ha hw hi), State.thread?_setThread hb hl _, by simp [s1], by simp [s1]⟩
  · exact step_of_ends hc ((State.front_slot hc hf hslot hre).trans (State.frontSlot_rejected hw ha he hr))

end Sys2Proof.Machine
end

section
/-! SUPPORT. R70 and R91: RPT, and how a repetition goes on. -/

namespace Sys2Proof.Machine

theorem exec_rpt (n : BitVec 6) (sd sa sb sc : BitVec 2) (s : State) : exec (.rpt n sd sa sb sc) s = execRpt n sd sa sb sc s := rfl

/-- A step field stands for 0, 1, 2 or 4 (R91). -/
theorem stepOf_eq (x : BitVec 2) : stepOf x = if x = 3#2 then 4 else x.toNat := by
  revert x
  decide

section Rpt
variable {s : State} {u : Cur} {n : BitVec 6} {sd sa sb sc : BitVec 2} {w : DWord} (hc : s.cur = some u)
include hc

theorem exec_rpt_last (hl : u.t.lastSlot = true) : exec (.rpt n sd sa sb sc) s = .next (s.syncFault u.b u.tid u.t 0x01) := by
  simp only [exec_rpt, execRpt, hc, hl, Bool.true_or, if_true]

variable (hw : s.codeWord u.b (u.t.pc + 8) = some w)
include hw

theorem exec_rpt_unfit (hr : rptFits u.t.regs.length (n.toNat + 1) (stepOf sd) (stepOf sa) (stepOf sb) (stepOf sc) w = false) :
    exec (.rpt n sd sa sb sc) s = .next (s.syncFault u.b u.tid u.t 0x01) := by
  simp only [exec_rpt, execRpt, hc, hw, hr, Bool.not_false, Bool.or_true, if_true]

theorem exec_rpt_fit (hl : u.t.lastSlot = false)
    (hr : rptFits u.t.regs.length (n.toNat + 1) (stepOf sd) (stepOf sa) (stepOf sb) (stepOf sc) w = true) :
    exec (.rpt n sd sa sb sc) s = .next (s.setThread u.b.bid u.tid { u.t with
      rpt := some { n := n.toNat + 1, k := 0, sd := stepOf sd, sa := stepOf sa, sb := stepOf sb, sc := stepOf sc }
      pc := u.t.pc + 8, slot := u.t.slot + 1, seen := [] }) := by
  simp only [exec_rpt, execRpt, hc, hw, hl, hr, Bool.not_true, Bool.or_false]
  rfl
end Rpt

/-! ### A repetition goes on (R70) -/

theorem Thread.advance_repeats {t : Thread} {r : Rpt} (hr : t.rpt = some r) (hk : r.k + 1 < r.n) :
    t.advance = { t with rpt := some { r with k := r.k + 1 } } := by
  simp only [Thread.advance, hr, hk, if_true]

theorem Thread.advance_repeated {t : Thread} {r : Rpt} (hr : t.rpt = some r) (hk : r.n ≤ r.k + 1) :
    t.advance = { t with rpt := none, pc := t.pc + 8, slot := if t.lastSlot then 0 else t.slot + 1 } := by
  simp only [Thread.advance, hr, Nat.not_lt.2 hk, if_false]

/-- Settles O8, by the cases of RPT's checks and of the repetition's count. -/
theorem repeatResults : Obligations.RepeatResults := by
  intro s u n sd sa sb sc w hc amount
  have hstep : amount = stepOf := funext fun x => (stepOf_eq x).symm
  rw [hstep]
  refine ⟨fun hl hw => exec_rpt_fit hc hw hl, ?_, fun r t f hr hk => ⟨Thread.advance_repeats hr hk, rfl, rfl, rfl, rfl⟩,
    fun r t => Thread.advance_repeated⟩
  rintro (hl | ⟨hw, hr⟩)
  · exact exec_rpt_last hc hl
  · exact exec_rpt_unfit hc hw hr

end Sys2Proof.Machine
end

section
/-! SUPPORT. R68, R112, R114 and R116: CMP, the shifts and rotations, BFX and BFI. What integer operands and immediates are as numbers, what
the model's shifts and fields are as bit vectors, then the instructions. -/

namespace Sys2Proof.Machine

/-! ### Operands as numbers (R83, R106 to R108) -/

theorem Thread.num_lt (t : Thread) (ty : IntTy) (g : G) : t.num ty.wide g < 2 ^ ty.w := by
  unfold Thread.num IntTy.w
  split
  · exact (t.pair g).isLt
  · exact (t.reg g).val.isLt

/-- The bits of an operand read as a number of its type (R108). -/
theorem IntTy.val_eq_readAs {t : IntTy} {v : Nat} (h : v < 2 ^ t.w) : t.val v = readAs t v := by
  have hbits : t.ty.bits = t.w := by cases t <;> rfl
  have hsgn : t.ty.isSigned = t.sgn := by cases t <;> rfl
  simp only [IntTy.val, intOf, readAs, hbits, hsgn, Nat.mod_eq_of_lt h]

theorem IntTy.val_num (u : Cur) (t : IntTy) (g : G) : t.val (u.t.num t.wide g) = srcOf u t g :=
  IntTy.val_eq_readAs (u.t.num_lt t g)

/-- A signed type reads a bit vector of its width as two's complement. -/
theorem IntTy.val_toInt {t : IntTy} {w : Nat} (hw : t.w = w) (hs : t.sgn = true) (x : BitVec w) : t.val x.toNat = x.toInt := by
  subst hw
  rw [IntTy.val_eq_readAs x.isLt, readAs, hs, BitVec.toInt]
  have hp : 2 ^ t.w = 2 * 2 ^ (t.w - 1) := by cases t <;> rfl
  by_cases h : 2 ^ (t.w - 1) ≤ x.toNat
  · rw [if_pos (by simpa using h), if_neg (by omega)]
    simp
  · rw [if_neg (by simpa using h), if_pos (by omega)]

theorem IntTy.val_unsigned {t : IntTy} (hs : t.sgn = false) {v : Nat} (h : v < 2 ^ t.w) : t.val v = v := by
  rw [IntTy.val_eq_readAs h, readAs, hs]
  simp

/-- An immediate read as a number of its type (R83, R106). -/
theorem IntTy.val_immNum (t : IntTy) (imm : Word) : t.val (immNum t imm) = immOf t imm := by
  have hlt := imm.isLt
  cases t with
  | n32 => exact IntTy.val_unsigned rfl hlt
  | n64 => exact IntTy.val_unsigned rfl (Nat.lt_trans hlt (by decide))
  | s32 => exact IntTy.val_toInt (t := .s32) rfl rfl imm
  | s64 =>
    have h : (imm.signExtend 64).toInt = imm.toInt := BitVec.toInt_signExtend_of_le (by decide)
    exact (IntTy.val_toInt (t := .s64) rfl rfl (imm.signExtend 64)).trans h

/-- A comparison is what its condition means (R112). -/
theorem Cond.holds_eq {r : Cond → Int → Int → Prop} (hr : ∀ x y, (r .eq x y ↔ x = y) ∧ (r .ne x y ↔ x ≠ y) ∧ (r .lt x y ↔ x < y) ∧
    (r .le x y ↔ x ≤ y) ∧ (r .gt x y ↔ x > y) ∧ (r .ge x y ↔ x ≥ y)) {k : Cond} {v : Bool} {x y : Int} (hv : v = true ↔ r k x y) :
    k.holds x y = v := by
  obtain ⟨heq, hne, hlt, hle, hgt, hge⟩ := hr x y
  rw [Bool.eq_iff_iff, hv]
  cases k <;> simp [Cond.holds, *]

/-! ### Shifts and rotations of a width (R114) -/

theorem ofNat_wrapInt (w : Nat) (z : Int) : BitVec.ofNat w (wrapInt w z) = BitVec.ofInt w z := by
  apply BitVec.eq_of_toNat_eq
  rw [BitVec.toNat_ofNat, wrapInt, ← BitVec.toNat_ofInt]
  exact Nat.mod_eq_of_lt (BitVec.isLt _)

section Word
variable {w : Nat} (x : BitVec w) (n : Nat)

theorem ofNat_mul_two_pow : BitVec.ofNat w (x.toNat * 2 ^ n % 2 ^ w) = x <<< n := by
  apply BitVec.eq_of_toNat_eq
  simp [Nat.shiftLeft_eq]

theorem ofNat_div_two_pow : BitVec.ofNat w (x.toNat / 2 ^ n) = x >>> n := by
  apply BitVec.eq_of_toNat_eq
  rw [BitVec.toNat_ofNat, BitVec.toNat_ushiftRight, Nat.shiftRight_eq_div_pow]
  exact Nat.mod_eq_of_lt (Nat.lt_of_le_of_lt (Nat.div_le_self ..) x.isLt)

theorem ofNat_shl : BitVec.ofNat w (if n < w then x.toNat * 2 ^ n % 2 ^ w else 0) = x <<< n := by
  split
  · exact ofNat_mul_two_pow x n
  · rw [BitVec.shiftLeft_eq_zero (by omega)]

theorem ofNat_ushr : BitVec.ofNat w (if n < w then x.toNat / 2 ^ n else 0) = x >>> n := by
  split
  · exact ofNat_div_two_pow x n
  · rw [BitVec.ushiftRight_eq_zero (by omega)]

theorem ofNat_rolValue : BitVec.ofNat w (rolValue w x.toNat n) = x.rotateLeft n := by
  rw [rolValue, BitVec.ofNat_or, ofNat_mul_two_pow, ofNat_div_two_pow, BitVec.rotateLeft_def]

/-- A right rotation is the left rotation by the rest of the width (R114). -/
theorem ofNat_rorValue (hw : 0 < w) : BitVec.ofNat w (rorValue w x.toNat n) = x.rotateRight n := by
  rw [rorValue, ofNat_rolValue, BitVec.rotateLeft_def, BitVec.rotateRight_def]
  rcases Nat.eq_zero_or_pos (n % w) with h | h
  · rw [h, Nat.sub_zero, Nat.mod_self, Nat.sub_zero, BitVec.shiftLeft_zero, BitVec.ushiftRight_zero,
      BitVec.ushiftRight_eq_zero (Nat.le_refl w), BitVec.shiftLeft_eq_zero (Nat.le_refl w), BitVec.or_zero]
  · have hlt : n % w < w := Nat.mod_lt _ hw
    rw [Nat.mod_eq_of_lt (by omega), Nat.sub_sub_self (Nat.le_of_lt hlt), BitVec.or_comm]
end Word

theorem ofNat_shlValue {t : IntTy} {w : Nat} (hw : t.w = w) (x : BitVec w) (n : Nat) :
    BitVec.ofNat w (shlValue t x.toNat n) = x <<< n := by
  subst hw
  exact ofNat_shl x n

/-- A right shift of a signed type stops at the sign bit (R114). -/
theorem ofNat_shrValue {t : IntTy} {w : Nat} (hw : t.w = w) (x : BitVec w) (n : Nat) :
    BitVec.ofNat w (shrValue t x.toNat n) = if t.sgn then x.sshiftRight (min n (w - 1)) else x >>> n := by
  subst hw
  have hpos : 0 < t.w := by cases t <;> decide
  have hmin : (if n < t.w then n else t.w - 1) = min n (t.w - 1) := by split <;> omega
  by_cases hs : t.sgn = true
  · rw [shrValue, if_pos hs, if_pos hs, hmin, IntTy.val_toInt rfl hs, ofNat_wrapInt, BitVec.sshiftRight, Int.shiftRight_eq_div_pow]
  · rw [shrValue, if_neg hs, if_neg hs, ofNat_ushr]

/-- A number written to a register or pair is its bits of that width (R107). -/
theorem setNum_eq_writeBits {u : Cur} {wide : Bool} {d a : G} {f : Nat → Nat} {v64 : DWord} {v32 : Word}
    (h64 : wide = true → BitVec.ofNat 64 (f (u.t.pair a).toNat) = v64)
    (h32 : wide = false → BitVec.ofNat 32 (f (u.t.val a).toNat) = v32) :
    u.t.setNum wide d (f (u.t.num wide a)) = writeBits u wide d v64 v32 := by
  cases wide with
  | false => exact congrArg (fun v => u.t.setReg d ⟨v, .P⟩) (h32 rfl)
  | true => exact congrArg (u.t.setPair d) (h64 rfl)

theorem IntTy.w_of_wide {t : IntTy} (h : t.wide = true) : t.w = 64 := if_pos h
theorem IntTy.w_of_not_wide {t : IntTy} (h : t.wide = false) : t.w = 32 := by simp [IntTy.w, h]

/-! ### Fields -/

/-- The bits of a field's mask, cut at bit 31 (R68). -/
theorem testBit_fieldMask (p w i : Nat) : ((2 ^ w - 1) * 2 ^ p % 2 ^ 32).testBit i = decide (p ≤ i ∧ i < p + w ∧ i < 32) := by
  rw [Nat.testBit_mod_two_pow, Nat.testBit_mul_two_pow, Nat.testBit_two_pow_sub_one, Bool.eq_iff_iff]
  simp
  omega

/-- The field of width w from bit p, as a number: bit i is bit p + i as far as the field goes. -/
theorem testBit_extracted (x p w i : Nat) :
    ((x &&& (2 ^ w - 1) * 2 ^ p % 2 ^ 32) / 2 ^ p).testBit i = (decide (i < min w (32 - p)) && x.testBit (p + i)) := by
  have hfield : (p ≤ i + p ∧ i + p < p + w ∧ i + p < 32) ↔ i < min w (32 - p) := by omega
  rw [Nat.testBit_div_two_pow, Nat.testBit_and, testBit_fieldMask, decide_eq_decide.2 hfield, Bool.and_comm, Nat.add_comm i p]

/-- A number of n bits with every bit from n to 31 set. -/
theorem testBit_add_upper {v n i : Nat} (hv : v < 2 ^ n) (hn : n ≤ 32) (hi : i < 32) :
    (v + (2 ^ 32 - 2 ^ n)).testBit i = if i < n then v.testBit i else true := by
  have hsum : v + (2 ^ 32 - 2 ^ n) = 2 ^ n * (2 ^ (32 - n) - 1) + v := by
    rw [Nat.mul_sub, ← Nat.pow_add, Nat.add_sub_cancel' hn, Nat.mul_one, Nat.add_comm]
  rw [hsum, Nat.testBit_two_pow_mul_add _ hv, Nat.testBit_two_pow_sub_one]
  split
  · rfl
  · exact decide_eq_true (by omega)

/-- BFX, bit by bit (R68): n is the field's width, cut at bit 31. -/
theorem testBit_bfxValue {x p w n i : Nat} (sgn : Bool) (hn : n = min (min w 32) (32 - p)) (hi : i < 32) :
    (bfxValue x p w sgn).testBit i = if i < n then x.testBit (p + i) else sgn && decide (0 < n) && x.testBit (p + n - 1) := by
  have hw : (if w < 32 then w else 32) = min w 32 := by split <;> omega
  have hlen : (if min w 32 < 32 - p then min w 32 else 32 - p) = n := by split <;> omega
  rw [bfxValue, hw, hlen]
  generalize hv : (x &&& (2 ^ min w 32 - 1) * 2 ^ p % 2 ^ 32) / 2 ^ p = v
  have hbit (j : Nat) : v.testBit j = (decide (j < n) && x.testBit (p + j)) := by rw [← hv, testBit_extracted, hn]
  have hlt : v < 2 ^ n := Nat.lt_pow_two_of_testBit _ fun j hj => by simp [hbit, Nat.not_lt.2 hj]
  have htop : (sgn && decide (0 < n) && v.testBit (n - 1)) = (sgn && decide (0 < n) && x.testBit (p + n - 1)) := by
    rcases Nat.eq_zero_or_pos n with h0 | h0
    · simp [h0]
    · rw [hbit, decide_eq_true (show n - 1 < n by omega), Nat.add_sub_assoc h0, Bool.true_and]
  have hn32 : n ≤ 32 := by omega
  clear hn
  rw [htop]
  cases hs : sgn && decide (0 < n) && x.testBit (p + n - 1) with
  | true =>
    rw [if_pos rfl, testBit_add_upper hlt hn32 hi, hbit]
    by_cases hin : i < n <;> simp [hin]
  | false =>
    rw [if_neg (by decide), hbit]
    by_cases hin : i < n <;> simp [hin]

/-- BFI, bit by bit (R68). -/
theorem testBit_bfiValue {d x p w i : Nat} (hi : i < 32) :
    (bfiValue d x p w).testBit i = if p ≤ i ∧ i < p + min w 32 then x.testBit (i - p) else d.testBit i := by
  have hw : (if w < 32 then w else 32) = min w 32 := by split <;> omega
  have hm : (2 ^ min w 32 - 1) * 2 ^ p % 2 ^ 32 < 2 ^ 32 := Nat.mod_lt _ (by decide)
  rw [bfiValue, hw, Nat.sub_sub, Nat.add_comm 1, Nat.testBit_or, Nat.testBit_and, Nat.testBit_and, Nat.testBit_two_pow_sub_succ hm,
    testBit_fieldMask, Nat.testBit_mod_two_pow, Nat.testBit_mul_two_pow]
  split
  case isTrue hin => simp [hin, hi]
  case isFalse hout => simp [hout, hi]

/-! ### The instructions -/

/-- R112: CMP in both forms. -/
theorem compareResults : CompareResults := by
  intro s u c p a b imm t r hr k v
  refine ⟨fun h hv => ?_, fun h hv => ?_⟩
  · have hval : k.holds (t.val (u.t.num t.wide a)) (t.val (u.t.num t.wide b)) = v := by
      rw [IntTy.val_num, IntTy.val_num, Cond.holds_eq hr hv]
    exact hval ▸ execLocal_completes 1 _ _ h
  · have hval : k.holds (t.val (u.t.num t.wide a)) (t.val (immNum t imm)) = v := by
      rw [IntTy.val_num, IntTy.val_immNum, Cond.holds_eq hr hv]
    exact hval ▸ execLocal_completes 1 _ _ h

section Shift
variable {s : State} {u : Cur} {c : Ctl} {d a b : G} {wide : Bool} {f : Nat → Nat → Nat} {t' : Thread}

theorem execShift_completes (hv : u.t.setNum wide d (f (u.t.num wide a) ((u.t.val b).toNat % 256)) = t')
    (h : Ready s u c (precise [(d, wideN wide)] [(a, wideN wide), (b, 1)] [])) :
    Completes c s u 0 (execShift c d a b wide f s) t' :=
  hv ▸ execLocal_completes 1 _ _ h

theorem execShiftI_completes {n : BitVec 8} (hv : u.t.setNum wide d (f (u.t.num wide a) n.toNat) = t')
    (h : Ready s u c (precise [(d, wideN wide)] [(a, wideN wide)] [])) : Completes c s u 0 (execShiftI c d a n wide f s) t' :=
  hv ▸ execLocal_completes 1 _ _ h
end Shift

section Value
variable (u : Cur) (t : IntTy) (wide : Bool) (d a : G) (k : Nat)

theorem setNum_shlValue : u.t.setNum t.wide d (shlValue t (u.t.num t.wide a) k)
    = writeBits u t.wide d (u.t.pair a <<< k) (u.t.val a <<< k) :=
  setNum_eq_writeBits (f := fun x => shlValue t x k) (fun h => ofNat_shlValue (IntTy.w_of_wide h) _ k)
    fun h => ofNat_shlValue (IntTy.w_of_not_wide h) _ k

theorem setNum_shrValue : u.t.setNum t.wide d (shrValue t (u.t.num t.wide a) k)
    = if t.sgn then writeBits u t.wide d ((u.t.pair a).sshiftRight (min k 63)) ((u.t.val a).sshiftRight (min k 31))
      else writeBits u t.wide d (u.t.pair a >>> k) (u.t.val a >>> k) := by
  refine (setNum_eq_writeBits (f := fun x => shrValue t x k) (fun h => ofNat_shrValue (IntTy.w_of_wide h) _ k)
    fun h => ofNat_shrValue (IntTy.w_of_not_wide h) _ k).trans ?_
  split <;> rfl

theorem setNum_rolValue : u.t.setNum wide d (rolValue (if wide then 64 else 32) (u.t.num wide a) k)
    = writeBits u wide d ((u.t.pair a).rotateLeft k) ((u.t.val a).rotateLeft k) := by
  refine setNum_eq_writeBits (f := fun x => rolValue (if wide then 64 else 32) x k) (fun h => ?_) fun h => ?_
  all_goals subst h; exact ofNat_rolValue _ k

theorem setNum_rorValue : u.t.setNum wide d (rorValue (if wide then 64 else 32) (u.t.num wide a) k)
    = writeBits u wide d ((u.t.pair a).rotateRight k) ((u.t.val a).rotateRight k) := by
  refine setNum_eq_writeBits (f := fun x => rorValue (if wide then 64 else 32) x k) (fun h => ?_) fun h => ?_
  all_goals subst h; exact ofNat_rorValue _ k (by decide)
end Value

/-- R114: SHL, SHR, ROL and ROR by a register and by an immediate. -/
theorem shiftResults : ShiftResults := by
  intro s u c d a b n t wide k shr shl rol ror
  refine ⟨fun h => ⟨?_, ?_⟩, fun h => ⟨?_, ?_⟩, fun h => ⟨?_, ?_⟩, fun h => ⟨?_, ?_⟩⟩
  · exact execShift_completes (setNum_shlValue u t d a k) h
  · exact execShift_completes (setNum_shrValue u t d a k) h
  · exact execShiftI_completes (setNum_shlValue u t d a _) h
  · exact execShiftI_completes (setNum_shrValue u t d a _) h
  · exact execShift_completes (setNum_rolValue u wide d a k) h
  · exact execShift_completes (setNum_rorValue u wide d a k) h
  · exact execShiftI_completes (setNum_rolValue u wide d a _) h
  · exact execShiftI_completes (setNum_rorValue u wide d a _) h

theorem getLsbD_ofNat_word (v : Nat) {i : Nat} (hi : i < 32) : (BitVec.ofNat 32 v).getLsbD i = v.testBit i := by
  rw [BitVec.getLsbD_ofNat, decide_eq_true hi, Bool.true_and]

/-- The word BFX gives (R68): its field is cut to 32 bits before it is cut at bit 31. -/
theorem getLsbD_bfxValue (x : Word) (p w : Nat) (sgn : Bool) {i : Nat} (hi : i < 32) :
    let n := min (min w 32) (32 - p)
    (BitVec.ofNat 32 (bfxValue x.toNat p w sgn)).getLsbD i
      = if i < n then x.getLsbD (p + i) else sgn && decide (0 < n) && x.getLsbD (p + n - 1) :=
  (getLsbD_ofNat_word _ hi).trans (testBit_bfxValue sgn rfl hi)

theorem getLsbD_bfiValue (old x : Word) (p w : Nat) {i : Nat} (hi : i < 32) :
    (BitVec.ofNat 32 (bfiValue old.toNat x.toNat p w)).getLsbD i
      = if p ≤ i ∧ i < p + min w 32 then x.getLsbD (i - p) else old.getLsbD i :=
  (getLsbD_ofNat_word _ hi).trans (testBit_bfiValue hi)

/-- R68 and R116: BFX and BFI by registers and by immediates. -/
theorem bitFieldResults : BitFieldResults := by
  intro s u c d a b cc pos width sgn x extracted inserted rp rw iw
  refine ⟨fun h => ⟨_, ?_, execLocal_completes 1 _ _ h⟩, fun h => ⟨_, ?_, execLocal_completes 1 _ _ h⟩,
    fun h => ⟨_, ?_, execLocal_completes 1 _ _ h⟩, fun h => ⟨_, ?_, execLocal_completes 1 _ _ h⟩⟩
  · exact fun i => getLsbD_bfxValue x rp _ sgn
  · exact fun i => getLsbD_bfxValue x _ _ sgn
  · exact fun i => getLsbD_bfiValue _ x rp _
  · exact fun i => getLsbD_bfiValue _ x _ _

/-- Settles O5, from the three families of instructions. -/
theorem comparesShiftsFields : Obligations.ComparesShiftsFields := ⟨compareResults, shiftResults, bitFieldResults⟩

end Sys2Proof.Machine
end

section
/-! SUPPORT. R66 and R161 to R164: what a collective gives its participants. Rounded codes lie in their own envelope; the sum of the lanes of
a vote is a mask; what a completion writes for each signature; the fold, lane by lane. -/

namespace Sys2Proof.Machine

/-! ### Rounded codes and their envelope (R136, R190, R191, R316) -/

/-- A rounded code is the canonical NaN, or a sign with the magnitude of a finite value or of the infinity. -/
def RoundedCode (t : Ty) (r : Nat) : Prop :=
  r = nanCode t ∨ ∃ neg mag, r = signed t neg mag ∧ (mag ≤ maxFinite t ∨ (hasInf t = true ∧ mag = infCode t))

/-- A finite overflow goes to the greatest finite value or to the infinity, whichever the rounding mode asks for (R136). -/
theorem overflow_magnitude {t : Ty} {toMax : Bool} (hinf : hasInf t = true) :
    (if toMax then maxFinite t else infCode t) ≤ maxFinite t ∨
      (hasInf t = true ∧ (if toMax then maxFinite t else infCode t) = infCode t) := by
  cases toMax with
  | true => exact .inl (Nat.le_refl _)
  | false => exact .inr ⟨hinf, rfl⟩

theorem overflowCode_rounded (t : Ty) (rm : Rm) (sat neg : Bool) : RoundedCode t (overflowCode t rm sat neg) := by
  unfold overflowCode
  dsimp only
  split
  · exact .inr ⟨_, _, rfl, .inl (Nat.le_refl _)⟩
  · split
    case isTrue hinf => exact .inr ⟨_, _, rfl, overflow_magnitude hinf⟩
    case isFalse =>
      split
      · exact .inl rfl
      · exact .inr ⟨_, _, rfl, .inl (Nat.le_refl _)⟩

theorem infinityCode_rounded (t : Ty) (sat neg : Bool) : RoundedCode t (infinityCode t sat neg) := by
  unfold infinityCode
  split
  · exact .inr ⟨_, _, rfl, .inl (Nat.le_refl _)⟩
  · split
    case isTrue hinf => exact .inr ⟨_, _, rfl, .inr ⟨hinf, rfl⟩⟩
    case isFalse =>
      split
      · exact .inl rfl
      · exact .inr ⟨_, _, rfl, .inl (Nat.le_refl _)⟩

theorem roundF_rounded (t : Ty) (rm : Rm) (sat : Bool) (dith : Nat) (v : FVal) : RoundedCode t (roundF t rm sat dith v) := by
  cases v with
  | nan => exact .inl rfl
  | inf neg => exact infinityCode_rounded t sat neg
  | num neg m e =>
    unfold roundF
    dsimp only
    split
    · exact .inr ⟨_, _, rfl, .inl (Nat.zero_le _)⟩
    · split
      · exact overflowCode_rounded t rm sat neg
      case isFalse h => exact .inr ⟨_, _, rfl, .inl (Nat.not_lt.1 h)⟩

theorem signed_lt {t : Ty} {mag : Nat} (h : mag < signBit t) (neg : Bool) : signed t neg mag < 2 * signBit t := by
  cases neg <;> simp [signed] <;> omega

theorem signed_mod {t : Ty} {mag : Nat} (h : mag < signBit t) (neg : Bool) : signed t neg mag % signBit t = mag := by
  cases neg <;> simp [signed, Nat.mod_eq_of_lt h]

section Approximate
variable {t : Ty} (ht : t ∈ ([.f16, .bf16, .e4m3] : List Ty))
include ht

/-- The formats of the approximate folds (R163): the magnitudes of their codes are below the sign bit. -/
theorem codes_fit : maxFinite t < signBit t ∧ nanCode t < signBit t ∧ (hasInf t = true → infCode t < signBit t) := by
  revert t
  decide

theorem magnitude_fits {mag : Nat} (h : mag ≤ maxFinite t ∨ (hasInf t = true ∧ mag = infCode t)) : mag < signBit t := by
  obtain ⟨hmax, -, hinf⟩ := codes_fit ht
  rcases h with h | ⟨his, rfl⟩
  · exact Nat.lt_of_le_of_lt h hmax
  · exact hinf his

theorem RoundedCode.lt {r : Nat} (h : RoundedCode t r) : r < 2 * signBit t := by
  obtain ⟨-, hnan, -⟩ := codes_fit ht
  obtain rfl | ⟨neg, mag, rfl, hmag⟩ := h
  · omega
  · exact signed_lt (magnitude_fits ht hmag) neg

/-- The only rounded code of a NaN is the canonical one (R131). -/
theorem RoundedCode.eq_nanCode {r : Nat} (h : RoundedCode t r) (hn : decodeF t r = .nan) : r = nanCode t := by
  have hr := h.lt ht
  obtain rfl | ⟨neg, mag, rfl, hmag⟩ := h
  · rfl
  · exfalso
    simp only [decodeF, Nat.mod_eq_of_lt hr, signed_mod (magnitude_fits ht hmag)] at hn
    split at hn
    · cases hn
    case isFalse hfin =>
      obtain h | ⟨hinf, rfl⟩ := hmag
      · rw [if_neg (Nat.not_lt.2 h)] at hn
        split at hn <;> cases hn
      · simp [hinf] at hfin
end Approximate

/-- The all-ones magnitude of E4M3 is its NaN (R190). -/
theorem decodeF_e4m3_nan {c : Nat} (h : c % 0x80 = 0x7F) : decodeF .e4m3 c = .nan := by
  have hmod : c % (2 * signBit .e4m3) % signBit .e4m3 = 0x7F := by
    rw [Nat.mod_mul_left_mod]
    exact h
  simp [decodeF, hmod, hasInf, maxFinite]

/-- A rounded code lies in its own envelope (R316). -/
theorem RoundedCode.inEnvelope_self {t : Ty} {r : Nat} (ht : t ∈ ([.f16, .bf16, .e4m3] : List Ty)) (h : RoundedCode t r)
    (level : Nat) : inEnvelope level t r r = true := by
  unfold inEnvelope
  split
  case h_1 hn => simpa using h.eq_nanCode ht hn
  case h_2 => simp
  case h_3 s m e hd =>
    split
    · simp
    · split
      · simpa using h.lt ht
      · have hnotNan : ¬ (t = .e4m3 ∧ r % 0x80 = 0x7F) := by
          rintro ⟨rfl, h127⟩
          rw [decodeF_e4m3_nan h127] at hd
          cases hd
        simpa using Or.inl (Classical.not_and_iff_not_or_not.1 hnotNan)

theorem envelope_mem {level : Nat} {t : Ty} {r : Nat} (hr : inEnvelope level t r r = true) (free : Nat) :
    inEnvelope level t r (envelope level t r free) = true := by
  unfold envelope
  dsimp only
  split
  · assumption
  · exact hr

/-! ### Sums of lanes as masks -/

/-- The sum of 2^lane over the arrivals that p admits, as the completion of a ballot or match makes it (R66, R164). -/
def laneSum (p : Arrival → Bool) (ps : List Arrival) (v : Nat) : Nat := ps.foldl (fun v y => if p y then v + 2 ^ y.lane else v) v

/-- Adding a bit that is not set sets it and changes no other. -/
theorem getLsbD_ofNat_add_two_pow {v i l : Nat} (hl : l < 32) (hv : (BitVec.ofNat 32 v).getLsbD i = false) :
    (BitVec.ofNat 32 (v + 2 ^ i)).getLsbD l = ((BitVec.ofNat 32 v).getLsbD l || i == l) := by
  have hbit (j : Nat) (hj : j < 32) : (BitVec.ofNat 32 (2 ^ i)).getLsbD j = decide (i = j) := by
    rw [BitVec.getLsbD_ofNat, Nat.testBit_two_pow, decide_eq_true hj, Bool.true_and]
  have hand : BitVec.ofNat 32 v &&& BitVec.ofNat 32 (2 ^ i) = 0 := by
    apply BitVec.eq_of_getLsbD_eq
    intro j hj
    rw [BitVec.getLsbD_and, hbit j hj]
    by_cases h : i = j
    · rw [← h, hv, Bool.false_and]
      exact BitVec.getLsbD_zero.symm
    · simp [h]
  rw [BitVec.ofNat_add, BitVec.add_eq_or_of_and_eq_zero _ _ hand, BitVec.getLsbD_or, hbit l hl]
  rfl

/-- With one arrival to a lane, the sum is the mask of the lanes that p admits. -/
theorem getLsbD_laneSum {p : Arrival → Bool} {ps : List Arrival} {l : Nat} (hl : l < 32) (v : Nat) (hn : (ps.map (·.lane)).Nodup)
    (hlt : ∀ y ∈ ps, y.lane < 32) (hv : ∀ y ∈ ps, (BitVec.ofNat 32 v).getLsbD y.lane = false) :
    (BitVec.ofNat 32 (laneSum p ps v)).getLsbD l = ((BitVec.ofNat 32 v).getLsbD l || ps.any fun y => y.lane == l && p y) := by
  induction ps generalizing v with
  | nil => simp [laneSum]
  | cons y ps ih =>
    obtain ⟨hfresh, hn⟩ := List.nodup_cons.1 hn
    obtain ⟨-, hlt⟩ := List.forall_mem_cons.1 hlt
    obtain ⟨hvy, hv⟩ := List.forall_mem_cons.1 hv
    rw [laneSum, List.foldl_cons, ← laneSum, List.any_cons]
    by_cases hp : p y = true
    · have hv' : ∀ z ∈ ps, (BitVec.ofNat 32 (v + 2 ^ y.lane)).getLsbD z.lane = false := fun z hz => by
        have hne : y.lane ≠ z.lane := fun e => hfresh (List.mem_map.2 ⟨z, hz, e.symm⟩)
        rw [getLsbD_ofNat_add_two_pow (hlt z hz) hvy, hv z hz]
        simpa using hne
      rw [if_pos hp, ih _ hn hlt hv', getLsbD_ofNat_add_two_pow hl hvy, hp, Bool.and_true, Bool.or_assoc]
    · rw [if_neg hp, ih _ hn hlt hv, eq_false_of_ne_true hp, Bool.and_false, Bool.false_or]

theorem getLsbD_laneSum_zero {p : Arrival → Bool} {ps : List Arrival} {l : Nat} (hl : l < 32) (hn : (ps.map (·.lane)).Nodup)
    (hlt : ∀ y ∈ ps, y.lane < 32) : (BitVec.ofNat 32 (laneSum p ps 0)).getLsbD l = ps.any fun y => y.lane == l && p y := by
  rw [getLsbD_laneSum hl 0 hn hlt (by simp)]
  simp

/-! ### The value an arrival brings -/

theorem Ty.bits_cases (t : Ty) : ((t = .n64 ∨ t = .s64) ∧ t.bits = 64) ∨ (¬ (t = .n64 ∨ t = .s64) ∧ t.bits ≤ 32) := by
  cases t <;> decide

theorem Arrival.value_wide (x : Arrival) : x.value 64 = x.lo.val.toNat + x.hi.val.toNat * 2 ^ 32 := by
  have hlo := x.lo.val.isLt
  have hhi := x.hi.val.isLt
  exact Nat.mod_eq_of_lt (by omega)

theorem Arrival.value_narrow (x : Arrival) {n : Nat} (h : n ≤ 32) : x.value n = x.lo.val.toNat % 2 ^ n := by
  have hdvd : 2 ^ n ∣ x.hi.val.toNat * 2 ^ 32 := Nat.dvd_mul_left_of_dvd (Nat.pow_dvd_pow 2 h) _
  rw [Arrival.value, Nat.add_mod, Nat.mod_eq_zero_of_dvd hdvd, Nat.add_zero, Nat.mod_mod]

theorem Arrival.value_eq_iff (x y : Arrival) (wide : Bool) : (y.value (if wide then 64 else 32) == x.value (if wide then 64 else 32))
    = (y.lo.val == x.lo.val && (!wide || y.hi.val == x.hi.val)) := by
  have hx := x.lo.val.isLt
  have hy := y.lo.val.isLt
  rw [Bool.eq_iff_iff]
  cases wide with
  | false => simp [Arrival.value_narrow, Nat.mod_eq_of_lt hx, Nat.mod_eq_of_lt hy, BitVec.toNat_inj]
  | true =>
    simp [Arrival.value_wide, ← BitVec.toNat_inj]
    omega

/-! ### What a completion writes, by signature (R66, R161, R162, R164) -/

theorem sourceLane_down (lane n : Nat) : sourceLane 2 lane n = if n ≤ lane then lane - n else lane := by
  by_cases h : n ≤ lane
  · rw [if_pos h, sourceLane, if_neg (by omega)]
  · rw [if_neg h, sourceLane, if_pos (by omega)]

theorem sourceLane_up (k lane n : Nat) : sourceLane (k + 3) lane n = if lane + n ≤ 31 then lane + n else lane := by
  by_cases h : lane + n ≤ 31
  · rw [if_pos h, sourceLane, if_neg (by omega)] <;> omega
  · rw [if_neg h, sourceLane, if_pos (by omega)] <;> omega

/-- The participant of a lane with a true guard. -/
def participant (ps : List Arrival) (l : Nat) : Option Arrival := ps.find? fun y => y.lane == l && y.guard

/-- A number written to register d, or to the pair of registers from d for 64 bits. -/
def Thread.putNum (t : Thread) (d : G) (bits v : Nat) (ty : TBit) : Thread :=
  if bits = 64 then (t.setReg d ⟨BitVec.ofNat 32 v, ty⟩).setReg (next d 1) ⟨BitVec.ofNat 32 (v / 2 ^ 32), ty⟩
  else t.setReg d ⟨BitVec.ofNat 32 v, ty⟩

section Finish
variable {x : Arrival} {level free : Nat} {ps : List Arrival} {t : Thread}

theorem Arrival.finish_off (hg : x.guard = false) : x.finish level free ps t = t := by
  simp [Arrival.finish, hg]

variable (hg : x.guard = true)
include hg

theorem Arrival.finish_rdv (hs : x.sig = .rdv) : x.finish level free ps t = t := by
  simp [Arrival.finish, hg, hs]

theorem Arrival.finish_shuffle_some {which : Nat} {wide : Bool} {y : Arrival} (hs : x.sig = .shuffle which wide)
    (hy : participant ps (sourceLane which x.lane x.idx) = some y) :
    let d : G := BitVec.ofNat 8 x.d
    x.finish level free ps t
      = (if wide then (t.setReg d y.lo).setReg (next d 1) y.hi else t.setReg d y.lo).setPred x.ps ⟨true, .P⟩ := by
  unfold participant at hy
  simp [Arrival.finish, hg, hs, hy]

theorem Arrival.finish_shuffle_none {which : Nat} {wide : Bool} (hs : x.sig = .shuffle which wide)
    (hy : participant ps (sourceLane which x.lane x.idx) = none) :
    let d : G := BitVec.ofNat 8 x.d
    x.finish level free ps t
      = (if wide then (t.setReg d ⟨0, .P⟩).setReg (next d 1) ⟨0, .P⟩ else t.setReg d ⟨0, .P⟩).setPred x.ps ⟨false, .P⟩ := by
  unfold participant at hy
  cases wide <;> simp [Arrival.finish, hg, hs, hy]

theorem Arrival.finish_ballot (hs : x.sig = .ballot) : x.finish level free ps t
    = t.setReg (BitVec.ofNat 8 x.d) ⟨BitVec.ofNat 32 (laneSum (fun y => y.guard && y.idx == 1) ps 0), .P⟩ := by
  simp [Arrival.finish, hg, hs, laneSum]

theorem Arrival.finish_any (hs : x.sig = .any) :
    x.finish level free ps t = t.setPred (BitVec.ofNat 3 x.d) ⟨ps.any fun y => y.guard && y.idx == 1, .P⟩ := by
  simp [Arrival.finish, hg, hs]

theorem Arrival.finish_all (hs : x.sig = .all) :
    x.finish level free ps t = t.setPred (BitVec.ofNat 3 x.d) ⟨ps.all fun y => !y.guard || y.idx == 1, .P⟩ := by
  simp [Arrival.finish, hg, hs]

theorem Arrival.finish_mat {wide : Bool} (hs : x.sig = .mat wide) : x.finish level free ps t
    = t.setReg (BitVec.ofNat 8 x.d) ⟨BitVec.ofNat 32 (laneSum (fun y => y.guard &&
        y.value (if wide then 64 else 32) == x.value (if wide then 64 else 32)) ps 0), .P⟩ := by
  simp [Arrival.finish, hg, hs, laneSum]

/-- The fold over the 32 lanes that a completion makes (R163). -/
def Arrival.fold (x : Arrival) (level free : Nat) (ps : List Arrival) (ap : Bool) (ty : Ty) (op : FoldOp) : List (Nat × Nat) :=
  foldLanes ap level op ty x.mask (fun i => (participant ps i).map (·.value ty.bits)) free 32 0 (neutral op ty)

theorem Arrival.finish_red {ap : Bool} {ty : Ty} {op : FoldOp} (hs : x.sig = .red ap ty op) : x.finish level free ps t
    = t.putNum (BitVec.ofNat 8 x.d) ty.bits (((x.fold level free ps ap ty op).getLast?.map (·.2)).getD 0) (tyOf ap) := by
  simp [Arrival.finish, hg, hs, Arrival.fold, participant, Thread.putNum]

theorem Arrival.finish_scan {ap excl : Bool} {ty : Ty} {op : FoldOp} (hs : x.sig = .scan ap ty op excl) : x.finish level free ps t
    = t.putNum (BitVec.ofNat 8 x.d) ty.bits (let p := (x.fold level free ps ap ty op).getD x.lane (0, 0); if excl then p.1 else p.2)
        (tyOf ap) := by
  simp [Arrival.finish, hg, hs, Arrival.fold, participant, Thread.putNum]
end Finish

/-- R66, R161, R162 and R164: shuffles, votes and matches. -/
theorem collectiveResults : CollectiveResults := by
  intro x level free ps t wide which hd d from_ j
  have hj : sourceLane which x.lane x.idx = j := by
    dsimp only [j]
    match which with
    | 0 => rfl
    | 1 => rfl
    | 2 => exact sourceLane_down x.lane x.idx
    | k + 3 => exact sourceLane_up k x.lane x.idx
  refine ⟨Arrival.finish_off, Arrival.finish_rdv, fun hg hs => ⟨fun y hy => ?_, fun hy => ?_⟩, fun hg hs hn hlt => ?_, Arrival.finish_any,
    fun hg hs => ?_, fun hg hs hn hlt => ?_⟩
  · exact Arrival.finish_shuffle_some hg hs (hj ▸ hy)
  · exact Arrival.finish_shuffle_none hg hs (hj ▸ hy)
  · refine ⟨_, fun l hl => ?_, Arrival.finish_ballot hg hs⟩
    rw [getLsbD_laneSum_zero hl hn hlt]
    simp only [Bool.and_assoc]
  · rw [Arrival.finish_all hg hs, List.all_eq_not_any_not]
    simp [bne]
  · refine ⟨_, fun l hl => ?_, Arrival.finish_mat hg hs⟩
    rw [getLsbD_laneSum_zero hl hn hlt]
    simp only [Arrival.value_eq_iff, Bool.and_assoc]

/-! ### Folds (R163) -/

/-- One lane's step of a fold, with the lane's free value. -/
def laneStep (ap : Bool) (level : Nat) (op : FoldOp) (t : Ty) (free i acc c : Nat) : Nat :=
  if ap then foldAp level op t acc c (Config.freeWord (free + i)).toNat else foldStep op t acc c

/-- The fold's value before lane i. -/
def foldAt (ap : Bool) (level : Nat) (op : FoldOp) (t : Ty) (mask : Word) (con : Nat → Option Nat) (free : Nat) : Nat → Nat
  | 0 => neutral op t
  | i + 1 =>
    let acc := foldAt ap level op t mask con free i
    if mask.getLsbD i then laneStep ap level op t free i acc ((con i).getD (neutral op t)) else acc

theorem foldLanes_eq (ap : Bool) (level : Nat) (op : FoldOp) (t : Ty) (mask : Word) (con : Nat → Option Nat) (free n i : Nat) :
    foldLanes ap level op t mask con free n i (foldAt ap level op t mask con free i) = (List.range' i n).map fun k =>
      (foldAt ap level op t mask con free k, foldAt ap level op t mask con free (k + 1)) := by
  induction n generalizing i with
  | zero => rfl
  | succ n ih =>
    have hnext : foldAt ap level op t mask con free (i + 1) = if mask.getLsbD i then
        laneStep ap level op t free i (foldAt ap level op t mask con free i) ((con i).getD (neutral op t))
      else foldAt ap level op t mask con free i := rfl
    rw [List.range'_succ, List.map_cons, ← ih, hnext, foldLanes]
    split <;> rfl

section Step
variable {ap : Bool} {level free i acc c : Nat} {op : FoldOp} {t : Ty}

/-- Outside a sum, and below level 8, an approximate step is the exact one (R163). -/
theorem foldAp_exact (hop : op ≠ .add) (hl : level ≠ 8) (free : Nat) : foldAp level op t acc c free = foldStep op t acc c := by
  have hlevel : (level == 8) = false := beq_eq_false_iff_ne.2 hl
  cases op with
  | add => exact absurd rfl hop
  | _ => simp only [foldAp, hlevel, Bool.false_eq_true, if_false]

theorem laneStep_exact (h : ap = false ∨ (op ≠ .add ∧ level ≠ 8)) : laneStep ap level op t free i acc c = foldStep op t acc c := by
  obtain rfl | ⟨hop, hl⟩ := h
  · rfl
  · rw [laneStep, foldAp_exact hop hl, ite_self]

/-- A step of an approximate sum is a member of the envelope of the exact one (R163, R316). -/
theorem laneStep_envelope (ht : t ∈ ([.f16, .bf16, .e4m3] : List Ty)) :
    inEnvelope level t (foldStep .add t acc c) (laneStep true level .add t free i acc c) = true := by
  have hint : t.isInt = false := by
    revert t
    decide
  have hr : RoundedCode t (foldStep .add t acc c) := by
    simp only [foldStep, hint, rne]
    exact roundF_rounded ..
  exact envelope_mem (hr.inEnvelope_self ht level) _
end Step

/-- The fold's value before lane i of the mask of arrival x. -/
def Arrival.foldAt (x : Arrival) (level free : Nat) (ps : List Arrival) (ap : Bool) (ty : Ty) (op : FoldOp) : Nat → Nat :=
  Machine.foldAt ap level op ty x.mask (fun i => (participant ps i).map (·.value ty.bits)) free

section Lane
variable (x : Arrival) (level free : Nat) (ps : List Arrival) (ap : Bool) (ty : Ty) (op : FoldOp)

theorem Arrival.foldAt_skips {i : Nat} (hm : x.mask.getLsbD i = false) :
    x.foldAt level free ps ap ty op (i + 1) = x.foldAt level free ps ap ty op i :=
  if_neg (by simp [hm])

theorem Arrival.foldAt_steps {i : Nat} (hm : x.mask.getLsbD i = true) : x.foldAt level free ps ap ty op (i + 1)
    = laneStep ap level op ty free i (x.foldAt level free ps ap ty op i)
        (((participant ps i).map (·.value ty.bits)).getD (neutral op ty)) :=
  if_pos hm

theorem Arrival.fold_eq : x.fold level free ps ap ty op
      = (List.range' 0 32).map fun k => (x.foldAt level free ps ap ty op k, x.foldAt level free ps ap ty op (k + 1)) :=
  foldLanes_eq ap level op ty x.mask _ free 32 0

/-- The fold ends with its value after lane 31. -/
theorem Arrival.fold_last :
    ((x.fold level free ps ap ty op).getLast?.map (·.2)).getD 0 = x.foldAt level free ps ap ty op 32 := by
  rw [Arrival.fold_eq, List.getLast?_map, List.getLast?_range', if_neg (by decide), Option.map_some, Option.map_some, Option.getD_some]

/-- The fold holds, for each lane, its values before and after the lane. -/
theorem Arrival.fold_lane {l : Nat} (hl : l < 32) :
    (x.fold level free ps ap ty op).getD l (0, 0) = (x.foldAt level free ps ap ty op l, x.foldAt level free ps ap ty op (l + 1)) := by
  rw [Arrival.fold_eq, List.getD_eq_getElem?_getD, List.getElem?_map, List.getElem?_range' hl, Nat.one_mul, Nat.zero_add,
    Option.map_some, Option.getD_some]

end Lane

theorem Arrival.value_bits (x : Arrival) (t : Ty) :
    x.value t.bits = (x.lo.val.toNat + (if t = .n64 ∨ t = .s64 then x.hi.val.toNat * 2 ^ 32 else 0)) % 2 ^ t.bits := by
  obtain ⟨hw, hb⟩ | ⟨hw, hb⟩ := Ty.bits_cases t
  · rw [if_pos hw, Arrival.value]
  · rw [if_neg hw, Nat.add_zero, Arrival.value_narrow x hb]

theorem Thread.putNum_bits (t : Thread) (d : G) (ty : Ty) (v : Nat) (tb : TBit) : t.putNum d ty.bits v tb
    = if ty = .n64 ∨ ty = .s64 then
        (t.setReg d ⟨BitVec.ofNat 32 v, tb⟩).setReg (next d 1) ⟨BitVec.ofNat 32 (v / 2 ^ 32), tb⟩
      else t.setReg d ⟨BitVec.ofNat 32 v, tb⟩ := by
  obtain ⟨hw, hb⟩ | ⟨hw, hb⟩ := Ty.bits_cases ty
  · rw [if_pos hw, Thread.putNum, if_pos hb]
  · rw [if_neg hw, Thread.putNum, if_neg (by omega)]

/-- R163: GRED and GSCN. -/
theorem foldResults : FoldResults := by
  intro x level free ps t ap ty op excl hform hlane hg wide con d tb written
  have hcon (i : Nat) : ((participant ps i).map (·.value ty.bits)).getD (neutral op ty) = con i := by
    dsimp only [con]
    unfold participant
    cases ps.find? (fun y => y.lane == i && y.guard) with
    | none => rfl
    | some y =>
      rw [Option.map_some, Option.getD_some]
      exact Arrival.value_bits y ty
  have hwritten (v : Nat) : t.putNum d ty.bits v tb = written v := Thread.putNum_bits t d ty v tb
  have hstep (i : Nat) (hm : x.mask.getLsbD i = true) : x.foldAt level free ps ap ty op (i + 1)
      = laneStep ap level op ty free i (x.foldAt level free ps ap ty op i) (con i) := by
    rw [Arrival.foldAt_steps _ _ _ _ _ _ _ hm, hcon]
  refine ⟨x.foldAt level free ps ap ty op, rfl, fun i _ hm => Arrival.foldAt_skips _ _ _ _ _ _ _ hm, fun i _ hm h => ?_,
    fun i _ hm hap hop => ?_, fun hs => ?_, fun hs => ?_⟩
  · rw [hstep i hm, laneStep_exact h]
  · obtain ⟨hap', -⟩ | ⟨-, ht, -⟩ := hform
    · rw [hap] at hap'
      cases hap'
    · rw [hstep i hm, hap, hop]
      exact laneStep_envelope ht
  · rw [Arrival.finish_red hg hs, Arrival.fold_last, ← hwritten]
    rfl
  · rw [Arrival.finish_scan hg hs, Arrival.fold_lane _ _ _ _ _ _ _ hlane, ← hwritten]
    rfl

/-- Settles O21, from the signatures that move or vote and from the folds. -/
theorem collectiveAnswers : Obligations.CollectiveAnswers := ⟨collectiveResults, foldResults⟩

end Sys2Proof.Machine
end
